-- ==== Sys2Proof/Word.lean ====
section
/-! DEFINITION. The word types of the QG9208 model, the bounded indices of its numbered units, and the
plainest arithmetic over them: byte order (R7), sparse tables, rounding. -/

namespace Sys2Proof

/-- One byte (R6). -/
abbrev Byte := BitVec 8

/-- 32 bits: "word" and "dword" both mean this (R7). -/
abbrev Dword := BitVec 32

/-- 64 bits: host addresses (IOVAs) and 8-byte structures. -/
abbrev Qword := BitVec 64

/-- A PCIe function number, which is the holding number (R4). -/
abbrev Fn := Fin 64

/-- A root port (R3). -/
abbrev PortId := Fin 32

/-- A control core (R284). -/
abbrev CoreId := Fin 6

/-- A plot of the sea (R13). -/
abbrev PlotId := Fin 272

/-- An interrupt source of the CIC (R303). -/
abbrev SrcId := Fin 512

/-- A hardware-scheduled thread (R295). -/
abbrev ThreadId := Fin 256

/-- A device number on the Cammir tree (R48). -/
abbrev DevNum := BitVec 20

/-- An endpoint number (R48). -/
abbrev EpNum := BitVec 4

/-- The field of `w` bits at bit `lo`. -/
abbrev fld {n : Nat} (x : BitVec n) (lo w : Nat) : BitVec w := x.extractLsb' lo w

/-- The same field as a number. -/
abbrev fldN {n : Nat} (x : BitVec n) (lo w : Nat) : Nat := (x.extractLsb' lo w).toNat

/-- Bit `i`, false at and above the width. -/
abbrev bitOf {n : Nat} (x : BitVec n) (i : Nat) : Bool := x.getLsbD i

/-- A Bool as a number 0 or 1. -/
def b2n (b : Bool) : Nat := if b then 1 else 0

/-- The low `n` bytes of a number, least significant first (R7). -/
def leBytes : Nat → Nat → List Byte
  | 0, _ => []
  | n + 1, x => BitVec.ofNat 8 x :: leBytes n (x / 256)

/-- The number that little-endian bytes spell (R7). -/
def leNat : List Byte → Nat
  | [] => 0
  | b :: bs => b.toNat + 256 * leNat bs

/-- The little-endian bytes of a word, `w / 8` of them (R7). -/
def wordBytes {w : Nat} (x : BitVec w) : List Byte := leBytes (w / 8) x.toNat

/-- Bytes `off` to `off + n - 1` of a structure; a missing byte contributes nothing. -/
def slice (off n : Nat) (l : List Byte) : List Byte := (l.drop off).take n

/-- The little-endian number in bytes `off` to `off + n - 1` (R7). -/
def leAt (off n : Nat) (l : List Byte) : Nat := leNat (slice off n l)

/-- Ceiling division. -/
def ceilDiv (a b : Nat) : Nat := (a + b - 1) / b

/-- `a` rounded up to a multiple of `m`. -/
def roundUp (a m : Nat) : Nat := ceilDiv a m * m

/-- Addition that stops at `cap` (saturating counters). -/
def satAdd (cap a b : Nat) : Nat := min cap (a + b)

/-- An event counter advances by one and saturates at 0xFFFF_FFFF (R395). -/
def bump (c : Dword) : Dword := if c = 0xFFFFFFFF#32 then c else c + 1

/-- Whether a number is a power of two. -/
def isPow2 (n : Nat) : Bool := n != 0 && 2 ^ n.log2 == n

/-- "a >= b" modulo 2^32, as R101 compares frames. -/
def geMod (a b : Dword) : Bool := decide ((a - b).toNat < 2 ^ 31)

/-! Sparse tables: lists of (key, value), keys strictly rising. -/

/-- A sparse table keyed by numbers. -/
abbrev Map (α : Type) := List (Nat × α)

/-- The value at a key. -/
def mget {α : Type} : Map α → Nat → Option α
  | [], _ => none
  | (k, v) :: t, i => if k = i then some v else mget t i

/-- Store a value at a key, keeping the keys rising. -/
def mput {α : Type} : Map α → Nat → α → Map α
  | [], i, x => [(i, x)]
  | (k, v) :: t, i, x =>
    if i < k then (i, x) :: (k, v) :: t
    else if i = k then (i, x) :: t
    else (k, v) :: mput t i x

/-- Remove a key. -/
def mdel {α : Type} : Map α → Nat → Map α
  | [], _ => []
  | (k, v) :: t, i => if k = i then t else (k, v) :: mdel t i

/-- Apply a function to the value at a key, if there is one. -/
def mmod {α : Type} (f : α → α) : Map α → Nat → Map α
  | [], _ => []
  | (k, v) :: t, i => if k = i then (k, f v) :: t else (k, v) :: mmod f t i

/-- Whether a key is present. -/
def mhas {α : Type} (m : Map α) (i : Nat) : Bool := (mget m i).isSome

/-! Fixed arrays. -/

/-- Apply a function to one element of a fixed array. -/
def vmod {α : Type} {n : Nat} (v : Vector α n) (i : Fin n) (f : α → α) : Vector α n :=
  v.set i.val (f v[i.val]) i.isLt

/-- An index of a fixed array from a number, if it is in range. -/
def finOf? (n i : Nat) : Option (Fin n) := if h : i < n then some ⟨i, h⟩ else none

/-- An index of a fixed array from a number modulo its size. -/
def finOf (n : Nat) [NeZero n] (i : Nat) : Fin n := ⟨i % n, Nat.mod_lt _ (Nat.pos_of_neZero n)⟩

/-- Every index of a fixed array, rising. -/
def allFin (n : Nat) : List (Fin n) := (List.range n).filterMap (finOf? n)

/-- Replace in a list every element that satisfies `p`. -/
def lmod {α : Type} (p : α → Bool) (f : α → α) (l : List α) : List α :=
  l.map fun x => if p x then f x else x

/-- The element of least key, the earliest of equals. -/
def minBy {α : Type} (key : α → Nat) : List α → Option α
  | [] => none
  | x :: xs =>
    match minBy key xs with
    | none => some x
    | some y => if key y < key x then some y else some x

/-- Insert into a list ordered by a key, after equals. -/
def insertBy {α : Type} (key : α → Nat) (x : α) : List α → List α
  | [] => [x]
  | y :: ys => if key x < key y then x :: y :: ys else y :: insertBy key x ys

/-- Sort by a key, keeping the order of equals. -/
def sortBy {α : Type} (key : α → Nat) (l : List α) : List α :=
  l.foldl (fun acc x => insertBy key x acc) []

end Sys2Proof
end

