-- ==== Sys2Proof/Types.lean ====
section
/-! DEFINITION. The kinds of operand that the commands carry and the records that both a command and the
state can hold: where an admin command comes from, what a host read brought, positions in the tree,
queue and ring parameters, journal records, yoke messages, the save image. -/

namespace Sys2Proof

/-- What a host-memory read brought: `none` when the read failed (R351). -/
abbrev ReadData := Option (List Byte)

/-- Where an admin command comes from (07_commands.md): a function's mailbox, or the command whose header
is at a unit of the function's SQ 0. -/
inductive AdminSrc where
  | mailbox (f : Fn)
  | queue (f : Fn) (unit : Nat)
  deriving DecidableEq, Repr

/-- The issuing function of an admin command. -/
def AdminSrc.fn : AdminSrc → Fn
  | .mailbox f => f
  | .queue f _ => f

/-- Whether the command came through the mailbox. -/
def AdminSrc.isMailbox : AdminSrc → Bool
  | .mailbox _ => true
  | .queue _ _ => false

/-- A downstream-facing port (R70): a root port, or downstream port `port` of hub `hub`. -/
inductive Position where
  | root (p : PortId)
  | hubPort (hub : DevNum) (port : Nat)
  deriving DecidableEq, Repr

/-- A position whose leadership the yoke moves (R267): a root port's tree, or a dual-upstream hub's subtree. -/
inductive LeadPos where
  | port (p : PortId)
  | hub (n : DevNum)
  deriving DecidableEq, Repr

/-- The object of a release-word read or of a takeover probe (R151, R165, R193, R275). -/
inductive RingRef where
  | sheaf (n : Nat)
  | alarm (adopted : Bool)
  | cq (n : Nat)
  deriving DecidableEq, Repr

/-- The PLLs whose lock the clock and reset unit watches, and the ACLK itself (R21, R380). -/
inductive Pll where
  | hclk | pclk | lclk | bclk | cclk | tclk | aclk
  deriving DecidableEq, Repr

/-- What the plot's health word reports (R254, R403 control 17). -/
inductive PlotFault where
  | eccDouble | parity | watchdog | missing
  deriving DecidableEq, Repr

/-- The block in which an uncorrectable error outside the plots was found (R255). -/
inductive EccSite where
  | entryCache (f : Fn) (sq : Nat)
  | portBuffer (p : PortId)
  | sheafBuffer (p : PortId) (place : Nat)
  | firmwareMemory (c : CoreId)
  | userMemory (c : CoreId) (store : Bool)
  | hubEntry (n : DevNum)
  | tripRule (n : Fin 1024)
  | journal (partnerHalf : Bool) (holding : Fn)
  deriving DecidableEq, Repr

/-- Which host-memory read a completion, or a completion timeout, belongs to (R351). -/
inductive ReadTag where
  /-- A poll's 32-byte header read (R180). -/
  | poll (f : Fn) (sq : Nat)
  /-- A fetch read (R182). -/
  | fetch (f : Fn) (sq : Nat)
  /-- A release-word read (R151, R165, R193). -/
  | release (f : Fn) (r : RingRef)
  /-- The merged slot-entry read of a headland (R102), of the own field map or the partner's (R267, R277). -/
  | slot (f : Fn) (adopted : Bool)
  /-- A plot's read of the row table (`none`) or of row `r`'s list (R106, R112). -/
  | rows (p : PlotId) (adopted : Bool) (what : Option (Fin 16))
  /-- One of the three reads of an out slot, for a staged descriptor (R110). -/
  | outSlot (id : Nat)
  /-- The context read of a staged SOLO descriptor (R113). -/
  | soloContext (id : Nat)
  /-- A reap-image read for a staged REAP descriptor (R142). -/
  | reapImage (id : Nat)
  /-- The context read of a started entry (R184). -/
  | context (item : Nat)
  /-- The scatter-data read of a started OUT entry (R191). -/
  | outData (item : Nat)
  /-- The reap-image read of a replant (R145). -/
  | replant (id : Nat)
  /-- The tally read of a takeover (R274). -/
  | tally
  /-- The settling read of the controller's own tally word (R262). -/
  | settle
  /-- A takeover probe (R275). -/
  | probe (f : Fn) (r : RingRef)
  /-- A load from the ring window (R289). -/
  | window (c : CoreId)
  /-- A Skelku host copy from the host (R293). -/
  | hostCopy (t : ThreadId)
  /-- The read that a command brings with it: an image (R154, R288) or contexts (R211). -/
  | image (f : Fn)
  /-- The read of a save image (R250). -/
  | save (f : Fn)
  deriving DecidableEq, Repr

/-- The two heartbeat paths (R271). -/
inductive BeatPath where
  | link | wire
  deriving DecidableEq, Repr

/-- What wakes the chip (R333). -/
inductive WakeSrc where
  | source (n : Fin 64)
  | timer
  | mailbox
  deriving DecidableEq, Repr

/-- Which core a register access comes from, or the host's function (R286, R358). -/
inductive RegPort where
  | bar0 (f : Fn)
  | core (c : CoreId)
  deriving DecidableEq, Repr

/-- A step of the inrush governor (R337). -/
inductive GovStep where
  | plots (strip : Nat)
  | serdes (p : PortId)
  | block (id : Nat)
  deriving DecidableEq, Repr

/-! Parameters of queues, rings and maps, as the commands set them. -/

/-- CREATE SQ parameters (R168). -/
structure SqParams where
  base : Qword := 0
  size : Nat := 64
  cq : Nat := 0
  headMirror : Qword := 0
  kb : Nat := 0
  kc : Nat := 0
  deriving DecidableEq, Repr

/-- CREATE CQ parameters (R169). -/
structure CqParams where
  base : Qword := 0
  size : Nat := 64
  release : Qword := 0
  ien : Bool := false
  vector : Nat := 0
  modCount : Nat := 0
  modTime : Nat := 0
  deriving DecidableEq, Repr

/-- CREATE SHEAF RING parameters (R148). -/
structure SheafParams where
  base : Qword := 0
  size : Nat := 65536
  release : Qword := 0
  vector : Nat := 0
  threshold : Nat := 1
  deriving DecidableEq, Repr

/-- CREATE ALARM RING parameters (R164). -/
structure AlarmParams where
  base : Qword := 0
  size : Nat := 64
  release : Qword := 0
  vector : Nat := 0
  all : Bool := false
  deriving DecidableEq, Repr

/-- A holding's field map setting (R104). -/
structure FieldMap where
  addr : Qword := 0
  managed : Bool := false
  workArea : Qword := 0
  workSize : Nat := 0
  deriving DecidableEq, Repr

/-- A position in a ring: byte offset, entry index or unit, and the phase expected or written there. -/
structure RingPos where
  at_ : Nat := 0
  phase : Bool := true
  deriving DecidableEq, Repr

/-- A reap list recorded in the hub table (R142, R154): its hub, id, owner, image address, the image's
entries as planted (R137) with the deadline, the list that nests it, and the REAP GROUP that planted it. -/
structure PlantedList where
  hub : DevNum
  listId : Nat
  holding : Fn
  image : Qword
  entries : List Qword
  deadline : Nat
  nested : Bool
  group : Option Nat
  /-- Cleared: the first frame whose walk no longer accepts it (R155). -/
  gone : Option (BitVec 48) := none
  deriving DecidableEq, Repr

/-- An endpoint placed by SCHEDULE ENDPOINT (R133). `interval` 0 stands for row-rate. -/
structure Scheduled where
  dev : DevNum
  ep : EpNum
  kind : Nat
  interval : Nat
  length : Nat
  ring : Nat
  outSlot : Qword
  ctxIndex : Nat
  phase : Nat
  row : Nat
  first : BitVec 48
  deriving DecidableEq, Repr

/-- A group made by REAP GROUP (R153): root, members' endpoint, limit, interval, ring, and the REAP
descriptors placed, each as (hub, list id, phase, row). -/
structure ReapGroup where
  root : DevNum
  rootPort : Option PortId
  ep : EpNum
  limit : Nat
  interval : Nat
  ring : Nat
  placed : List (DevNum × Nat × Nat × Nat) := []
  /-- Lists being planted for a new or rebuilt schedule, its top lists, and how many plants are left. -/
  building : List (DevNum × Nat) := []
  tops : List (DevNum × Nat) := []
  left : Nat := 0
  /-- Endpoint tables of devices below its root are being read before it is built. -/
  asking : Bool := false
  deriving DecidableEq, Repr

/-! The save image of a holding (R249). -/

/-- Section 1: one SQ. -/
structure SavedSq where
  num : Nat
  par : SqParams
  head : RingPos
  started : Dword
  enabled : Bool
  deriving DecidableEq, Repr

/-- Section 2: one CQ. -/
structure SavedCq where
  num : Nat
  par : CqParams
  write : RingPos
  release : RingPos
  deriving DecidableEq, Repr

/-- Section 3: one sheaf ring. -/
structure SavedRing where
  num : Nat
  par : SheafParams
  write : RingPos
  sequence : Dword
  deriving DecidableEq, Repr

/-- Section 8: the sequence of one context. -/
structure SavedSeq where
  index : Nat
  dev : DevNum
  ep : EpNum
  e : BitVec 16
  halted : Bool
  deriving DecidableEq, Repr

/-- A holding's save image, version 1: the header fields of R249, its sections and its digest. The byte
layout of the records of sections 1 to 7 is private to version 1 (R249) and is not spelled out here. -/
structure SaveImage where
  version : Nat
  holding : Nat
  managed : Bool
  epoch : Dword
  etc : Qword
  frame : BitVec 48
  serial : Qword
  sqs : List SavedSq
  cqs : List SavedCq
  rings : List SavedRing
  alarm : Option (AlarmParams × RingPos)
  fieldMap : Option FieldMap
  ctxBase : Qword
  ctxEntries : Nat
  lists : List PlantedList
  groups : Map ReapGroup
  scheduled : List Scheduled
  seqs : List SavedSeq
  digest : BitVec 256
  deriving DecidableEq, Repr

/-! The hub tables (R79): what a commons change carries whole. -/

/-- Line rates (R32). -/
inductive Rate where
  | r250 | r1250 | r5000
  deriving DecidableEq, Repr

/-- The rate code of a port state record (R74). -/
def Rate.code : Rate → Nat
  | .r250 => 1 | .r1250 => 2 | .r5000 => 3

/-- The symbol time in ns (R32). -/
def Rate.tau : Rate → Nat
  | .r250 => 40 | .r1250 => 8 | .r5000 => 2

/-- A hub's downstream port in the hub table (R74, R235). -/
structure HubPort where
  owner : Fn := 0
  /-- Last port state record read (R74). -/
  record : BitVec 128 := 0
  deriving DecidableEq, Repr

/-- Hub part of a hub-table entry. -/
structure HubInfo where
  tier : Nat
  ports : Nat
  dual : Bool
  /-- Downstream ports that differ from reset, by number. -/
  down : Map HubPort
  /-- This controller leads the hub's subtree, for a dual-upstream hub (R267). -/
  leads : Bool
  deriving DecidableEq, Repr

/-- A numbered device (R79). -/
structure Dev where
  pos : Position
  root : PortId
  /-- Route string with tier count (R46). -/
  route : Dword
  depth : Nat
  owner : Fn
  hub : Option HubInfo
  /-- The device answers to its number: false between a port reset and its new numbering (R95). -/
  present : Bool
  /-- SET_CONFIGURATION of the enumeration has succeeded (R83). -/
  configured : Bool
  /-- The controller's copy of E of endpoint 0 for commons control (R62). -/
  e0 : BitVec 16
  /-- Rate and RTT of the link above the device (R74). -/
  rate : Rate
  rtt : Nat
  /-- The endpoint table, once it has been read (R87). -/
  endpoints : Option (List Byte) := none
  deriving DecidableEq, Repr

/-- A hub's port record; one not listed is the reset one. -/
def HubInfo.port (u : HubInfo) (n : Nat) : HubPort := (mget u.down n).getD {}

/-! The journal (R260, R261). -/

/-- Stage of a control transfer (R63, R261 byte 23). -/
inductive Stage where
  | setup | data | status
  deriving DecidableEq, Repr

/-- Kinds of position record (R261). -/
inductive PosKind where
  | sq | cq | sheafRing | alarmRing
  deriving DecidableEq, Repr

/-- A position record (R261, kinds 1 to 4). -/
structure PosRec where
  kind : PosKind
  holding : Fn
  num : Nat
  issued : RingPos
  settled : RingPos
  sequence : Dword
  deriving DecidableEq, Repr

/-- A periodic record (R261, kind 6). -/
structure PeriodicRec where
  holding : Fn
  ring : Nat
  listId : Nat
  dev : DevNum
  ep : EpNum
  row : Nat
  /-- 1 REAP, 2 SOLO-IN, 3 SOLO-OUT. -/
  kind : Nat
  frame : Dword
  serial : BitVec 16
  replied : Bool
  deriving DecidableEq, Repr

/-- An item record (R261, kind 5). -/
structure ItemRec where
  holding : Fn
  sq : Nat
  relayed : Bool
  adopted : Bool
  unit : Nat
  units : Nat
  complete : Bool
  fence : Bool
  interrupt : Bool
  tag : Dword
  dev : DevNum
  ep : EpNum
  opcode : Nat
  bytes : Nat
  seq : BitVec 16
  status : Option Byte
  stage : Stage
  length : Nat
  cq : Nat
  /-- A transaction of it is outstanding: state 2 of the record. -/
  outstanding : Bool := false
  deriving DecidableEq, Repr

/-- One change of a journal record, as it crosses the yoke (R260). -/
inductive JournalRecord where
  | position (r : PosRec)
  | periodic (r : PeriodicRec)
  | periodicFree (holding : Fn) (dev : DevNum) (frame : Dword) (row : Nat)
  | item (r : ItemRec)
  | itemFree (holding : Fn) (relayed : Bool) (sq unit : Nat)
  deriving DecidableEq, Repr

/-- A shadow record (R265): one change of a holding's queues, rings, field map, context table or reap
lists; `none` where the command removed the object. -/
inductive ShadowRecord where
  | sq (h : Fn) (n : Nat) (p : Option SqParams)
  | cq (h : Fn) (n : Nat) (p : Option CqParams)
  | sheafRing (h : Fn) (n : Nat) (p : Option SheafParams)
  | alarmRing (h : Fn) (p : Option AlarmParams)
  | fieldMap (h : Fn) (m : Option FieldMap)
  | contextTable (h : Fn) (base : Qword) (entries : Nat)
  /-- Row-rate endpoints that firmware has placed for a holding. -/
  | rowrate (h : Fn) (n : Nat)
  /-- A holding that exists on the sender as the pair is configured, and whether it has no queues, rings or field map
  (R279). -/
  | holding (h : Fn) (empty : Bool)
  | reapList (l : PlantedList) (planted : Bool)
  /-- A holding that the sender adopted goes back to a controller that has returned (R279): the image's queues, rings,
  alarm ring and field map, with their positions. -/
  | returned (h : Fn) (m : SaveImage)
  deriving DecidableEq, Repr

/-- A mirrored change of the commons (R265): what the partner's copy takes. -/
inductive CommonsChange where
  | tripRule (n : Fin 1024) (rule : BitVec 128)
  | reserve (h : Fn) (ports : Dword) (s c p w : Nat)
  | gleaning (h : Fn) (ports : Dword)
  | owner (pos : Position) (h : Fn)
  /-- The configuration that a YOKE CONFIGURE on the sender has made, with the ports that the senior is to lead. -/
  | configure (yoked : Bool) (yokedPorts leadPorts : Dword)
  /-- The yoked ports that the senior leads as things stand. -/
  | yokeConfig (yoked : Bool) (yokedPorts leadPorts : Dword)
  /-- The sender has come to lead a position (R267: "reports done"). -/
  | lead (pos : LeadPos)
  /-- The sender has withdrawn its request for a position (R268, R270). -/
  | withdrawn (pos : LeadPos)
  | device (n : DevNum) (v : Dev)
  | unbind (n : DevNum)
  | retention (plots : BitVec 6) (l2 : BitVec 10)
  deriving DecidableEq, Repr

/-- Work that a home sends to its runner (R266). -/
inductive RelayedWork where
  | entry (r : ItemRec) (setup : BitVec 96) (data : List Byte)
  | descriptor (holding : Fn) (frame : BitVec 48) (row listIndex : Nat) (raw : BitVec 256)
  deriving DecidableEq, Repr

/-- How a relayed descriptor that gives no sheaf has ended: its outcome was counted, it was invalid (R111, R113), or it
was an overrun (R126). -/
inductive RelayedEnd where
  | served | invalid | overrun
  deriving DecidableEq, Repr

/-- What a runner returns to the home (R266). -/
inductive RelayedResult where
  | entryData (holding : Fn) (sq unit : Nat) (data : List Byte)
  | entryEnd (holding : Fn) (sq unit : Nat) (status : Byte) (bytes : Nat)
  /-- A sheaf, with the cause of its failure (R145) and 0 where it has none. -/
  | sheaf (holding : Fn) (frame : Dword) (row listIndex : Nat) (header : BitVec 256) (records : List Byte) (cause : Nat)
  /-- A descriptor's end that gives no sheaf. -/
  | ended (holding : Fn) (frame : Dword) (row listIndex : Nat) (how : RelayedEnd)
  /-- An event that a counter of the home's holding counts: for a port, or for the holding (R400). -/
  | counted (holding : Fn) (port : Option PortId) (counter : Nat)
  deriving DecidableEq, Repr

end Sys2Proof
end

