-- ==== Sys2Proof/Syntax.lean ====
section
/-! DEFINITION. The commands of the QG9208 block: one constructor for each row of spec/opcode_table.json,
in the table's order, with the row's operands. -/

namespace Sys2Proof

/-- The commands of the block (opcode_table.json). -/
inductive Instr where
  /-- IDENTIFY (R219): returns controller data (CNS 0) or holding data (CNS 1). -/
  | identify (src : AdminSrc)
  /-- QUICK_START (R170): lays out and creates SQ 1 and CQ 1 in a host area. -/
  | quickStart (src : AdminSrc)
  /-- CREATE_SQ (R168): creates a submission queue. -/
  | createSq (src : AdminSrc)
  /-- DELETE_SQ (R169): deletes a DISABLED SQ. -/
  | deleteSq (src : AdminSrc)
  /-- CREATE_CQ (R169): creates a completion queue. -/
  | createCq (src : AdminSrc)
  /-- DELETE_CQ (R169): deletes a CQ to which no SQ is bound. -/
  | deleteCq (src : AdminSrc)
  /-- DISABLE_SQ (R196): stops polling an SQ; completes once it is DISABLED. -/
  | disableSq (src : AdminSrc)
  /-- ENABLE_SQ (R196): resumes polling, or restarts from unit 0. -/
  | enableSq (src : AdminSrc)
  /-- RECALL_SQ (R196): takes back the fetched, unstarted entries. -/
  | recallSq (src : AdminSrc)
  /-- SET_POLL (R180): changes the poll exponent and the back-off ceiling. -/
  | setPoll (src : AdminSrc)
  /-- SET_CONTEXT_TABLE (R211): TABLE or INSTALL; `ctxs` is what INSTALL's read of the contexts brought. -/
  | setContextTable (src : AdminSrc) (ctxs : Option (List (BitVec 256)))
  /-- SET_FIELD_MAP (R104): sets or removes the field map. -/
  | setFieldMap (src : AdminSrc)
  /-- RESERVE (R115): sets a holding's region, places and weight on the masked ports. -/
  | reserve (src : AdminSrc)
  /-- SCHEDULE_ENDPOINT (R133): places a SOLO descriptor in a managed map. -/
  | scheduleEndpoint (src : AdminSrc)
  /-- UNSCHEDULE_ENDPOINT (R133): removes a scheduled endpoint. -/
  | unscheduleEndpoint (src : AdminSrc)
  /-- LOAD_REAP_LIST (R154): checks and plants a list; `image` is what the image's read brought. -/
  | loadReapList (src : AdminSrc) (image : ReadData)
  /-- CLEAR_REAP_LIST (R155): removes one list, or all of the holding's on a hub. -/
  | clearReapList (src : AdminSrc)
  /-- REAP_GROUP (R153): builds, plants and schedules lists for a group, or removes a group. -/
  | reapGroup (src : AdminSrc)
  /-- CREATE_SHEAF_RING (R148): creates a sheaf ring, or removes it with size 0. -/
  | createSheafRing (src : AdminSrc)
  /-- CREATE_ALARM_RING (R164): creates or removes the alarm ring. -/
  | createAlarmRing (src : AdminSrc)
  /-- SET_TRIP_RULE (R213): loads a rule, clears, disarms and arms outputs. -/
  | setTripRule (src : AdminSrc)
  /-- ENUMERATE (R214): LIST, MODE or PORT. -/
  | enumerate (src : AdminSrc)
  /-- ASSIGN_DEVICE (R236): sets the owner of a port. -/
  | assignDevice (src : AdminSrc)
  /-- PORT_CONTROL (R72): reads a port, or orders a transition, timeouts or POWER_STAGGER. -/
  | portControl (src : AdminSrc)
  /-- DEVICE_RESET (R95): resets the port of a device. -/
  | deviceReset (src : AdminSrc)
  /-- READ_ATTENTION_LOG (R224): releases and returns attention log entries. -/
  | readAttentionLog (src : AdminSrc)
  /-- READ_COUNTERS (R401): returns, and with CLEAR zeroes, a group of counters. -/
  | readCounters (src : AdminSrc)
  /-- RESET_ACCOUNT (R215): returns and releases reset account entries. -/
  | resetAccount (src : AdminSrc)
  /-- HOLDING_CREATE (R231): creates a VF holding. -/
  | holdingCreate (src : AdminSrc)
  /-- HOLDING_DESTROY (R246): resets a holding and frees what it has. -/
  | holdingDestroy (src : AdminSrc)
  /-- ALLOT_PLOTS (R232): changes a holding's plot allotment. -/
  | allotPlots (src : AdminSrc)
  /-- HOLDING_RESET (R242): resets a holding's queue state. -/
  | holdingReset (src : AdminSrc)
  /-- HOLDING_FREEZE (R247): freezes a holding at frame G. -/
  | holdingFreeze (src : AdminSrc)
  /-- HOLDING_SAVE (R248): writes a frozen holding's image. -/
  | holdingSave (src : AdminSrc)
  /-- HOLDING_RESTORE (R250): checks an image and restores it; `image` is what the read of the image brought. -/
  | holdingRestore (src : AdminSrc) (image : Option SaveImage)
  /-- HOLDING_THAW (R251): clears a freeze. -/
  | holdingThaw (src : AdminSrc)
  /-- SET_GLEANING (R125): sets the ports on which a holding may glean. -/
  | setGleaning (src : AdminSrc)
  /-- YOKE_CONFIGURE (R265): configures the yoked pair; `answer` is the seniority that the partner reports at once (true = senior), `none` while it has not answered. -/
  | yokeConfigure (src : AdminSrc) (answer : Option Bool)
  /-- TAKE_SUBTREE (R267): takes leadership of a position. -/
  | takeSubtree (src : AdminSrc)
  /-- YOKE_STATUS (R280): returns 32 bytes of yoke state. -/
  | yokeStatus (src : AdminSrc)
  /-- POWER_STATE (R325): prepares FALLOW or DORMANT, or answers in ACTIVE. -/
  | powerState (src : AdminSrc)
  /-- SET_RETENTION (R336): writes the retention map. -/
  | setRetention (src : AdminSrc)
  /-- LOAD_USER_IMAGE (R288): checks and loads a signed image; `image` is what its read brought. -/
  | loadUserImage (src : AdminSrc) (image : ReadData)
  /-- USER_CORE_CONTROL (R291): stops, starts, halts, resumes or reads a user core. -/
  | userCoreControl (src : AdminSrc)
  /-- TEST_CONTROL (R402): writes one test control as one step. -/
  | testControl (src : AdminSrc)
  /-- CONTROLLER_RESET (R218): stops fetching, ends started items with 0x24, completes. -/
  | controllerReset (src : AdminSrc)
  /-- CONTROLLER_RESET_TAKES_EFFECT (R218): the controller reset takes effect. -/
  | controllerResetTakesEffect
  /-- UNDEFINED_ADMIN_OPCODE (R1): a command whose opcode interface 3.2 does not define. -/
  | undefinedAdminOpcode (src : AdminSrc)
  /-- MBX_GO (R204): a write of MBX_GO, with the bytes `be` enabled. -/
  | mbxGo (f : Fn) (value : Dword) (be : BitVec 4)
  /-- PAD (R175): the PAD at the head of the SQ's cached entries is passed. -/
  | pad (f : Fn) (sq : Nat)
  /-- BULK_IN (R172): the BULK-IN at the head of the SQ's cached entries is started. -/
  | bulkIn (f : Fn) (sq : Nat)
  /-- BULK_OUT (R172): the BULK-OUT at the head of the SQ's cached entries is started. -/
  | bulkOut (f : Fn) (sq : Nat)
  /-- CONTROL (R186): the CONTROL at the head of the SQ's cached entries is started. -/
  | control (f : Fn) (sq : Nat)
  /-- MARK (R185): the MARK at the head of the SQ's cached entries finishes. -/
  | mark (f : Fn) (sq : Nat)
  /-- RESERVED_TRANSFER_OPCODE (R172): the entry with a reserved opcode at the head completes with 0x30. -/
  | reservedTransferOpcode (f : Fn) (sq : Nat)
  /-- POLL_DUE (R180): an SQ's poll interval expires. -/
  | pollDue (f : Fn) (sq : Nat)
  /-- POLL_READ_COMPLETE (R177): a poll read returns. -/
  | pollReadComplete (f : Fn) (sq : Nat) (unit : Option (BitVec 256))
  /-- FETCH_READ_COMPLETE (R182): a fetch read returns. -/
  | fetchReadComplete (f : Fn) (sq : Nat) (units : Option (List (BitVec 256)))
  /-- HEAD_MIRROR_WRITE (R179): the head mirror is written. -/
  | headMirrorWrite (f : Fn) (sq : Nat)
  /-- COMPLETION_WRITE (R193): the completion writer writes the next entry of a CQ. -/
  | completionWrite (f : Fn) (cq : Nat)
  /-- CQ_MODERATION_TIMEOUT (R194): the moderation time of a CQ passes. -/
  | cqModerationTimeout (f : Fn) (cq : Nat)
  /-- MSIX_UNMASK (R194): a masked vector is unmasked. -/
  | msixUnmask (f : Fn) (vector : Fin 256)
  /-- CONDITION_NOTE_WRITE (R228): the condition note of a holding is written. -/
  | conditionNoteWrite (f : Fn)
  /-- RELEASE_WORD_READ_COMPLETE (R151): a release-word read returns. -/
  | releaseWordReadComplete (f : Fn) (ring : RingRef) (word : Option Qword)
  /-- HEADLAND (R102): the headland of the next frame. -/
  | headland
  /-- SLOT_ENTRY_READ_COMPLETE (R105): the slot entry read returns. -/
  | slotEntryReadComplete (f : Fn) (adopted : Bool) (entry : Option Qword)
  /-- ROW_LIST_READ_COMPLETE (R112): a plot's read of the row table (`none`) or of a row list returns. -/
  | rowListReadComplete (p : PlotId) (adopted : Bool) (what : Option (Fin 16)) (units : Option (List (BitVec 256)))
  /-- OUT_SLOT_READ_COMPLETE (R110): an out-slot read of a staged descriptor returns. -/
  | outSlotReadComplete (id : Nat) (data : ReadData)
  /-- SOLO_CONTEXT_FETCH_COMPLETE (R113): the context read of a staged SOLO descriptor returns. -/
  | soloContextFetchComplete (id : Nat) (ctx : Option (BitVec 256))
  /-- REAP_IMAGE_READ_COMPLETE (R142): a reap list image read returns. -/
  | reapImageReadComplete (id : Nat) (image : ReadData)
  /-- ROW_BOUNDARY (R29): a row begins on every root port. -/
  | rowBoundary
  /-- APOLL_MISS_RUN_LOG (R57): the 16th consecutive APOLL miss is logged. -/
  | apollMissRunLog (p : PortId)
  /-- ARBITER_DECISION (R122): a port arbiter decides, in the first or second LCLK cycle of the BCLK tick. -/
  | arbiterDecision (p : PortId) (half : Bool)
  /-- GRANT_WITHDRAW (R124): the grant of the previous cycle is withdrawn. -/
  | grantWithdraw (p : PortId)
  /-- LATEST_START_PASSED (R126): a staged descriptor's latest start or region passes unstarted. -/
  | latestStartPassed (id : Nat)
  /-- FRAME_RETIRED_ADVANCE (R31): FRAME_RETIRED becomes F. -/
  | frameRetiredAdvance
  /-- RECEIVE_DATA (R68): a DATA packet arrives; `valid` says that no symbol was invalid (R36). -/
  | receiveData (p : PortId) (valid : Bool) (bytes : List Byte)
  /-- RECEIVE_ACK (R59): an ACK arrives. -/
  | receiveAck (p : PortId) (valid : Bool) (bytes : List Byte)
  /-- RECEIVE_NAK (R64): a NAK arrives. -/
  | receiveNak (p : PortId) (valid : Bool) (bytes : List Byte)
  /-- RECEIVE_STALL (R68): a STALL arrives. -/
  | receiveStall (p : PortId) (valid : Bool) (bytes : List Byte)
  /-- REPLANT_TRANSFER_COMPLETE (R145): a replant's transfer has ended. -/
  | replantTransferComplete (id : Nat)
  /-- RECEIVE_SHEAF (R144): a SHEAF arrives. -/
  | receiveSheaf (p : PortId) (valid : Bool) (bytes : List Byte)
  /-- SHEAF_WRITE (R150): the sheaf writer writes the next sheaf of a ring. -/
  | sheafWrite (f : Fn) (ring : Nat)
  /-- RECEIVE_ALARM_SHEAF (R158): an ALARM-SHEAF arrives. -/
  | receiveAlarmSheaf (p : PortId) (valid : Bool) (bytes : List Byte)
  /-- ALARM_MUTE (R159): the 4,096th consecutive counted row mutes a device. -/
  | alarmMute (dev : DevNum)
  /-- ALARM_UNMUTE (R159): 16 rows without an alarm unmute a device. -/
  | alarmUnmute (dev : DevNum)
  /-- ALARM_ENTRY_WRITE (R165): the alarm writer writes the next entry of a ring. -/
  | alarmEntryWrite (f : Fn) (adopted : Bool)
  /-- ALM_IN_CHANGE (R163): a filtered change of an ALM_IN input. -/
  | almInChange (n : Fin 8) (level : Bool)
  /-- PORT_CHANGE_READ_COMPLETE (R77): a GET_PORT_STATE or GET_HUB_STATUS transfer has ended. -/
  | portChangeReadComplete (id : Nat)
  /-- ENUMERATION_TRANSFER_COMPLETE (R82): a transfer or port reset of an enumeration has ended. -/
  | enumerationTransferComplete (id : Nat)
  /-- POWER_ON_ORDER_RELEASE (R78): a waiting power-on order is sent. -/
  | powerOnOrderRelease (p : PortId)
  /-- TRANSACTION_TIMEOUT (R65): a response timeout expires. -/
  | transactionTimeout (p : PortId) (tx : Nat)
  /-- NAK_REOFFER (R64): 2 us after a NAK the transaction is offered again, or a PING is. -/
  | nakReoffer (item : Nat)
  /-- REAP_TIMEOUT (R143): a REAP has no whole reply in time. -/
  | reapTimeout (p : PortId) (tx : Nat)
  /-- SIDEBAND_SCAN (R382): the sideband chain is scanned; bit n of `los` is loss of signal on port n. -/
  | sidebandScan (los : BitVec 32)
  /-- SYMBOL_LOCK_ACQUIRED (R36): a receiver has symbol lock. -/
  | symbolLockAcquired (p : PortId)
  /-- LOSS_OF_LOCK (R36): a receiver loses symbol lock. -/
  | lossOfLock (p : PortId)
  /-- TRAINING_MEASURED (R39): lock is held and 8 RTT measurements are taken, `rtt` ns the largest. -/
  | trainingMeasured (p : PortId) (rtt : Nat)
  /-- TRAINING_TRIAL_TIMEOUT (R39): the 100 us trial timer expires. -/
  | trainingTrialTimeout (p : PortId)
  /-- LMEND_TIMEOUT (R39): the 20 us recovery timer expires. -/
  | lmendTimeout (p : PortId)
  /-- LINK_RESET_ELAPSED (R39): the LINK-RESET time elapses. -/
  | linkResetElapsed (p : PortId)
  /-- RESUME_RECEIVED (R39): 4 consecutive RESUME sets are received. -/
  | resumeReceived (p : PortId)
  /-- RESUME_DONE (R39): RESUME has been sent for 20 us with lock held. -/
  | resumeDone (p : PortId)
  /-- LWAKE_TIMEOUT (R39): the 100 us wake timer expires. -/
  | lwakeTimeout (p : PortId)
  /-- SUSPEND_DRAINED (R39): a waiting suspend proceeds. -/
  | suspendDrained (p : PortId)
  /-- RETRY_HOLDOFF_EXPIRY (R407): a retry hold-off expires. -/
  | retryHoldoffExpiry (p : PortId)
  /-- DEBOUNCE_EXPIRY (R72): the 10 ms debounce expires. -/
  | debounceExpiry (p : PortId)
  /-- RESETTING_TIMEOUT (R72): 320 us after LINK-RESET the link is not up. -/
  | resettingTimeout (p : PortId)
  /-- RESUMING_TIMEOUT (R72): 100 us after RESUME began the link is not up. -/
  | resumingTimeout (p : PortId)
  /-- PORT_QUARANTINE (R72): the 8th bounce within 1 s. -/
  | portQuarantine (p : PortId)
  /-- PLOT_FAULT_DETECTED (R18): a missing or faulty health word. -/
  | plotFaultDetected (p : PlotId) (fault : PlotFault)
  /-- SPARE (R20): the survey ring spares the first isolated plot. -/
  | spare
  /-- PLOT_CLEAR_COMPLETE (R16): a plot's zero-fill ends. -/
  | plotClearComplete (p : PlotId)
  /-- ECC_UNCORRECTABLE (R255): an uncorrectable error outside the plots. -/
  | eccUncorrectable (site : EccSite)
  /-- PORT_LANE_FAULT (R256): a root-port datapath parity fault. -/
  | portLaneFault (p : PortId)
  /-- FIRMWARE_WATCHDOG_EXPIRY (R257): a firmware core misses its watchdog. -/
  | firmwareWatchdogExpiry (c : CoreId)
  /-- FIRMWARE_RESTART_COMPLETE (R225): firmware finishes its restart. -/
  | firmwareRestartComplete
  /-- FENCE (R272): the controller fences itself. -/
  | fence
  /-- HEARTBEAT_SEND (R271): a heartbeat is sent on both paths. -/
  | heartbeatSend
  /-- TALLY_WRITE (R272): the tally word is written. -/
  | tallyWrite
  /-- HEARTBEAT_MISS (R271): an interval of 1 us without a valid beat on a path. -/
  | heartbeatMiss (path : BeatPath)
  /-- TALLY_READ_COMPLETE (R274): a tally read of the takeover returns. -/
  | tallyReadComplete (word : Option Qword)
  /-- SETTLE_READ_COMPLETE (R262): a tally word read completes and positions settle. -/
  | settleReadComplete (ok : Bool)
  /-- YOKE_REQUEST_RECEIVE (R267): the partner asks for a position. -/
  | yokeRequestReceive (pos : LeadPos)
  /-- HANDOVER_DRAINED (R267): the holder has drained the position and grants. -/
  | handoverDrained (pos : LeadPos)
  /-- YOKE_GRANT_RECEIVE (R267): the requester receives the grant. -/
  | yokeGrantReceive (pos : LeadPos)
  /-- YOKE_REQUEST_TIMEOUT (R268): a yoke request has no answer within 10 us. -/
  | yokeRequestTimeout (pos : LeadPos)
  /-- RELAYED_WORK_RECEIVE (R266): the runner receives relayed work. -/
  | relayedWorkReceive (w : RelayedWork)
  /-- RELAYED_RESULT_RECEIVE (R266): the home receives a relayed result. -/
  | relayedResultReceive (r : RelayedResult)
  /-- SHADOW_RECORD_RECEIVE (R265): the partner's shadow record arrives. -/
  | shadowRecordReceive (r : ShadowRecord)
  /-- FRAME_MARK_RECEIVE (R346): the junior receives a frame mark; `err` is its row boundary less the senior's, in ns. -/
  | frameMarkReceive (frame : BitVec 48) (row : Fin 16) (err : Int)
  /-- SLEEP_BLOCK_RECEIVE (R331): the partner's sleep block arrives. -/
  | sleepBlockReceive
  /-- CORE_WFI (R324): a core executes WFI. -/
  | coreWfi (c : CoreId)
  /-- POWER_COMMIT (R327): the power manager commits or aborts the entry. -/
  | powerCommit
  /-- WAKE_EVENT (R333): a wake event starts the exit. -/
  | wakeEvent (src : WakeSrc)
  /-- WAKE_EXIT_DONE (R334): the exit sequence ends. -/
  | wakeExitDone
  /-- GOVERNOR_STEP (R337): the governor starts the next paced step. -/
  | governorStep
  /-- VDD_DROOP (R337): VDD falls below 0.72 V. -/
  | vddDroop
  /-- VDD_DROOP_RECOVER (R337): VDD has been at or above 0.73 V for 1 us. -/
  | vddDroopRecover
  /-- THERM_ALERT (R338): the die temperature crosses the alert threshold or falls 3 C below it. -/
  | thermAlert (celsius : Int)
  /-- PWR_LIMIT_CHANGE (R338): a filtered change of PWR_LIMIT_N. -/
  | pwrLimitChange (low : Bool)
  /-- THROTTLE_END (R338): 1 ms after both causes have cleared. -/
  | throttleEnd
  /-- THERMAL_SHUTDOWN (R392): the sensor reaches the shutdown temperature. -/
  | thermalShutdown (celsius : Int)
  /-- PLL_LOCK_LOSS (R380): a PLL loses lock, or ACLK stops, for more than 2 us. -/
  | pllLockLoss (pll : Pll)
  /-- PWR_WAKE_FIRE (R341): the wake timer reaches its compare value. -/
  | pwrWakeFire
  /-- PWR_WAKE_HI_WRITE (R341): a write of PWR_WAKE_HI. -/
  | pwrWakeHiWrite (c : CoreId) (v : Dword)
  /-- ALIVE_TOGGLE (R387): ALIVE toggles. -/
  | aliveToggle
  /-- CIC_PULSE_EVENT (R307): a pulse source's event reaches the CIC. -/
  | cicPulseEvent (n : SrcId)
  /-- CIC_LEVEL_RISE (R307): a level source's input rises. -/
  | cicLevelRise (n : SrcId)
  /-- CIC_LEVEL_FALL (R307): a level source's input falls. -/
  | cicLevelFall (n : SrcId)
  /-- CIC_CLAIM (R313): core `by_` reads CIC_CLAIM[c]. -/
  | cicClaim (c : CoreId) (by_ : CoreId)
  /-- CIC_EOI (R314): core `by_` writes CIC_EOI[c]. -/
  | cicEoi (c : CoreId) (by_ : CoreId) (v : Dword)
  /-- CIC_PEND_SET (R307): core `c` writes CIC_PEND_SET[w]. -/
  | cicPendSet (c : CoreId) (w : Fin 16) (v : Dword)
  /-- CIC_PEND_CLR (R307): core `c` writes CIC_PEND_CLR[w]. -/
  | cicPendClr (c : CoreId) (w : Fin 16) (v : Dword)
  /-- CIC_MASK_SET (R308): core `c` writes CIC_MASK_SET[w]. -/
  | cicMaskSet (c : CoreId) (w : Fin 16) (v : Dword)
  /-- CIC_MASK_CLR (R308): core `c` writes CIC_MASK_CLR[w]. -/
  | cicMaskClr (c : CoreId) (w : Fin 16) (v : Dword)
  /-- CIC_WAKE_SET (R318): core `c` writes CIC_WAKE_SET[w]. -/
  | cicWakeSet (c : CoreId) (w : Fin 16) (v : Dword)
  /-- CIC_WAKE_CLR (R318): core `c` writes CIC_WAKE_CLR[w]. -/
  | cicWakeClr (c : CoreId) (w : Fin 16) (v : Dword)
  /-- CIC_QUAR (R317): core `c` writes CIC_QUAR[w]. -/
  | cicQuar (c : CoreId) (w : Fin 16) (v : Dword)
  /-- CIC_ROUTE (R311): core `c` writes CIC_ROUTE[n]. -/
  | cicRoute (c : CoreId) (n : SrcId) (v : Dword)
  /-- CIC_PRIO (R309): core `c` writes CIC_PRIO[n]. -/
  | cicPrio (c : CoreId) (n : SrcId) (v : Dword)
  /-- STORM_QUARANTINE (R317): the CIC quarantines a source. -/
  | stormQuarantine (n : SrcId)
  /-- WATCHER_WAKE_REQUEST (R318): the watcher asks to wake a target of a source. -/
  | watcherWakeRequest (n : Fin 64)
  /-- DSP_FLAG_SET (R297): core `c` writes DSP_FLAG_SET[t]. -/
  | dspFlagSet (c : CoreId) (t : ThreadId) (v : Dword)
  /-- DSP_FLAG_CLR (R297): core `c` writes DSP_FLAG_CLR[t]. -/
  | dspFlagClr (c : CoreId) (t : ThreadId) (v : Dword)
  /-- DSP_WAIT (R296): core `c` writes DSP_WAIT[t]. -/
  | dspWait (c : CoreId) (t : ThreadId) (mask : Dword)
  /-- START (R296): core `c` writes CMD 1 to DSP_STATE[t]. -/
  | start (c : CoreId) (t : ThreadId)
  /-- STOP (R296): core `c` writes CMD 2 to DSP_STATE[t]. -/
  | stop (c : CoreId) (t : ThreadId)
  /-- DSP_CTX (R301): core `c` writes DSP_CTX[t]. -/
  | dspCtx (c : CoreId) (t : ThreadId) (v : Dword)
  /-- DSP_RUN (R299): core `by_` writes DSP_RUN[c]. -/
  | dspRun (c : CoreId) (by_ : CoreId) (v : Dword)
  /-- DSP_MODE (R302): core `by_` writes DSP_MODE[c]. -/
  | dspMode (c : CoreId) (by_ : CoreId) (v : Dword)
  /-- DISPATCH_SWITCH (R300): the dispatcher switches core c at an instruction boundary. -/
  | dispatchSwitch (c : CoreId)
  /-- DSP_TIMER_FIRE (R302): core c's dispatcher timer fires. -/
  | dspTimerFire (c : CoreId)
  /-- SKELKU_YIELD (R293): service 0 from the running thread of core c. -/
  | skelkuYield (c : CoreId)
  /-- SKELKU_WAIT (R293): service 1. -/
  | skelkuWait (c : CoreId) (mask mode : Dword) (timeout : Qword)
  /-- SKELKU_SIGNAL (R293): service 2. -/
  | skelkuSignal (c : CoreId) (t flags : Dword)
  /-- SKELKU_CLEAR (R293): service 3. -/
  | skelkuClear (c : CoreId) (flags : Dword)
  /-- SKELKU_START (R293): service 4. -/
  | skelkuStart (c : CoreId) (t entry stack cfg : Dword)
  /-- SKELKU_STOP (R293): service 5. -/
  | skelkuStop (c : CoreId) (t : Dword)
  /-- SKELKU_SET_PRIORITY (R293): service 6. -/
  | skelkuSetPriority (c : CoreId) (t prio : Dword)
  /-- SKELKU_TIME (R293): service 7. -/
  | skelkuTime (c : CoreId)
  /-- SKELKU_SLEEP (R293): service 8. -/
  | skelkuSleep (c : CoreId) (ns : Qword)
  /-- SKELKU_HOST_COPY (R293): service 9. -/
  | skelkuHostCopy (c : CoreId) (dir offset local_ len : Dword)
  /-- SKELKU_ATTACH (R293): service 10. -/
  | skelkuAttach (c : CoreId) (source t flag : Dword)
  /-- SKELKU_REARM (R294): service 11. -/
  | skelkuRearm (c : CoreId) (source : Dword)
  /-- TRIP_SOFT (R290): core `c` writes TRIP_SOFT. -/
  | tripSoft (c : CoreId) (v : Dword)
  /-- DBG_HALT (R364): the PF writes DBG_HALT. -/
  | dbgHalt (value : Dword) (be : BitVec 4)
  /-- ETC_LO (R344): function `f` reads ETC_LO. -/
  | etcLo (f : Fn)
  /-- FRAME_EXT_LO (R361): function `f` reads FRAME_EXT_LO. -/
  | frameExtLo (f : Fn)
  /-- ARBITER_SET_DWORD0_READ (R396): function `f` reads dword0 of the arbiter set at a BAR0 offset. -/
  | arbiterSetDword0Read (f : Fn) (offset : Nat)
  /-- CNT_CTRL (R397): a write of CNT_CTRL of the function's own window, or of the PF's selected one. -/
  | cntCtrl (f : Fn) (selected : Bool) (value : Dword) (be : BitVec 4)
  /-- TEST_KEY (R402): the PF writes TEST_KEY. -/
  | testKey (value : Dword)
  /-- TP_CTL (R402): the PF writes TP_CTL[n]. -/
  | tpCtl (n : Fin 19) (value : Dword) (be : BitVec 4)
  /-- REGISTER_WRITE (R9): a write to a register with no row of its own. -/
  | registerWrite (port : RegPort) (addr : Nat) (value : Dword) (be : BitVec 4)
  /-- PE_PERST_N_ASSERT (R366): PE_PERST_N is asserted. -/
  | pePerstNAssert
  /-- PE_PERST_N_RELEASE (R357): PE_PERST_N is released. -/
  | pePerstNRelease
  /-- FLR (R241): Initiate Function Level Reset is written. -/
  | flr (f : Fn)
  /-- HOLDING_RESET_ABANDON (R242): 40 us after the reset point, what is outstanding is abandoned. -/
  | holdingResetAbandon (f : Fn)
  /-- HOLDING_RESET_END (R244): the holding reset ends. -/
  | holdingResetEnd (f : Fn)
  /-- VF_ENABLE_CLEAR (R246): VF Enable is cleared or NumVFs lowered. -/
  | vfEnableClear (enable : Bool) (numVfs : Nat)
  /-- BUS_MASTER_ENABLE_SET (R367): Bus Master Enable is set. -/
  | busMasterEnableSet (f : Fn)
  /-- D3HOT_ENTRY (R352): a function enters D3hot. -/
  | d3hotEntry (f : Fn)
  /-- READ_COMPLETION_TIMEOUT (R351): a controller read's completion timeout expires. -/
  | readCompletionTimeout (tag : ReadTag)
  /-- POR_N_ASSERT (R386): POR_N or PG_CORE falls. -/
  | porNAssert
  /-- PG_AO_RISE (R385): a power-on of VDD_AO. -/
  | pgAoRise
  /-- INTERNAL_RESET_RELEASE (R385): the internal reset is released and the straps are latched. -/
  | internalResetRelease (boot : BitVec 2) (yoke testN : Bool)
  /-- FIRMWARE_READY (R387): firmware is ready. -/
  | firmwareReady
  /-- EXTEST (R405): JTAG instruction 0x00. -/
  | extest (drive : List Bool)
  /-- SAMPLE_PRELOAD (R405): JTAG instruction 0x01. -/
  | samplePreload (preload : List Bool)
  /-- IDCODE (R405): JTAG instruction 0x02. -/
  | idcode
  /-- CLAMP (R405): JTAG instruction 0x03. -/
  | clamp
  /-- L2_LOAD (R405): JTAG instruction 0x20. -/
  | l2Load (dr : Qword)
  /-- OTP_KEY (R405): JTAG instruction 0x21. -/
  | otpKey (key : BitVec 512)
  /-- BYPASS (R405): JTAG instruction 0xFF, or any code of no instruction. -/
  | bypass (code : Byte)
  /-- TAP_RESET (R406): a TAP reset, or TRST_N low. -/
  | tapReset
  /-- YOKE_LINK_UP (R346): the yoke link comes up, `latency` ns one way. -/
  | yokeLinkUp (latency : Nat)
  /-- HEARTBEAT_RECEIVE (R271): a valid beat arrives. -/
  | heartbeatReceive (path : BeatPath)
  /-- JOURNAL_RECORD_RECEIVE (R260): the partner's journal record change arrives. -/
  | journalRecordReceive (r : JournalRecord)
  /-- COMMONS_MIRROR_RECEIVE (R265): the partner's commons change arrives. -/
  | commonsMirrorReceive (c : CommonsChange)
  /-- PME_TURN_OFF (R332): the host brings the link to L2. -/
  | pmeTurnOff
  /-- D0_RETURN (R352): a function returns to D0. -/
  | d0Return (f : Fn)
  /-- BUS_MASTER_ENABLE_CLEAR (R234): Bus Master Enable is cleared. -/
  | busMasterEnableClear (f : Fn)
  /-- VF_ENABLE_SET (R356): VF Enable is set with NumVFs. -/
  | vfEnableSet (numVfs : Nat)
  /-- POWER_STATE_DRAIN_TIMEOUT (R325): the 2 ms wait for started items expires. -/
  | powerStateDrainTimeout
  /-- SLEEP_REQUEST_TIMEOUT (R326): the 10 ms wait for the user cores expires. -/
  | sleepRequestTimeout
  /-- YOKE_CONFIGURE_TIMEOUT (R265): the partner does not answer YOKE CONFIGURE. -/
  | yokeConfigureTimeout
  /-- SECOND_TALLY_READ (R274): the second tally read is issued. -/
  | secondTallyRead
  /-- PROBE_READ_COMPLETE (R275): a takeover probe returns. -/
  | probeReadComplete (f : Fn) (ring : RingRef) (data : ReadData)
  /-- NO_VALID_IMAGE (R388): no flash slot passes verification. -/
  | noValidImage
  /-- PLL_LOCK (R380): a PLL locks. -/
  | pllLock (pll : Pll)
  /-- ENTRY_SEQUENCE_END (R328): the power-down entry sequence reaches its last step. -/
  | entrySequenceEnd
  /-- PLOT_STALL_END (R403): the cycles of a plot stall run out. -/
  | plotStallEnd (p : PlotId)
  /-- JOURNAL_RESYNC_COMPLETE (R255): a journal half is resynchronised. -/
  | journalResyncComplete
  /-- DATAPATH_SCRUB_COMPLETE (R256): a port-lane scrub ends. -/
  | datapathScrubComplete (p : PortId)
  /-- CONTEXT_READ_COMPLETE (R184): the context read of a started entry returns. -/
  | contextReadComplete (item : Nat) (ctx : Option (BitVec 256))
  /-- OUT_DATA_READ_COMPLETE (R191): the read of an OUT entry's data returns. -/
  | outDataReadComplete (item : Nat) (data : ReadData)
  /-- HOST_COPY_COMPLETE (R293): a Skelku host copy ends. -/
  | hostCopyComplete (t : ThreadId) (data : ReadData)
  /-- WINDOW_LOAD (R289): a user-core load from the ring window. -/
  | windowLoad (c : CoreId) (addr : Dword) (data : ReadData)
  deriving DecidableEq, Repr

end Sys2Proof
end

