-- ==== Sys2Proof/Config.lean ====
section
/-! DEFINITION. What one part or its surroundings fix and the spec leaves open: constants without a body, so
that no proof can rest on a value of them. -/

namespace Sys2Proof.Config

/-- Free values: what a step reads where the spec states no value. Log entry 3. -/
opaque freeValue : Nat → Dword

/-- A word of a save image's sections 1 to 7, whose record layouts the spec keeps private (R249), by what they record,
section and place: a second SAVE of one freeze writes the same (R248). Log entry 3. -/
opaque savedWord : SaveImage → Nat → Nat → Dword

/-- The context that host memory holds when a holding is saved, by freeze and context index (R249). Log entry 3. -/
opaque hostContext : Nat → Nat → BitVec 256

/-- Firmware build of IDENTIFY bytes 20-23 (R219). Log entry 4. -/
opaque firmwareBuild : Dword

/-- Serial number of IDENTIFY bytes 24-31 (R219, R354). Log entry 4. -/
opaque serialNumber : Qword

/-- The part is a QG9208-FE (R2, R219 byte 80 bit 3). Log entry 4. -/
opaque extendedTemp : Bool


/-- The Subsystem Vendor ID and Subsystem ID of the integrator's flash record, if it is there (R353, R388). Log entry 4. -/
opaque subsystem : Option (BitVec 16 × BitVec 16)

/-- Enable Relaxed Ordering of each function's Device Control (R350), which no command of the table writes. Log entry 4. -/
opaque relaxedOrdering : Fn → Bool

/-- ARI Capable Hierarchy of the PF's SR-IOV Control (R355), which no command of the table writes. Log entry 4. -/
opaque ariHierarchy : Bool

/-- The words of the boot ROM (R286), which cores 0 to 3 may read. Log entry 3. -/
opaque bootRom : Nat → Dword

/-- The thread, modulo 64 among threads 192 to 255, and the flag that Skelku's timer on a core names (R293, R302). Log
entry 21. -/
opaque skelkuTarget : Fin 6 → Nat × BitVec 5

/-- The pseudo-random lateness of an SOF under test control 15, per port and frame, before it is brought into
0 to P1 (R403). Log entry 3. -/
opaque sofJitter : Nat → Nat → Nat

end Sys2Proof.Config
end

