-- ==== Sys2Proof/Machine/State.lean ====
section
/-! DEFINITION. The state of the QG9208 as plain data: every register, queue, table, timer flag and pin the
spec gives the part, with its reset value at its field, and the queue of waiting commands. Each field's
comment names the rule of spec/ that gives it. -/

namespace Sys2Proof.Machine

/-- Why a step stops with a fault. -/
inductive Fault where
  /-- Raised by L2_LOAD alone: the L2 offset of the JTAG data register lies beyond the 2,560 KiB of L2
  (R24, R405), an address that does not exist. Safe: nothing is stored. -/
  | l2OffsetBeyond
  deriving DecidableEq, Repr

/-- Why a step refuses a command. -/
inductive Refusal where
  /-- Raised only by an arm of exec whose command has no meaning yet, under its mnemonic. Safe. -/
  | notModelled (mnemonic : String)
  deriving DecidableEq, Repr

/-! ## What leaves the block -/

/-- A request of the memory port toward PCIe, in issue order (R25, R26, R234). -/
inductive HostOut where
  | write (f : Fn) (addr : Qword) (data : List Byte) (relaxed : Bool)
  | read (f : Fn) (addr : Qword) (len : Nat) (tag : ReadTag)
  | msix (f : Fn) (vector : Nat)
  | pme
  deriving DecidableEq, Repr

/-- What a root port sends: a packet's bytes with its CRC (R41), or ordered sets (R34). -/
inductive WireOut where
  | packet (p : PortId) (bytes : List Byte)
  | linkReset (p : PortId) (us : Nat)
  | suspend (p : PortId)
  | resume (p : PortId)
  deriving DecidableEq, Repr

/-- What the yoke link sends (R260, R265, R266, R267, R271, R331, R346). -/
inductive YokeOut where
  | beat (count : Nat)
  | frameMark (frame : BitVec 48) (row : Nat)
  | request (pos : LeadPos)
  | grant (pos : LeadPos)
  | work (w : RelayedWork)
  | result (r : RelayedResult)
  | shadow (r : ShadowRecord)
  | commons (c : CommonsChange)
  /-- A journal record in the layout of R261. -/
  | journal (record : List Byte)
  /-- A journal record that is freed. -/
  | journalFree (r : JournalRecord)
  | sleep
  /-- The partner is asked to take a port whose link failed (R264). -/
  | handOver (pos : LeadPos)
  deriving DecidableEq, Repr

/-- The requesters of the memory port (R25). -/
inductive Requester where
  | alarms | completions | sheaves | plots | queues | yoke | saves | cores
  deriving DecidableEq, Repr

/-- A host read that a requester has handed to the memory port (R25, R349): its requests, one read tag each. -/
structure HostRead where
  tag : ReadTag
  who : Requester := .cores
  /-- The function whose Requester ID it carries (R234). -/
  fn : Fn := 0
  /-- Address and length of each request. -/
  reqs : List (Qword × Nat) := []
  /-- Its requests have been issued; else it waits for a tag of its requester's. -/
  sent : Bool := true
  /-- The read tags that it holds. -/
  tags : Nat := 0
  /-- What it brings is discarded: the work that it was made for has gone (R197). -/
  dead : Bool := false
  deriving DecidableEq, Repr

/-- The three streams that leave the block, oldest first. The model's own record of them. -/
structure Outbox where
  host : List HostOut := []
  wire : List WireOut := []
  yoke : List YokeOut := []
  deriving DecidableEq, Repr

/-! ## Time -/

/-- The chip's power states (R322). -/
inductive Chip where
  | active | fallow | dormant
  deriving DecidableEq, Repr

/-- Clocks, elapsed time and frame time. -/
structure Clk where
  /-- ETC (R343, 12_power_time.md): nanoseconds since VDD_AO came up. -/
  etc : Qword := 0
  /-- EPOCH (R345, 12_power_time.md): power-ons of VDD_AO. -/
  epoch : Dword := 0
  /-- EPOCH is to be incremented by the next boot (R345, R385). -/
  epochDue : Bool := true
  /-- Lock of each PLL, HCLK (R21, R380). -/
  hclk : Bool := false
  /-- PCLK locked (R21). -/
  pclk : Bool := false
  /-- LCLK locked (R21). -/
  lclk : Bool := false
  /-- BCLK locked: the ETC counts BCLK and the frame timer may run (R343, R380). -/
  bclk : Bool := false
  /-- CCLK locked (R21). -/
  cclk : Bool := false
  /-- TCLK locked (R21). -/
  tclk : Bool := false
  /-- The frame timer runs (R100). -/
  timerOn : Bool := false
  /-- Extended frame count of the present frame (R100, 04_frames.md). -/
  frame : BitVec 48 := 0
  /-- Present row (R100, FRAME_NOW of R360). -/
  row : Nat := 0
  /-- The first row boundary of the count has passed: the timer is inside frame `frame` (R100). -/
  started : Bool := false
  /-- Nanoseconds since the row boundary (R29). -/
  rowNs : Nat := 0
  /-- The headland of the next frame has passed (R102). -/
  headlandDone : Bool := false
  /-- FRAME_RETIRED (R101, R360). -/
  retired : Dword := 0xFFFFFFFF#32
  /-- The next frame to retire (R31). -/
  nextRetire : BitVec 48 := 0
  /-- The senior's count to take at the next frame boundary (R346). -/
  step : Option (BitVec 48) := none
  /-- BCLK cycles added (positive) or dropped in the present row (R346). -/
  trim : Int := 0
  deriving DecidableEq, Repr

/-- Power manager registers and sequences (R322 to R341). -/
structure Pwr where
  /-- Chip state (R322); FN_STAT.CHIP (R360). -/
  chip : Chip := .active
  /-- PWR_MODE, two bits a core (R324, R341). -/
  mode : Vector (BitVec 2) 6 := Vector.replicate 6 0
  /-- PWR_STAT.LAST (R341). -/
  last : Nat := 0
  /-- PWR_STAT.ABORTED (R327, R341). -/
  aborted : Bool := false
  /-- PWR_STAT.NOTREADY (R324, R341). -/
  notReady : Bool := false
  /-- PWR_STAT.DROOP: the governor is paused (R337, R341). -/
  droop : Bool := false
  /-- PWR_STAT.WAKE_SRC (R341). -/
  wakeSrc : Nat := 0xFF
  /-- SLEEP_ABORTS (R341). -/
  sleepAborts : Dword := 0
  /-- PWR_RET.PLOT_BANKS (R336, R341). -/
  retPlots : BitVec 6 := 0
  /-- PWR_RET.L2_BANKS (R336, R341). -/
  retL2 : BitVec 10 := 0x3FF#10
  /-- PWR_THR.FRACTION (R338, R341). -/
  fraction : Byte := 0x80#8
  /-- PWR_LIMIT_N, filtered, is low (R338). -/
  limitLow : Bool := false
  /-- THERM_ALERT_N is driven low (R338, R370). -/
  therm : Bool := false
  /-- The controller is throttled (R338, PWR_STAT.THROTTLED). -/
  throttled : Bool := false
  /-- PWR_WAKE_LO.CMP_LO (R341). -/
  wakeLo : Dword := 0
  /-- PWR_WAKE_HI.CMP_HI (R341). -/
  wakeHi : BitVec 31 := 0
  /-- PWR_WAKE_HI.ARM (R341). -/
  wakeArm : Bool := false
  /-- PWR_REQ.SLEEP (R326, R341). -/
  sleep : Bool := false
  /-- POWER STATE in preparation: its source, the state asked for, the watch ports (R325). -/
  prep : Option (AdminSrc × Nat × Dword) := none
  /-- The preparation waits for started items to end (R325). -/
  prepDrain : Bool := false
  /-- The completion held by the power manager until the commit (R325, R327). -/
  held : Option AdminSrc := none
  /-- Core 0's WFI asked for a commit: mode 2 or 3 (R324, R327). -/
  request : Option Nat := none
  /-- The entry sequence is running (R328). -/
  entering : Bool := false
  /-- A wake pended during the entry sequence (R328). -/
  pendedWake : Option WakeSrc := none
  /-- The exit sequence is running (R334, R335). -/
  exiting : Bool := false
  /-- The state that is being left (R334, R335). -/
  leaving : Chip := .active
  /-- Watch ports of FALLOW (R329). -/
  watch : Dword := 0
  /-- Root ports that the preparation has suspended, to be resumed in ACTIVE (R325, R333). -/
  slept : Dword := 0
  /-- Steps that the inrush governor has still to start (R337). -/
  gov : List GovStep := []
  deriving DecidableEq, Repr

/-- Pins, straps and the trip outputs. -/
structure Pins where
  /-- TRIP_STAT.TRIPPED (R162). -/
  tripped : BitVec 4 := 0
  /-- TRIP_STAT.ARMED (R162). -/
  armed : BitVec 4 := 0
  /-- Filtered ALM_IN (R163, TRIP_STAT.ALM_LEVEL). -/
  alm : Byte := 0
  /-- ALM_IN changes latched by the watcher in DORMANT, matched after the wake (R332). -/
  almLatched : List (Fin 8 × Bool) := []
  /-- Level of ALIVE (R387). -/
  alive : Bool := false
  /-- ALIVE toggles (R387). -/
  aliveOn : Bool := false
  /-- Level of YK_HB_OUT (R271). -/
  hbOut : Bool := false
  /-- PE_WAKE_N is driven low (R332). -/
  peWake : Bool := false
  /-- STRAP_BOOT as latched (R373). -/
  strapBoot : BitVec 2 := 0b11#2
  /-- STRAP_YOKE as latched, true = junior (R373). -/
  strapYoke : Bool := true
  /-- STRAP_TEST_N as latched (R373). -/
  strapTestN : Bool := true
  /-- POR_N or PG_CORE is low, or the internal reset is not yet released (R385, R386). -/
  inReset : Bool := true
  deriving DecidableEq, Repr

/-! ## PCIe -/

/-- State of the PCIe link as the controller sees it (R332, R366). -/
inductive PcieLink where
  | down | l0 | l2
  deriving DecidableEq, Repr

/-- One MSI-X table entry with its pending bit (R354, R358). -/
structure MsixEntry where
  addr : Qword := 0
  data : Dword := 0
  masked : Bool := true
  pending : Bool := false
  deriving DecidableEq, Repr

/-- Function-level PCIe state. -/
structure FnPcie where
  /-- Bus Master Enable (R234, R352). -/
  bme : Bool := false
  /-- The function is in D3hot (R352). -/
  d3 : Bool := false
  /-- Configuration reads of the function return CRS (R357). -/
  crs : Bool := true
  /-- MSI-X entries that differ from reset, by vector (R354, R366). -/
  msix : Map MsixEntry := []
  /-- Device Control: Max_Read_Request_Size and Max_Payload_Size in bytes (R349). -/
  mrrs : Nat := 512
  mps : Nat := 128
  deriving DecidableEq, Repr

/-- The tag pools of R349. -/
inductive TagPool where
  | p768 | p256 | p32
  deriving DecidableEq, Repr

/-- The endpoint. -/
structure Pcie where
  link : PcieLink := .down
  /-- PE_PERST_N is asserted (R366). -/
  perst : Bool := true
  /-- SR-IOV VF Enable (R356). -/
  vfEnable : Bool := false
  /-- SR-IOV NumVFs (R355). -/
  numVfs : Nat := 0
  /-- The PF's Device Control 2: 10-Bit Tag Requester Enable (R349). -/
  tag10 : Bool := false
  /-- The PF's Device Control: Extended Tag Field Enable (R349). -/
  tagExt : Bool := false
  /-- Function 0 lost Bus Master Enable by PE_PERST_N or FLR and not by the host: the tally word goes on (R281, R366). -/
  bmeLost : Bool := false
  /-- The tag pool in force (R349). -/
  pool : TagPool := .p32
  /-- The 64 functions. -/
  fns : Vector FnPcie 64 := Vector.replicate 64 {}
  deriving DecidableEq, Repr

/-! ## Queues and completions -/

/-- State of an SQ (R196). -/
inductive SqState where
  | enabled | stopping | disabled
  deriving DecidableEq, Repr

/-- An entry in the entry cache: header unit, phase at it, its units (R171, R182). -/
structure Cached where
  unit : Nat
  units : List (BitVec 256)
  deriving DecidableEq, Repr

/-- A started entry in its batch (R188): its outcome once finished. -/
structure BatchRec where
  unit : Nat
  /-- The count of entries that the SQ had started before it (R179): no two started entries share it. -/
  order : Dword
  tag : Dword
  complete : Bool
  interrupt : Bool
  status : Option Byte
  bytes : Nat
  deriving DecidableEq, Repr

/-- A submission queue. -/
structure Sq where
  par : SqParams
  state : SqState := .enabled
  /-- Published head and the phase expected there (R178). -/
  head : RingPos := {}
  /-- Next position that has not been seen (R180). -/
  next : RingPos := {}
  /-- Seen entries not yet taken: header unit, unit count, and whether it is a PAD (R177, R183). -/
  seen : List (Nat × Nat × Bool) := []
  /-- Entry-cache share: taken and unstarted entries, oldest first (R182). -/
  cached : List Cached := []
  /-- Present poll exponent (R180). -/
  k : Nat := 0
  /-- The positions of the outstanding poll reads, oldest first (R180). -/
  polling : List RingPos := []
  /-- Adopted items whose entries are read again, the one being read first (R276). -/
  refetch : List Nat := []
  /-- Units that the outstanding fetch read covers, from which unit (R182). -/
  fetching : Option (Nat × Nat) := none
  /-- Non-PAD entries started, modulo 2^32 (R179). -/
  started : Dword := 0
  /-- Entries started since the last head-mirror write (R179). -/
  sinceMirror : Nat := 0
  /-- A head-mirror write is due at once (R179). -/
  mirrorDue : Bool := false
  /-- Started entries not yet reported, oldest first (R188). -/
  batch : List BatchRec := []
  /-- Last head-mirror value written: the journal's settled position (R261). -/
  mirror : RingPos := {}
  deriving DecidableEq, Repr

/-- One outcome of a reset account (R215). -/
structure Outcome where
  tag : Dword
  bytes : Nat
  sq : Nat
  status : Byte
  unit : Nat
  deriving DecidableEq, Repr

/-- A completion formed and not yet written (R190, R209). -/
structure Completion where
  status : Byte
  sq : Nat
  index : Nat
  count : Nat
  dword2 : Dword
  tag : Dword
  batch : Bool := false
  wakeCoincided : Bool := false
  fo : Bool := false
  interrupt : Bool := false
  /-- The entries that it covers, by order; their reserved slots are given back when it is written (R183). -/
  covers : List Dword := []
  /-- The outcomes that it stands for, should a reset account take them (R243). -/
  recs : List Outcome := []
  deriving DecidableEq, Repr

/-- How far a host write has come (R262): issued, before a settling read, behind one, settled. -/
inductive Settle where
  | none | written | asked | settled
  deriving DecidableEq, Repr

/-- A completion queue. -/
structure Cq where
  par : CqParams
  /-- Where the next completion is written (R193). -/
  write : RingPos := {}
  /-- Cached release word (R193). -/
  release : RingPos := {}
  /-- Slots reserved (R183). -/
  reserved : Nat := 0
  /-- Formed completions, oldest first (R193). -/
  queue : List Completion := []
  /-- Completions written since the last message (R194). -/
  sinceMsg : Nat := 0
  /-- The moderation time has passed; the next write sends the message (R194). -/
  msgDue : Bool := false
  /-- Settled write position (R262). -/
  settled : RingPos := {}
  /-- Write position when the outstanding settling read was issued (R262). -/
  asked : RingPos := {}
  /-- Adopted at a takeover: completions carry FO (R277). -/
  adopted : Bool := false
  /-- Positions are still being probed (R275). -/
  probing : Bool := false
  deriving DecidableEq, Repr

/-! ## Sheaf and alarm rings -/

/-- A sheaf formed and not yet written (R149): header fields and record bytes. -/
structure SheafOut where
  overrun : Bool := false
  late : Bool := false
  solo : Bool := false
  short : Bool := false
  failed : Bool := false
  listId : Nat := 0
  count : Nat := 1
  dev : DevNum := 0
  ep : EpNum := 0
  row : Nat := 0
  frame : BitVec 48 := 0
  serial : Nat := 0
  etc : Qword := 0
  records : List Byte := []
  /-- The sheaf assembly buffer that holds it until it is written or dropped: port and place (R24, R116, R282). -/
  buf : Option (PortId × Nat) := none
  deriving DecidableEq, Repr

/-- A sheaf ring (R148). -/
structure SheafRing where
  par : SheafParams
  write : RingPos := {}
  release : RingPos := {}
  /-- Count of sheaves written or dropped (R149). -/
  sequence : Dword := 0
  /-- Sheaves dropped since the last one written (R149). -/
  lost : Nat := 0
  /-- Sheaves written since the last message (R152). -/
  sinceMsg : Nat := 0
  /-- Formed sheaves, oldest first (R150). -/
  queue : List SheafOut := []
  /-- First frame that uses the ring (R213). -/
  first : BitVec 48 := 0
  /-- First frame from which no result goes to it, once it is being removed (R148). -/
  removeAt : Option (BitVec 48) := none
  /-- Frame in which ring-full was last logged (R151). -/
  fullLogged : Option (BitVec 48) := none
  /-- The read of the release word made for the sheaf at the front, which does not fit: issued, and completed (R151). -/
  reread : Option Bool := none
  settled : RingPos := {}
  asked : RingPos := {}
  probing : Bool := false
  /-- Sheaves written and not settled: device, frame, row, and whether a settling read follows (R260, R262). -/
  unsettled : List (DevNum × BitVec 48 × Nat × Bool) := []
  deriving DecidableEq, Repr

/-- An alarm entry formed and not yet written (R165): bytes 1.. of dword0 without phase and LOSS. -/
structure AlarmOut where
  pin : Bool
  matched : Bool
  outputs : BitVec 4
  first : Nat
  muted : Bool
  held : Bool
  dev : DevNum
  ep : EpNum
  port : Nat
  code : BitVec 16
  frame : BitVec 16
  etc : Qword
  /-- The last entry of its ALARM-SHEAF or ALM_IN change in this ring: the message follows it (R165). -/
  last : Bool
  deriving DecidableEq, Repr

/-- An alarm ring (R164). -/
structure AlarmRing where
  par : AlarmParams
  write : RingPos := {}
  release : RingPos := {}
  /-- Alarms dropped since the last entry: LOSS (R165). -/
  lost : Bool := false
  /-- The entries being dropped or written of one ALARM-SHEAF put at least one in the ring (R165). -/
  wrote : Bool := false
  queue : List AlarmOut := []
  fullLogged : Option (BitVec 48) := none
  /-- As in a sheaf ring. -/
  reread : Option Bool := none
  settled : RingPos := {}
  asked : RingPos := {}
  probing : Bool := false
  deriving DecidableEq, Repr

/-! ## Holdings -/

/-- An attention log entry (R222). -/
structure Attn where
  seq : Dword
  kind : Nat
  commons : Bool
  lost : Nat
  etc : Qword
  epoch : Dword
  object : DevNum
  port : Nat
  index : Dword
  argument : Dword
  deriving DecidableEq, Repr

/-- An apply-once record (R227). -/
structure Applied where
  tag : Dword
  opcode : Nat
  status : Byte
  dword2 : Dword
  deriving DecidableEq, Repr

/-- A reset account (R215, R245). -/
structure Account where
  /-- Outcomes kept, oldest first; the last has index `next - 1`. -/
  kept : List Outcome := []
  /-- Index of the next outcome added (R215). -/
  next : Dword := 0
  /-- Older outcomes folded into the SUMMARY entry (R245). -/
  folded : Nat := 0
  deriving DecidableEq, Repr

/-- The kinds of holding reset (R241); `gone` is the reset of a VF that VF Enable took away (R246). -/
inductive ResetKind where
  | command | flr | perst | gone
  deriving DecidableEq, Repr

/-- A holding reset in progress (R241). -/
structure ResetInfo where
  kind : ResetKind
  /-- The HOLDING RESET or HOLDING DESTROY command that waits for it. -/
  src : Option AdminSrc
  destroy : Bool
  /-- Outcomes added to the account by this reset (R245). -/
  added : Nat := 0
  deriving DecidableEq, Repr

/-- S, C, P and w of a holding on a port (R115). -/
structure Reserve where
  s : Nat := 0
  c : Nat := 0
  p : Nat := 0
  w : Nat := 16
  deriving DecidableEq, Repr

/-- An arbiter set (R396), and the present wait. -/
structure ArbSet where
  grants : BitVec 48 := 0
  wait : BitVec 48 := 0
  longest : Dword := 0
  current : Nat := 0
  deriving DecidableEq, Repr

/-- The mailbox of a function (R203, R204). -/
structure Mailbox where
  /-- MBX_REQ (R203). -/
  req : BitVec 512 := 0
  /-- MBX_RSP (R203). -/
  rsp : BitVec 512 := 0
  /-- The command latched at GO while BUSY (R204). -/
  latched : Option (BitVec 512) := none
  /-- The latched command has been started and is deferred (R204, R208). -/
  taken : Bool := false
  /-- MBX_STAT.BUSY. -/
  busy : Bool := false
  /-- MBX_STAT.DONE. -/
  done : Bool := false
  /-- MBX_STAT.OVERRUN. -/
  overrun : Bool := false
  /-- MBX_STAT.STATUS. -/
  status : Byte := 0
  /-- MBX_STAT.SEQ. -/
  seq : Byte := 0
  deriving DecidableEq, Repr

/-- Freeze of a holding (R247). -/
structure Freeze where
  frame : BitVec 48
  /-- The row-0 boundary of G has passed: the holding is frozen. -/
  reached : Bool
  /-- A HOLDING SAVE has completed: alarms are no longer written (R247). -/
  saved : Bool := false
  /-- Key of the free values of this freeze's save images (R248, R249): the model's own field (log entry 3). -/
  seed : Nat := 0
  /-- Section 8 of the images of this freeze, once one is written: the contexts do not change meanwhile (R248). -/
  seqs : Option (List SavedSeq) := none
  deriving DecidableEq, Repr

/-- The counters of a holding (R395 to R400). -/
structure HoldingCnt where
  /-- Arbiter sets, periodic class, by port. -/
  arbP : Vector ArbSet 32 := Vector.replicate 32 {}
  /-- Arbiter sets, bulk and control class, by port. -/
  arbB : Vector ArbSet 32 := Vector.replicate 32 {}
  /-- Event counters by port, numbered by offset / 4 (R400). -/
  port : Vector (Vector Dword 16) 32 := Vector.replicate 32 (Vector.replicate 16 0)
  /-- Device-wide event counters, numbered by offset / 4 (R400). -/
  wide : Vector Dword 16 := Vector.replicate 16 0
  deriving DecidableEq, Repr

/-- A row table with its row lists that firmware has built in a managed map's work area (R132): the slot that uses it, its
place, and, once the slot's entry has been rewritten, the frame whose retirement frees it (R130). -/
structure WorkBlock where
  slot : Nat
  addr : Nat
  len : Nat
  old : Option Dword := none
  deriving DecidableEq, Repr

/-- What a holding has been given (R231), its devices' schedule and its queues. -/
structure Holding where
  /-- The holding exists (R231); holding 0 always (R229). -/
  created : Bool := false
  sqQuota : Nat := 0
  cqQuota : Nat := 0
  pollCredits : Nat := 0
  rowrateQuota : Nat := 0
  ctxQuota : Nat := 0
  ringQuota : Nat := 0
  /-- Port set (R231). -/
  portSet : Dword := 0
  /-- Reservations in force, by port (R115). -/
  reserve : Vector Reserve 32 := Vector.replicate 32 {}
  /-- Reservations accepted and not yet in force, oldest first, with the frame G from which they hold (R115). -/
  reserveNext : Vector (List (Reserve × BitVec 48)) 32 := Vector.replicate 32 []
  /-- Ports on which the holding gleans (R125), and the accepted changes with their G. -/
  glean : Dword := 0
  gleanNext : List (Dword × BitVec 48) := []
  freeze : Option Freeze := none
  /-- Context table base and entries (R211). -/
  ctxBase : Qword := 0
  ctxEntries : Nat := 0
  /-- The context index of each endpoint that INSTALL placed: (device, endpoint) and index (R184, R212). -/
  ctxOf : List ((DevNum × EpNum) × Nat) := []
  /-- Field map in force (R104), and the accepted one with its G. -/
  fieldMap : Option FieldMap := none
  fieldMapNext : Option (Option FieldMap × BitVec 48) := none
  /-- Latched slot entries of the present and the next frame (R29, R267): partner's map or own, frame, entry. -/
  latched : List (Bool × BitVec 48 × Qword) := []
  /-- Outstanding slot-entry reads, oldest first: partner's map or own, and the frame (R102). -/
  slotReads : List (Bool × BitVec 48) := []
  /-- SQs by number; a number of 4,096 and above is an adopted SQ of the partner (R276). -/
  sqs : Map Sq := []
  /-- CQs by number; adopted ones from 4,096 (R276). -/
  cqs : Map Cq := []
  /-- Sheaf rings by number; adopted ones from 256 (R276). -/
  rings : Map SheafRing := []
  alarmRing : Option AlarmRing := none
  /-- The partner's alarm ring after a takeover (R276). -/
  alarmAdopted : Option AlarmRing := none
  /-- The partner's field map, served here after a takeover (R277). -/
  adoptedMap : Option FieldMap := none
  /-- Firmware-placed endpoints of a managed map (R133). -/
  scheduled : List Scheduled := []
  /-- Groups of a managed map by group number (R153). -/
  groups : Map ReapGroup := []
  /-- What firmware has built in the work area of a managed map (R129, R130, R132). -/
  work : List WorkBlock := []
  /-- Valid ROWRATE descriptors of the host-written map, in the last frame that a plot has walked (R109, R221). -/
  rowrateHost : Nat := 0
  deriving DecidableEq, Repr

/-- Firmware's records about a function, its mailbox and its BAR0 state. -/
structure FnState where
  mbx : Mailbox := {}
  /-- Attention log entries held, oldest first (R222). -/
  log : List Attn := []
  /-- Sequence of the next entry (R222). -/
  logNext : Dword := 0
  /-- Entries dropped since the last one stored (R224). -/
  logLost : Nat := 0
  /-- Apply-once records, newest last, at most 64 (R227). -/
  applied : List Applied := []
  account : Account := {}
  reset : Option ResetInfo := none
  /-- FN_CTRL.MBX_IEN (R360). -/
  mbxIen : Bool := false
  /-- FN_CTRL.COND_IEN (R360). -/
  condIen : Bool := false
  /-- FRAME_EXT_HI latch (R361). -/
  frameHi : BitVec 16 := 0
  /-- ETC_HI latch (R344). -/
  etcHi : Dword := 0
  /-- Dwords 1 to 3 latched by a read of an arbiter set's dword0, by the number of the set (R396). -/
  arbLatch : Map (BitVec 96) := []
  /-- The holding shows condition 4 for a loss of its own (R20, R116, R263). -/
  degraded : Bool := false
  /-- A condition note waits (R192, R228): true while a completion that carries the new code may stand for it. -/
  note : Option Bool := none
  /-- The message that COND_IEN asks for after a change of FN_COND.ACTIVE is due (R360). -/
  condDue : Bool := false
  /-- PE_PERST_N came, and the function has not yet Bus Master Enable set in D0 again (R367). -/
  perstHold : Bool := false
  /-- The headland failure of the hold after PE_PERST_N has been logged (R367). -/
  heldLogged : Bool := false
  counters : HoldingCnt := {}
  deriving DecidableEq, Repr

/-! ## Items and transactions -/

/-- Where a started bulk or control entry stands. -/
inductive ItemPhase where
  /-- Adopted: its entry is being read again from the partner's SQ (R276). -/
  | waitEntry
  /-- Its endpoint's context is being read (R184). -/
  | waitContext
  /-- An earlier item of the endpoint, or its OUT data, is awaited (R184, R191). -/
  | waitTurn
  | waitData
  /-- It presents a request to its port's arbiter. -/
  | ready
  /-- A transaction is outstanding. -/
  | outstanding
  /-- 2 us after a NAK have not passed (R64). -/
  | nakWait
  /-- The runner on the other controller has it (R266). -/
  | relayed
  deriving DecidableEq, Repr

/-- A started bulk or control entry: the controller's item and its journal record (R260, R261). -/
structure Item where
  /-- The model's handle. -/
  id : Nat
  /-- Its order in its SQ's batch records. -/
  order : Dword := 0
  jr : ItemRec
  plot : Nat
  scatter : List (Qword × Nat)
  setup : BitVec 96
  phase : ItemPhase
  /-- Failed attempts of the present transaction (R66). -/
  attempts : Nat
  /-- The next OUT is preceded by PINGs until one is ACKed (R64). -/
  ping : Bool
  /-- Data of the next OUT packet (R191). -/
  data : List Byte
  /-- The item ends with this status once its transaction has ended (R236, R242). -/
  abort : Option Byte
  /-- The reset point has passed for it (R242). -/
  resetting : Bool
  /-- A token of it has left: the entry is active on its device (R85, R95). -/
  sent : Bool := false
  /-- It runs on after its plot failed, or after a takeover: E comes from its record, not from the context (R259, R276). -/
  spared : Bool := false
  /-- How far the write of its completion has come (R260, R262). -/
  comp : Settle := .none
  /-- How far the last write-back of its endpoint's context has come (R260, R262). -/
  wb : Settle := .settled
  deriving DecidableEq, Repr

/-- Kinds of transaction that a port sends (R59). -/
inductive TxKind where
  | setup | in_ | out | ping | soloIn | soloOut | reap | take
  deriving DecidableEq, Repr

/-- Whose transaction it is. -/
inductive TxOwner where
  | item (id : Nat)
  | staged (id : Nat)
  | xfer (id : Nat)
  | take (id : Nat)
  deriving DecidableEq, Repr

/-- An outstanding transaction of a root port (R60). -/
structure Tx where
  id : Nat
  kind : TxKind
  owner : TxOwner
  holding : Fn
  dev : DevNum
  ep : EpNum
  seq : BitVec 16
  listId : Nat
  len : Nat
  /-- ETC of the token's SOP (R143), and the row boundary that ends its row. -/
  start : Nat
  rowEnd : Nat
  span : Nat
  /-- Periodic place it holds (R116). -/
  place : Option Nat
  deriving DecidableEq, Repr

/-! ## Periodic work -/

/-- One expected record of a REAP (R142): the leaf, and the child expansions that begin at it, each with
the child hub that may stand in for it and its number of records. -/
structure Expect where
  dev : DevNum
  ep : EpNum
  limit : Nat
  heads : List (DevNum × Nat)
  deriving DecidableEq, Repr

/-- Where a staged descriptor stands. -/
inductive StagePhase where
  | fetchContext
  /-- Read 1, 2 or 3 of the out slot, on attempt 1 or 2 (R110). -/
  | fetchSlot (read attempt : Nat)
  /-- Image reads still to come (R142). -/
  | fetchImage
  /-- Sent to the runner on the other controller (R266). -/
  | away
  | ready
  | started
  deriving DecidableEq, Repr

/-- A periodic descriptor staged by a plot for one row (R112, R114). -/
structure Staged where
  id : Nat
  holding : Fn
  plot : Nat
  port : PortId
  frame : BitVec 48
  row : Nat
  listIndex : Nat
  raw : BitVec 256
  charge : Nat
  span : Nat
  phase : StagePhase
  gen : Dword := 0
  slotLen : Nat := 0
  data : List Byte := []
  expect : List Expect := []
  /-- Lists whose images are still to be read, the one being read first (R142). -/
  toRead : List (DevNum × Nat) := []
  /-- Of the partner's field map, served after a takeover (R277). -/
  adopted : Bool := false
  /-- The image could not be read or disagrees (R142). -/
  badImage : Bool := false
  /-- Relayed from the partner's field map: its result goes back over the yoke (R266). -/
  relayed : Bool := false
  /-- Its holding's reset point has passed, or the hold after PE_PERST_N: results are dropped (R242, R367). -/
  dropped : Bool := false
  /-- The sheaf assembly buffer of its transaction's place, once a token of it has left: port and place (R116). -/
  buf : Option (PortId × Nat) := none
  deriving DecidableEq, Repr

/-- A ROWRATE descriptor of row 0, as the later rows serve it (R109): its place in the list, and, once it has first
been admitted in the plot's slice, whether it is among the 768 that the plot stages (R114). -/
structure RowRate where
  index : Nat
  raw : BitVec 256
  staged : Option Bool
  deriving DecidableEq, Repr

/-- One walk of a plot (R112): the frame, the row table once read, the row that is being read. -/
structure Walk where
  frame : BitVec 48
  /-- It walks the partner's field map (R277). -/
  adopted : Bool := false
  /-- The first row that it serves, where it was taken up within its frame, by a spare or after a takeover (R258, R274). -/
  since : Option Nat := none
  /-- The row began while its list was being read: what the read brings is discarded (R30). -/
  late : Bool := false
  table : Option (List (BitVec 128)) := none
  /-- The row whose list is being read. -/
  row : Nat := 0
  /-- Valid ROWRATE descriptors of row 0 (R118). -/
  rowrate : List RowRate := []
  /-- Descriptors staged so far, ROWRATE ones counted once (R114). -/
  stagedCount : Nat := 0
  /-- S and C of the holding, by port, as they stood at the headland (R119). -/
  regions : List (Nat × Nat) := []
  /-- The plot's slice at the headland, and the end of the last slice of the holding's plots then (R15, R17). -/
  base : Nat := 0
  count : Nat := 0
  top : Nat := 0
  deriving DecidableEq, Repr

/-- What one frame of a holding has to log (R111, R126): the invalid descriptors and the overruns met, each as row and
list index (with 4,096 added for a ROWRATE descriptor in a later row, 8,192 in the partner's field map); the invalid
entry is written. -/
structure FrameLog where
  holding : Fn
  frame : BitVec 48
  invalid : List (Nat × Nat) := []
  overrun : List (Nat × Nat) := []
  walked : Bool := false
  /-- Kinds 0x0010 to 0x0012 written for the frame, each with its row (R103, R106). -/
  said : List (Nat × Nat) := []
  deriving DecidableEq, Repr

/-! ## Plots -/

/-- A cached endpoint context (R14, R28, R212). -/
structure CtxLine where
  raw : BitVec 256
  dirty : Bool
  deriving DecidableEq, Repr

/-- A plot (R13 to R17, R362). -/
structure Plot where
  holding : Fn := 0
  allotted : Bool := true
  spare : Bool := false
  retired : Bool := false
  clearing : Bool := false
  isolated : Bool := false
  watch : Bool := false
  corrected : Byte := 0
  base : Nat := 0
  count : Nat := 0
  /-- Earlier slices, while work that the plot began under them goes on in it (R17, R233). -/
  former : List (Nat × Nat) := []
  ports : Dword := 0xFFFFFFFF#32
  /-- Banks 0 to 3: cached contexts by context index. -/
  cache : Map CtxLine := []
  /-- Bank 4: walks in progress, oldest first. -/
  walks : List Walk := []
  /-- Removed from its holding at the next frame boundary, then drained and cleared (R17). -/
  removing : Bool := false
  /-- The frame boundary of the removal has passed (R17). -/
  removed : Bool := false
  /-- The holding that takes it when its clear ends (R16, R231). -/
  clearFor : Option Fn := none
  /-- Its power is on (R13, R336, R337). -/
  powered : Bool := true
  /-- Stalled by test control 16 (R403). -/
  stalled : Bool := false
  deriving DecidableEq, Repr

/-! ## Root ports -/

/-- Link-layer states (R39). -/
inductive LinkState where
  | ldown | ltrain | lup | lmend | lreset | lquiet | lwake
  deriving DecidableEq, Repr

/-- Link layer of a root port (R39, R40, R407). -/
structure Link where
  state : LinkState := .ldown
  /-- Standing enable (R407). -/
  enable : Bool := false
  /-- Transmit-disable toward the sideband chain (R40, R383). -/
  txDisable : Bool := true
  /-- The last scan showed loss of signal (R40); before any scan it counts as loss. -/
  los : Bool := true
  /-- Symbol lock (R36). -/
  lock : Bool := false
  /-- Rate on trial, or in use (R39). -/
  rate : Rate := .r5000
  /-- Recorded RTT in ns (R37). -/
  rtt : Nat := 0
  /-- A retry hold-off runs (R407). -/
  holdoff : Bool := false
  /-- Entries to LDOWN in the present run of failures (R407). -/
  run : Nat := 0
  /-- Ordered LINK-RESET time in us (R39, R72). -/
  resetUs : Nat := 12
  /-- A suspend waits for outstanding transactions (R39). -/
  suspendWait : Bool := false
  /-- LWAKE was entered by a resume order (R39). -/
  byOrder : Bool := false
  /-- A port-lane scrub is running (R256). -/
  scrub : Bool := false
  /-- ETC of the last port-lane fault (R256). -/
  laneFault : Option Nat := none
  /-- The SerDes has been enabled by the governor (R71, R337). -/
  serdes : Bool := false
  deriving DecidableEq, Repr

/-- Port states (R70). -/
inductive PState where
  | off | powered | disabled | enabled | suspended | resetting | resuming
  deriving DecidableEq, Repr

/-- The root-hub port state machine and its record (R72, R74). -/
structure Rh where
  state : PState := .off
  connected : Bool := false
  quar : Bool := false
  resumeHost : Bool := false
  wakeSeen : Bool := false
  /-- ETC of each counted bounce (R73). -/
  bounces : List Nat := []
  /-- Change field, bytes 4-5 of the record (R74). -/
  changes : BitVec 16 := 0
  recoveries : Nat := 0
  discards : Nat := 0
  /-- The 10 ms debounce timer runs (R72). -/
  debounce : Bool := false
  /-- Port power is on (R71). -/
  power : Bool := false
  /-- Recorded owner of the root port (R81, R235). -/
  owner : Fn := 0
  deriving DecidableEq, Repr

/-- Arbitration and transactions of a root port (R60, R116, R120 to R124). -/
structure PortArb where
  outstanding : List Tx := []
  /-- Grant made in the last cycle; its token leaves in the next (R122). -/
  grant : Option TxOwner := none
  /-- Rank of that grant. -/
  grantRank : Nat := 0
  /-- Ns in the row at which the transmitter is free again. -/
  txFree : Nat := 0
  /-- Holding last granted at rank 2 (R122). -/
  rr : Fn := 0
  /-- Bulk credit of each holding (R120). -/
  credit : Vector Int 64 := Vector.replicate 64 0
  /-- The region of each holding has closed, or it has none in this row (R121, R122). -/
  closed : Vector Bool 64 := Vector.replicate 64 true
  /-- Charges of the periodic descriptors started in the row (R121). -/
  used : Vector Nat 64 := Vector.replicate 64 0
  /-- Next REAP serial (R45). -/
  reapSerial : BitVec 16 := 0
  /-- Next TAKE serial (R45). -/
  takeSerial : BitVec 16 := 0
  /-- Places and buffers that are retired (R116, R255). -/
  retiredPlaces : BitVec 8 := 0
  /-- Arbiter set of the commons (R399). -/
  commons : ArbSet := {}
  deriving DecidableEq, Repr

/-- APOLL of a root port (R56, R57). -/
structure Apoll where
  /-- Sequence field of the latest APOLL. -/
  seq : BitVec 16 := 0
  /-- An APOLL has been sent since the link came up. -/
  sent : Bool := false
  /-- An ALARM-SHEAF has been accepted for it. -/
  accepted : Bool := false
  /-- Consecutive misses (R57). -/
  misses : Nat := 0
  /-- Frame of the 16th miss. -/
  missFrame : BitVec 48 := 0
  /-- The run's entry has been logged (R57). -/
  logged : Bool := false
  deriving DecidableEq, Repr

/-- A root port. -/
structure Port where
  link : Link := {}
  rh : Rh := {}
  arb : PortArb := {}
  apoll : Apoll := {}
  /-- TBASE in us (R65). -/
  tbase : Nat := 8
  /-- TTIER in us (R65). -/
  ttier : Nat := 2
  /-- POWER_STAGGER (R78). -/
  stagger : Nat := 8
  /-- Power-on orders waiting: hub, port and the command that ordered it, in order of request (R78). -/
  powerOrders : List (DevNum × Nat × Option AdminSrc) := []
  /-- Power-on orders sent in the present frame (R78). -/
  ordersSent : Nat := 0
  /-- This controller leads the port's tree (R267). -/
  leads : Bool := true
  /-- Event counters of the port, numbered by offset / 4 (R400). -/
  cnt : Vector Dword 16 := Vector.replicate 16 0
  deriving DecidableEq, Repr

/-! ## The tree -/

/-- What a commons-control transfer is for. -/
inductive Purpose where
  | enumStep (id : Nat)
  /-- GET_PORT_STATE; `fresh`: the read of R82 on a hub just numbered. -/
  | portState (hub : DevNum) (port : Nat) (fresh : Bool)
  | hubStatus (hub : DevNum)
  /-- GET_STATUS of a device that is no hub, whose ATTN was seen (R50). -/
  | devStatus (dev : DevNum)
  /-- GET_DESCRIPTOR type 2: the endpoint table of a function, for the groups of its owner (R87, R153). -/
  | epTable (dev : DevNum)
  | clearChange (hub : DevNum) (port : Nat) (bits : BitVec 16)
  | portOrder (hub : DevNum) (port order : Nat) (src : Option AdminSrc)
  /-- GET_PORT_STATE whose record completes a PORT CONTROL (R214). -/
  | portRead (hub : DevNum) (port : Nat) (src : AdminSrc)
  | plant (list : PlantedList) (src : Option AdminSrc)
  | clearList (hub : DevNum) (src : Option AdminSrc) (gone : List Nat)
  | replant (hub : DevNum) (listId : Nat)
  deriving DecidableEq, Repr

/-- A commons-control transfer (R77): one control transfer on a hub's or device's endpoint 0. -/
structure Xfer where
  id : Nat
  port : PortId
  /-- Number addressed and route (0 for an unnumbered device). -/
  dev : DevNum
  route : Dword
  depth : Nat
  setup : BitVec 96
  out : List Byte
  got : List Byte
  stage : Stage
  /-- Failed attempts of the present transaction (R66). -/
  attempts : Nat
  /-- The next OUT is preceded by PINGs until one is ACKed (R64). -/
  ping : Bool
  busy : Bool
  /-- 2 us after a NAK have not passed (R64). -/
  nakWait : Bool
  purpose : Purpose
  /-- Transfer status once it has ended (R68), with the STALL flags where a STALL ended it. -/
  result : Option (Byte × Byte)
  /-- The holding whose reset ended the command that it served (R242). -/
  orphan : Option Fn := none
  deriving DecidableEq, Repr

/-- An enumeration in progress (R82). -/
structure Enum where
  id : Nat
  pos : Position
  root : PortId
  /-- Waits for a free place among the 32 of its root port. -/
  waiting : Bool
  /-- Step 1 to 5. -/
  step : Nat
  /-- ENUMERATE PORT that ordered it, and the number it names. -/
  src : Option AdminSrc
  wanted : Nat
  number : DevNum
  desc : List Byte
  /-- How the port reset of step 1 ended, once it has: its transfer status (R82). -/
  reset : Option Byte := none
  /-- Copy of E of endpoint 0 of the device while it is unnumbered (R62). -/
  e0 : BitVec 16 := 0
  /-- It began in automatic mode (R84). -/
  auto : Bool := true
  deriving DecidableEq, Repr

/-- The commons: hub tables, trip rules, alarm tracking (R27, R79, R159, R160). -/
structure Track where
  dev : DevNum
  holding : Fn
  /-- Consecutive counted rows. -/
  run : Nat
  muted : Bool
  /-- Rows without an alarm record while muted. -/
  quiet : Nat
  /-- An alarm was counted, or a record seen, in the present row. -/
  seen : Bool
  /-- Code and row time of the alarm that mutes it. -/
  code : BitVec 16
  deriving DecidableEq, Repr

structure Commons where
  /-- Hub tables: numbered devices by device number (R79). -/
  devs : Map Dev := []
  /-- Reap lists recorded as planted (R154). -/
  lists : List PlantedList := []
  /-- Every number below this one has been assigned, and those of `used` (R80). -/
  fresh : Nat := 1
  used : List Nat := []
  /-- Freed numbers with the ETC of freeing, oldest first (R80). -/
  freed : List (DevNum × Nat) := []
  /-- Enumeration mode: PF-driven (R84). -/
  pfDriven : Bool := false
  enums : List Enum := []
  xfers : List Xfer := []
  /-- The 1,024 trip rules as their 16 bytes (R160). -/
  rules : Vector (BitVec 128) 1024 := Vector.replicate 1024 0
  /-- Alarm tracking entries (R159). -/
  tracks : List Track := []
  /-- Remote wakes that came up through a hub: the hub, and its changed ports whose records are still to be read (R93). -/
  wakes : List (DevNum × Option (List Nat)) := []
  deriving DecidableEq, Repr

/-! ## The yoke -/

/-- State of the yoke link (R280). -/
inductive YokeLink where
  | down | training | up
  deriving DecidableEq, Repr

/-- What a TAKE is for (R267, R274, R278). -/
inductive TakeWhy where
  | planned (pos : LeadPos)
  | takeover
  | probe
  deriving DecidableEq, Repr

/-- A TAKE under way (R270). -/
structure Take where
  id : Nat
  port : PortId
  hub : DevNum
  subtree : Bool
  senior : Bool
  attempts : Nat
  serial : BitVec 16
  busy : Bool
  why : TakeWhy
  deriving DecidableEq, Repr

/-- A handover in progress (R267): this controller asks, or is asked. -/
structure Handover where
  pos : LeadPos
  /-- True when this controller asks. -/
  asking : Bool
  granted : Bool
  src : Option AdminSrc
  deriving DecidableEq, Repr

/-- Shadow records and journal of the partner for one holding (R265). -/
structure Shadow where
  sqs : Map SqParams := []
  cqs : Map CqParams := []
  rings : Map SheafParams := []
  alarm : Option AlarmParams := none
  fieldMap : Option FieldMap := none
  ctxBase : Qword := 0
  ctxEntries : Nat := 0
  /-- Row-rate endpoints that firmware has placed (R265). -/
  rowrate : Nat := 0
  deriving DecidableEq, Repr

/-- The progress of a takeover (R274, R278). -/
inductive Takeover where
  | none
  /-- Partner lost; the first tally read is out or its value is held. -/
  | firstTally (value : Option Qword)
  | secondTally (value : Qword)
  | adopted
  | split
  deriving DecidableEq, Repr

/-- The yoke (R260 to R281). -/
structure Yoke where
  /-- YOKED (R280). -/
  yoked : Bool := false
  /-- YOKE CONFIGURE that waits for the partner (R265). -/
  configuring : Option (AdminSrc × Dword × Dword) := none
  yokedPorts : Dword := 0
  /-- Yoked ports that the senior leads (R265). -/
  seniorLeads : Dword := 0
  link : YokeLink := .down
  /-- Measured latency in ns (R346). -/
  latency : Nat := 0
  /-- Consecutive misses of each path (R271). -/
  missLink : Nat := 4
  missWire : Nat := 4
  /-- ETC of the 4th miss of each path (R271). -/
  linkAt : Nat := 0
  wireAt : Nat := 0
  /-- ETC of the last beat received (R280). -/
  lastBeat : Qword := 0
  beats : Nat := 0
  /-- Beats still to be dropped by test control 18, by path (R403). -/
  dropLink : Nat := 0
  dropWire : Nat := 0
  /-- The link was concluded lost; the wire was (R271). -/
  linkLost : Bool := false
  wireLost : Bool := false
  /-- Partner lost: condition 6 until the pair is configured again (R271, R277). -/
  partnerLost : Bool := false
  /-- The partner has announced sleep (R331). -/
  partnerSleeps : Bool := false
  takeover : Takeover := .none
  takeovers : Nat := 0
  /-- Ports that the partner led and this controller took with its holdings (R274, R277). -/
  taken : Dword := 0
  /-- This controller's tally word, and the partner's address (R272). -/
  tally : Dword := 0
  tallyAddr : Qword := 0
  partnerTally : Qword := 0
  handovers : List Handover := []
  takes : List Take := []
  shadow : Vector Shadow 64 := Vector.replicate 64 {}
  /-- Partner half of the journal (R260). -/
  positions : List PosRec := []
  periodics : List PeriodicRec := []
  itemRecs : List ItemRec := []
  /-- The holdings whose records in a half of the journal are being resynchronised: local, partner (R255). -/
  resyncLocal : List Fn := []
  resyncPartner : List Fn := []
  /-- Entries of the partner's that wait for an item record of their holding (R260). -/
  waitingWork : List RelayedWork := []
  /-- Periodic records of the lost partner whose sheaf was found landed (R275, R276). -/
  landed : List PeriodicRec := []
  /-- Adopted holdings that go back to a returned controller once their SQs are DISABLED (R279). -/
  returning : List Fn := []
  /-- Relayed results held until the takeover decision (R274). -/
  heldResults : List RelayedResult := []
  deriving DecidableEq, Repr

/-! ## Firmware -/

/-- What a deferred admin command waits for (R218). -/
inductive Defer where
  | sqDisabled (f : Fn) (sq : Nat)
  | retired (frame : BitVec 48)
  | enumeration (id : Nat)
  | portOrder (pos : Position) (reset : Bool)
  | portRecord (pos : Position)
  | devReset (dev : DevNum) (pos : Position)
  | plots (h : Fn) (n : Nat)
  | reset (h : Fn)
  | freeze (h : Fn) (frame : BitVec 48)
  | take (pos : LeadPos)
  | power
  | plant
  | assign (dev : Option DevNum) (items staged : List Nat)
  | group (h : Fn) (n : Nat)
  | yoke
  deriving DecidableEq, Repr

/-- A started command that has not completed (R208, R218). -/
structure Running where
  src : AdminSrc
  cmd : BitVec 512
  wait : Defer
  /-- What it waited for came while firmware restarted: its status, dword2, data and WAKE_COINCIDED (R225). -/
  due : Option (Byte × Dword × List Byte × Bool) := none
  /-- The response of a mailbox command is discarded, and its outcome goes to the reset account (R206, R243): true while the
  mailbox itself is kept (R203). -/
  discard : Option Bool := none
  deriving DecidableEq, Repr

/-- Firmware and the boot (R225, R257, R365, R387, R388). -/
structure Fw where
  /-- Firmware takes commands: FN_STAT.READY (R387). -/
  ready : Bool := false
  /-- No slot passed verification (R388). -/
  noImage : Bool := false
  /-- Firmware is restarting (R225). -/
  restarting : Bool := false
  /-- The core whose fault the restart follows (R223 kind 0x0042). -/
  restartCore : Nat := 0
  restarts : Nat := 0
  /-- ETC of recent firmware faults (R257). -/
  faults : List Nat := []
  /-- Firmware cores 0 to 3 halted through DBG_HALT (R364). -/
  halted : BitVec 4 := 0
  /-- The controller has fenced itself (R272). -/
  fenced : Bool := false
  /-- CONTROLLER RESET has run and not yet taken effect (R218). -/
  resetComing : Bool := false
  running : List Running := []
  /-- FWLOG_WR and FWLOG_SEQ (R365). -/
  logWr : Nat := 0
  logSeq : Dword := 0
  /-- OTP operator key; blank when absent (R389). -/
  otp : Option (BitVec 512) := none
  deriving DecidableEq, Repr

/-- The instruction selected in the TAP (R405). -/
inductive TapInstr where
  | extest | samplePreload | idcode | clamp | l2Load | otpKey | bypass
  deriving DecidableEq, Repr

/-- The TAP (R405, R406). -/
structure Jtag where
  instr : TapInstr := .idcode
  /-- Data register that the host side shifts out: IDCODE, bypass or boundary. -/
  dr : Dword := 0x192084B7#32
  boundary : List Bool := []
  /-- EXTEST or CLAMP holds the controller (R406). -/
  holds : Bool := false
  deriving DecidableEq, Repr

/-- A test control (R402, R403). -/
structure TestCtl where
  on : Bool := false
  err : Bool := false
  p1 : Dword := 0
  p2 : Dword := 0
  /-- Matching packets seen, for the every n-th controls, by port. -/
  seen : Vector Nat 32 := Vector.replicate 32 0
  deriving DecidableEq, Repr

/-- The test block (R402). -/
structure Test where
  /-- Unlocked by the key (R402). -/
  byKey : Bool := false
  /-- Unlocked by the strap (R373, R402). -/
  byStrap : Bool := false
  /-- 0x5EED has been written (TEST_STAT.KEY_HALF). -/
  keyHalf : Bool := false
  ctls : Vector TestCtl 19 := Vector.replicate 19 {}
  /-- Events of controls 11 to 14: FN, CNT_SEL of the PF (R399). -/
  cntSel : BitVec 6 := 0
  deriving DecidableEq, Repr

/-! ## The engine: everything but the cores -/

/-- The bus engine, host interface, firmware records and always-on domain. -/
structure Engine where
  clk : Clk := {}
  pwr : Pwr := {}
  pins : Pins := {}
  pcie : Pcie := {}
  holdings : Vector Holding 64 := Vector.replicate 64 {}
  fns : Vector FnState 64 := Vector.replicate 64 {}
  ports : Vector Port 32 := Vector.replicate 32 {}
  plots : Vector Plot 272 := Vector.replicate 272 {}
  commons : Commons := {}
  items : List Item := []
  staged : List Staged := []
  frameLogs : List FrameLog := []
  /-- The links of each device's path as they stood at the headlands of the last two frames (R119). -/
  headPaths : List (BitVec 48 × Map (List (Nat × Nat))) := []
  /-- Rows in which the walk has admitted a descriptor: holding, frame, row, port (R121, R122). -/
  admitted : List (Fn × BitVec 48 × Nat × PortId) := []
  /-- Isolated plots that wait for SPARE, in order of detection (R20). -/
  toSpare : List PlotId := []
  yoke : Yoke := {}
  fw : Fw := {}
  jtag : Jtag := {}
  test : Test := {}
  /-- Device-wide event counters, numbered by offset / 4 (R400). -/
  cnt : Vector Dword 16 := Vector.replicate 16 0
  /-- Host reads at the memory port, oldest first (R25, R349, R351). -/
  reads : List HostRead := []
  /-- Source of the model's handles (items, transfers, transactions): the model's own field. -/
  ids : Nat := 0
  /-- Counter that names the next free value: the model's own field. -/
  free : Nat := 0
  /-- Value that the last register read with a side effect returned: the model's own field. -/
  readValue : Qword := 0
  /-- Condition 4 for every holding: a retired buffer or bank (R255). -/
  degraded : Bool := false
  /-- Pulse events on their way into the CIC (R305). -/
  pulses : List Nat := []
  out : Outbox := {}
  deriving DecidableEq, Repr

/-! ## The cores -/

/-- A CIC source (R307 to R311, R317). -/
structure CicSrc where
  pending : Bool := false
  masked : Bool := true
  wake : Bool := false
  quar : Bool := false
  /-- The core whose claim is open: ACTIVE (R307). -/
  active : Option CoreId := none
  count : Byte := 0
  targets : BitVec 6 := 0
  /-- MODE: true = LOWEST-PRIORITY (R311). -/
  lowest : Bool := false
  prio : BitVec 4 := 0
  /-- The input level of a level source (R304). -/
  level : Bool := false
  /-- ETC of the first event counted since the counter was 0 (R317). -/
  first : Option Nat := none
  /-- The source has been unmasked since that event (R317). -/
  steady : Bool := false
  /-- The counter reached 255 within 1 ms of that event, unmasked throughout: quarantine follows (R317). -/
  hot : Bool := false
  deriving DecidableEq, Repr

/-- States of a user core (R291). -/
inductive CoreState where
  | stopped | running | halted
  deriving DecidableEq, Repr

/-- A loaded user image's header (R287). -/
structure UserImage where
  entry : Dword
  tripGrant : BitVec 4
  tcmLen : Nat
  l2Off : Nat
  l2Len : Nat
  winBase : Qword
  winSize : Nat
  slots : List Nat
  alarmSlot : Bool
  deriving DecidableEq, Repr

/-- Architectural registers of a core that the block's commands read or write (R291, R300, R364). -/
structure CoreRegs where
  pc : Dword := 0
  /-- x0 to x31; x0 is never written. -/
  x : Vector Dword 32 := Vector.replicate 32 0
  mstatus : Dword := 0
  mepc : Dword := 0
  mcause : Dword := 0
  mtval : Dword := 0
  mtvec : Dword := 0
  mie : Dword := 0
  mip : Dword := 0
  /-- The machine timer (R284). -/
  mtime : Qword := 0
  /-- Its compare value (R284). -/
  mtimecmp : Qword := 0xFFFFFFFFFFFFFFFF#64
  /-- Configuration bytes of the 16 PMP entries (R284, R285). -/
  pmpCfg : Vector Byte 16 := Vector.replicate 16 0
  /-- Address registers of the 16 PMP entries (R284, R285). -/
  pmpAddr : Vector Dword 16 := Vector.replicate 16 0
  /-- LR reservation held (R300). -/
  lr : Bool := false
  /-- The core is in machine mode (R284). -/
  machine : Bool := true
  deriving DecidableEq, Repr

/-- A control core (R284 to R292, R299, R302, R309). -/
structure Core where
  regs : CoreRegs := {}
  state : CoreState := .stopped

  wfi : Bool := false
  /-- The core waits for a thread (R300). -/
  noThread : Bool := false
  image : Option UserImage := none
  /-- Running-priority stack, top first: priority and source (R309). -/
  stack : List (Nat × Nat) := []
  /-- CIC_RUNPRI.EOI_ERR (R314). -/
  eoiErr : Bool := false
  /-- DSP_RUN.THREAD (R302). -/
  run : Option ThreadId := none
  /-- DSP_RUN.REFUSED (R299). -/
  refused : Bool := false
  /-- PRE-EMPT mode: the thread that has left RUNNING on this core by a wait, and is still to be saved (R300). -/
  unsaved : Option ThreadId := none
  /-- DSP_MODE.PREEMPT (R302). -/
  preempt : Bool := false
  /-- DSP_MODE.ENABLE (R302). -/
  enable : Bool := false
  /-- DSP_TMR_LO and HI (R302). -/
  tmr : Qword := 0
  tmrThread : Byte := 0
  tmrFlag : BitVec 5 := 0
  tmrArm : Bool := false
  deriving DecidableEq, Repr

/-- States of a thread (R296). -/
inductive ThreadState where
  | dormant | ready | running | waiting
  deriving DecidableEq, Repr

/-- The Skelku service in which a thread is blocked (R293). -/
inductive SkCall where
  | none | wait | sleep | copy
  deriving DecidableEq, Repr

/-- A host copy in progress (R293). -/
structure HostCopy where
  toHost : Bool
  addr : Dword
  len : Nat
  deriving DecidableEq, Repr

/-- A thread (R295 to R302). -/
structure Thread where
  prio : BitVec 5 := 0
  affinity : BitVec 6 := 0
  all : Bool := false
  keep : Bool := false
  flags : Dword := 0
  mask : Dword := 0
  got : Dword := 0
  state : ThreadState := .dormant
  /-- Core that runs it or last ran it; 7 = none (DSP_STATE.CORE). -/
  core : Nat := 7
  err : Bool := false
  ctx : Dword := 0
  /-- Order in which it became READY: smaller is older (R298). -/
  age : Nat := 0
  /-- The Skelku service that blocks it (R293). -/
  call : SkCall := .none
  copy : Option HostCopy := none
  deriving DecidableEq, Repr

/-- A timer of the table that Skelku keeps on a core (R293): the core, the thread it wakes, when, and whether it is a wait's timeout. -/
structure SkTimer where
  core : CoreId
  thread : ThreadId
  due : Nat
  timeout : Bool
  deriving DecidableEq, Repr

/-- The control-core cluster, dispatcher, CIC and watcher. -/
structure Cores where
  /-- TCM and L2 by core address, in canonical form (R24, R286). -/
  mem : List Host.Cell := []
  core : Vector Core 6 := Vector.replicate 6 {}
  threads : Vector Thread 256 := Vector.replicate 256 {}
  src : Vector CicSrc 512 := Vector.replicate 512 {}
  /-- The watcher's pending bits and counts while the CIC is off (R319). -/
  wPend : BitVec 64 := 0
  wCount : Vector Byte 64 := Vector.replicate 64 0
  /-- When the watcher counted the first event of a source, and that it reached 255 as R317 says. -/
  wFirst : Vector (Option Nat) 64 := Vector.replicate 64 none
  wHot : BitVec 64 := 0
  /-- Source of thread ages (R296). -/
  ages : Nat := 0
  /-- Skelku's attachments of sources: source to thread and flag (R294). -/
  attach : Map (ThreadId × Nat) := []
  /-- Skelku's timers (R293). -/
  timers : List SkTimer := []
  /-- DBG_SEL (R364). -/
  dbgCore : BitVec 3 := 0
  dbgReg : BitVec 6 := 0
  deriving DecidableEq, Repr

/-- The state of the block: the engine, the cores, and the commands that wait, first in first out. -/
structure State where
  eng : Engine
  cores : Cores
  pending : List Instr
  deriving DecidableEq, Repr

/-! ## Reset -/

/-- Holding 0 after POR_N and CONTROLLER RESET (R115, R229). -/
def Holding.zero : Holding :=
  { created := true, sqQuota := 4096, cqQuota := 4096, pollCredits := 4194304, rowrateQuota := 4096,
    ctxQuota := 8388608, ringQuota := 1024, portSet := 0xFFFFFFFF#32,
    reserve := Vector.replicate 32 { s := 200, c := 5000, p := 8, w := 16 } }

/-- The 64 holdings after POR_N: holding 0 only (R366). -/
def Holding.table : Vector Holding 64 := (Vector.replicate 64 {}).set 0 Holding.zero

/-- A spare plot after POR_N (R13, R362). -/
def Plot.fresh : Plot := { allotted := false, spare := true, ports := 0 }

/-- The plot sea after POR_N: plots 0 to 255 holding 0's, 256 to 271 spare (R13, R229). -/
def Plot.sea : Vector Plot 272 :=
  (Vector.replicate 256 ({} : Plot) ++ Vector.replicate 16 Plot.fresh : Vector Plot (256 + 16))

/-- The engine right after POR_N with VDD_AO just up. -/
def Engine.reset : Engine := { holdings := Holding.table, plots := Plot.sea }

/-- The state right after reset: POR_N asserted with VDD_AO just up, every register at its reset value, no
command waiting (R366, R385). -/
def State.reset : State := { eng := Engine.reset, cores := {}, pending := [] }

end Sys2Proof.Machine
end

