-- ==== Sys2Proof/Machine/Flags.lean ====
section
/-! DEFINITION. Flag and status computations: the conditions of a holding (R192), FN_STAT and FN_COND (R360),
TRIP_STAT (R162), the yoke's state byte (R280), CIC and queue predicates that several commands read. -/

namespace Sys2Proof.Machine

/-- The holding record of a function. -/
abbrev Engine.hold (e : Engine) (h : Fn) : Holding := e.holdings[h.val]

/-- Firmware's record of a function. -/
abbrev Engine.fn (e : Engine) (h : Fn) : FnState := e.fns[h.val]

/-- A root port. -/
abbrev Engine.port (e : Engine) (p : PortId) : Port := e.ports[p.val]

/-- A plot. -/
abbrev Engine.plot (e : Engine) (p : PlotId) : Plot := e.plots[p.val]

/-- The function's PCIe record. -/
abbrev Engine.pfn (e : Engine) (h : Fn) : FnPcie := e.pcie.fns[h.val]

/-- ETC as a number (R343). -/
abbrev Engine.now (e : Engine) : Nat := e.clk.etc.toNat

/-- Nanoseconds from the last row boundary (R29). -/
abbrev Engine.t (e : Engine) : Nat := e.clk.rowNs

/-- The controller is the senior (R373, R4). -/
def Engine.senior (e : Engine) : Bool := !e.pins.strapYoke

/-- Whether any test control is on (R402). -/
def Engine.testOn (e : Engine) : Bool := e.test.ctls.toList.any (·.on)

/-- The test block is unlocked (R402). -/
def Engine.unlocked (e : Engine) : Bool := e.test.byKey || e.test.byStrap

/-- A VF function is enabled (R356); function 0 always is. -/
def Engine.fnEnabled (e : Engine) (h : Fn) : Bool :=
  h.val == 0 || (e.pcie.vfEnable && decide (h.val ≤ e.pcie.numVfs))

/-- FN_STAT.HELD: the controller issues no request for the function (R234, R352, R360). -/
def Engine.held (e : Engine) (h : Fn) : Bool :=
  !(e.pfn h).bme || (e.pfn h).d3 || !e.fnEnabled h

/-- The active conditions of a holding, bit n for condition n; bit 0 when no other is (R192, R360). -/
def Engine.conds (e : Engine) (h : Fn) : BitVec 16 :=
  let b (i : Nat) (c : Bool) : Nat := if c then 2 ^ i else 0
  let n := b 1 (!(e.fn h).log.isEmpty)
    + b 2 (e.testOn || e.fw.halted != 0)
    + b 3 e.pwr.throttled
    + b 4 (e.degraded || (e.fn h).degraded || (e.yoke.yoked && (e.yoke.linkLost || e.yoke.wireLost)))
    + b 5 (match (e.hold h).freeze with | some z => z.reached | none => false)
    + b 6 (e.yoke.partnerLost)
    + b 7 e.fw.restarting
  if n = 0 then 1 else BitVec.ofNat 16 n

/-- The highest-numbered active condition of a set (R192). -/
def condCode (c : BitVec 16) : Nat := c.toNat.log2

/-- The condition code that a completion of the holding carries (R190, R192). -/
def Engine.condOf (e : Engine) (h : Fn) : Nat := condCode (e.conds h)

/-- FN_COND (R360). -/
def Engine.fnCond (e : Engine) (h : Fn) : Dword :=
  BitVec.ofNat 32 ((e.conds h).toNat + 65536 * e.condOf h)

/-- The code of a chip state in FN_STAT.CHIP and PWR_STAT.LAST (R341, R360). -/
def Chip.code : Chip → Nat
  | .active => 0
  | .fallow => 1
  | .dormant => 2

/-- Lock of a PLL; ACLK always runs while VDD_AO is up. -/
def pllLocked (p : Pll) (c : Clk) : Bool :=
  match p with
  | .hclk => c.hclk
  | .pclk => c.pclk
  | .lclk => c.lclk
  | .bclk => c.bclk
  | .cclk => c.cclk
  | .tclk => c.tclk
  | .aclk => true

/-- Firmware takes commands (R360, R387). -/
def Engine.fwRuns (e : Engine) : Bool :=
  e.fw.ready && !e.fw.restarting && !e.fw.fenced && !e.pins.inReset && !e.jtag.holds && !e.fw.resetComing
    && e.pwr.chip == .active

/-- The bus engine runs: out of reset, firmware booted, not fenced, not held by JTAG (R272, R387, R406). -/
def Engine.live (e : Engine) : Bool :=
  e.fw.ready && !e.fw.fenced && !e.pins.inReset && !e.jtag.holds

/-- FN_STAT (R360). -/
def Engine.fnStat (e : Engine) (h : Fn) : Dword :=
  BitVec.ofNat 32 (b2n e.fw.ready + 2 * b2n (e.hold h).created
    + 4 * b2n (match (e.hold h).freeze with | some z => z.reached | none => false)
    + 8 * b2n (e.fn h).reset.isSome + 16 * b2n e.fw.restarting + 32 * b2n (e.held h)
    + 64 * b2n (!(e.fn h).account.kept.isEmpty || (e.fn h).account.folded != 0) + 256 * e.pwr.chip.code)

/-- TRIP_N outputs driven low now (R162). -/
def Engine.driven (e : Engine) : BitVec 4 :=
  if e.pins.inReset || e.fw.fenced || e.jtag.holds then 0 else e.pins.armed &&& ~~~e.pins.tripped

/-- TRIP_STAT (R162). -/
def Engine.tripStat (e : Engine) : Dword :=
  BitVec.ofNat 32 (e.pins.tripped.toNat + 16 * e.pins.armed.toNat + 256 * e.driven.toNat
    + 65536 * e.pins.alm.toNat)

/-- A link state in which the root link carries tokens (R39). -/
def Port.up (p : Port) : Bool := p.link.state == .lup

/-- The code of a port state (R70). -/
def PState.code : PState → Nat
  | .off => 0 | .powered => 1 | .disabled => 2 | .enabled => 3 | .suspended => 4 | .resetting => 5
  | .resuming => 6

/-- The link holds symbol lock at a measured rate (R39). -/
def Link.measured (l : Link) : Bool :=
  l.state == .lup || l.state == .lmend || l.state == .lquiet || l.state == .lwake

/-- Bounces within the last second (R73). -/
def Rh.bounceCount (r : Rh) (now : Nat) : Nat := (r.bounces.filter (fun b => decide (now < b + 1000000000))).length

/-- The port state record of a root port (R74). -/
def Engine.rootRecord (e : Engine) (p : PortId) : BitVec 128 :=
  let pt := e.port p
  let up := pt.link.measured
  BitVec.ofNat 128 (pt.rh.state.code + 2 ^ 8 * (if up then pt.link.rate.code else 0)
    + 2 ^ 16 * (b2n pt.rh.power + 2 * b2n pt.rh.connected + 4 * b2n pt.rh.quar
      + 16 * b2n pt.rh.resumeHost + 32 * b2n pt.rh.wakeSeen)
    + 2 ^ 24 * min 8 (pt.rh.bounceCount e.now) + 2 ^ 32 * pt.rh.changes.toNat
    + 2 ^ 48 * (if up then min 65535 pt.link.rtt else 0)
    + 2 ^ 64 * min 65535 pt.rh.recoveries + 2 ^ 80 * min 65535 pt.rh.discards)

/-- The ports that this controller leads, among the yoked ones (R280). -/
def Engine.ledPorts (e : Engine) : Dword :=
  (allFin 32).foldl (fun m p => if bitOf e.yoke.yokedPorts p.val && (e.port p).leads then m ||| (1#32 <<< p.val) else m) 0

/-- Partner present: yoked with both paths beating (R271, R280). -/
def Engine.partnerPresent (e : Engine) : Bool :=
  e.yoke.yoked && !e.yoke.partnerLost && decide (e.yoke.missLink < 4) && decide (e.yoke.missWire < 4)

/-- Plots allotted to a holding and not being removed (R232, R233), in plot order. -/
def Engine.plotsOf (e : Engine) (h : Fn) : List PlotId :=
  (allFin 272).filter fun p =>
    let q := e.plot p
    q.allotted && q.holding == h && !q.retired && !q.removed && q.clearFor.isNone && !q.clearing && !q.isolated

/-- The plots over which a holding's slices are shared (R233): an isolated plot keeps its slice until SPARE (R20). -/
def Engine.slicePlots (e : Engine) (h : Fn) : List PlotId :=
  (allFin 272).filter fun p =>
    let q := e.plot p
    q.allotted && q.holding == h && !q.retired && !q.removed && q.clearFor.isNone && !q.clearing
      && (!q.isolated || e.toSpare.contains p)

/-- Free plots: in service, cleared, allotted to no holding (R232), lowest first. -/
def Engine.freePlots (e : Engine) : List PlotId :=
  (allFin 272).filter fun p =>
    let q := e.plot p
    !q.allotted && !q.spare && !q.retired && !q.clearing && !q.isolated && !q.removing && q.clearFor.isNone

/-- The spare pool, lowest first (R13). -/
def Engine.sparePlots (e : Engine) : List PlotId :=
  (allFin 272).filter fun p =>
    let q := e.plot p
    q.spare && !q.retired && !q.clearing && !q.isolated

/-- The plots in service: neither spare nor retired (R13, R362). -/
def Engine.inService (e : Engine) : Nat :=
  ((allFin 272).filter fun p => !(e.plot p).spare && !(e.plot p).retired).length

/-- Periodic places of a port that are not retired (R116). -/
def PortArb.places (a : PortArb) : Nat := ((List.range 8).filter fun k => !a.retiredPlaces.getLsbD k).length

/-- MSI-X state of a vector (R354); an entry not listed is the reset one. -/
def FnPcie.vector (f : FnPcie) (v : Nat) : MsixEntry := (mget f.msix v).getD {}

/-- Credits of an SQ (R181). -/
def sqCost (kb : Nat) : Nat := 2 ^ (18 - kb)

/-- Free space of a ring whose writer stands at `w` and whose reader released up to `r` (R151). -/
def ringFree (size : Nat) (w r : RingPos) : Nat :=
  if w.phase = r.phase then size - (w.at_ - r.at_) else r.at_ - w.at_

/-- Free space of a CQ: its size less unreleased completions less reservations (R183). -/
def Cq.free (q : Cq) (n : Nat) : Int :=
  (ringFree q.par.size q.write q.release : Int) - q.reserved - (if n = 0 then 1 else 0)

end Sys2Proof.Machine
end

