-- ==== Sys2Proof/Machine/Operands.lean ====
section
/-! DEFINITION. Operand forms: Cammir packets and their CRCs (R41 to R54), endpoint contexts (R212), periodic
descriptors (R107), queue entries (R171 to R175), admin command fields (R199), reap list images (R136, R137),
port state records (R74), and the span, charge and timeout arithmetic of a path (R56, R58, R65, R117, R138). -/

namespace Sys2Proof.Machine

/-! ## CRCs (R42) -/

/-- Eight (or `n`) steps of a reflected CRC with a reversed polynomial. -/
def crcBits {w : Nat} (poly c : BitVec w) : Nat → BitVec w
  | 0 => c
  | n + 1 => crcBits poly (if c.getLsbD 0 then (c >>> 1) ^^^ poly else c >>> 1) n

/-- A reflected CRC with initial value and final exclusive-or all ones (R42). -/
def crc {w : Nat} (poly : BitVec w) (bs : List Byte) : BitVec w :=
  ~~~ (bs.foldl (fun c b => crcBits poly (c ^^^ b.setWidth w) 8) (BitVec.allOnes w))

/-- The CRC-16 of tokens and handshakes: polynomial 0x1021 reflected (R42). -/
def crc16 (bs : List Byte) : BitVec 16 := crc 0x8408#16 bs

/-- The CRC-32 of data packets: polynomial 0x04C1_1DB7 reflected (R42). -/
def crc32 (bs : List Byte) : BitVec 32 := crc 0xEDB88320#32 bs

/-! ## Packets the root port sends -/

/-- A token (R44). -/
structure Token where
  type : Nat
  flags : Nat := 0
  route : Dword := 0
  dev : DevNum
  ep : EpNum := 0
  tag : Nat := 0
  seq : BitVec 16 := 0
  len : Nat := 0

/-- The three bytes of a target: device number and endpoint (R44). -/
def targetBytes (dev : DevNum) (ep : EpNum) : List Byte := leBytes 3 (dev.toNat + 2 ^ 20 * ep.toNat)

/-- The 16 bytes of a token with its CRC (R44). -/
def Token.bytes (t : Token) : List Byte :=
  let b := leBytes 1 t.type ++ leBytes 1 t.flags ++ wordBytes t.route ++ targetBytes t.dev t.ep
    ++ leBytes 1 t.tag ++ wordBytes t.seq ++ leBytes 2 t.len
  b ++ wordBytes (crc16 b)

/-- A downstream DATA packet with its CRC (R50). -/
def dataPacket (dev : DevNum) (ep : EpNum) (seq : BitVec 16) (payload : List Byte) : List Byte :=
  let b := leBytes 1 0x10 ++ leBytes 1 0 ++ targetBytes dev ep ++ leBytes 1 seq.toNat
    ++ leBytes 2 payload.length ++ payload
  b ++ wordBytes (crc32 b)

/-- The SOF token of a frame (R45). -/
def sofToken (frame : BitVec 48) (shadow : Bool) : Token :=
  { type := 1, flags := b2n shadow, route := 0x0E000000#32, dev := 0xFFFFF#20, seq := frame.setWidth 16 }

/-- The APOLL token: alarm count n, deadline in 10 ns units, frame and row (R45). -/
def apollToken (frame : BitVec 48) (row n d : Nat) : Token :=
  { type := 7, flags := n, route := 0x0E000000#32, dev := 0xFFFFF#20,
    seq := BitVec.ofNat 16 (16 * (frame.toNat % 4096) + row), len := d }

/-! ## Packets the root port receives -/

/-- A received packet that passed R41. -/
inductive Packet where
  | data (dev : DevNum) (ep : EpNum) (seq : Byte) (attn : Bool) (payload : List Byte)
  | sheaf (listId : Nat) (hub : DevNum) (ep : EpNum) (serial : Byte) (attn : Bool) (payload : List Byte)
  | alarms (more attn : Bool) (dev : DevNum) (seq : Byte) (payload : List Byte)
  | ack (dev : DevNum) (ep : EpNum) (seq : Byte) (attn dup : Bool)
  | nak (dev : DevNum) (ep : EpNum) (seq : Byte) (attn : Bool)
  | stall (dev : DevNum) (ep : EpNum) (seq : Byte) (attn : Bool) (flags : Byte)
  deriving DecidableEq

/-- Whether the last bytes of a packet are the CRC of the bytes before them (R42). -/
def crcOk (n : Nat) (bs : List Byte) (f : List Byte → List Byte) : Bool :=
  decide (bs.drop (bs.length - n) = f (bs.take (bs.length - n)))

/-- The packet in received bytes; none when R41 discards it: unknown type, wrong count, bad CRC. -/
def parsePacket (bs : List Byte) : Option Packet :=
  let type := leAt 0 1 bs
  let fl := leAt 1 1 bs
  let target := leAt 2 3 bs
  let dev : DevNum := BitVec.ofNat 20 target
  let ep : EpNum := BitVec.ofNat 4 (target / 2 ^ 20)
  let seq : Byte := BitVec.ofNat 8 (leAt 5 1 bs)
  let len := leAt 6 2 bs
  let okData (n : Nat) : Bool := decide (bs.length = n + 12) && crcOk 4 bs (fun b => wordBytes (crc32 b))
  let okHs : Bool := decide (bs.length = 8) && crcOk 2 bs (fun b => wordBytes (crc16 b))
  let payload (n : Nat) := slice 8 n bs
  let attn := decide (128 ≤ fl)
  if type = 0x10 then
    if okData (len % 2048) then some (.data dev ep seq attn (payload (len % 2048))) else none
  else if type = 0x11 then
    let n := len % 32768
    if okData n then some (.sheaf fl dev ep seq (decide (32768 ≤ len)) (payload n)) else none
  else if type = 0x12 then
    let n := len % 1024
    if okData n then some (.alarms (decide (fl % 2 = 1)) attn dev seq (payload n)) else none
  else if type = 0x20 then
    if okHs then some (.ack dev ep seq attn (decide (fl % 2 = 1))) else none
  else if type = 0x21 then
    if okHs then some (.nak dev ep seq attn) else none
  else if type = 0x22 then
    if okHs then some (.stall dev ep seq attn (BitVec.ofNat 8 (fl % 64))) else none
  else none

/-- Bits of a STALL's flags (R53). -/
def stallHalt : Nat := 0
/-- SEQ (R53). -/
def stallSeq : Nat := 1
/-- TAG (R53). -/
def stallTag : Nat := 2
/-- NOLIST (R53). -/
def stallNoList : Nat := 3
/-- BABL (R53). -/
def stallBabl : Nat := 4
/-- NODEV (R53). -/
def stallNoDev : Nat := 5

/-! ## Setup packets (R54) -/

/-- The setup packet of a request. -/
def setupPacket (code index recipient : Nat) (dirIn : Bool) (value len : Nat) : BitVec 96 :=
  BitVec.ofNat 96 (code + 2 ^ 16 * (index + 32 * recipient) + 2 ^ 24 * (128 * b2n dirIn)
    + 2 ^ 32 * (value % 2 ^ 32) + 2 ^ 64 * (len % 65536))

/-- Request code. -/
def setupCode (s : BitVec 96) : Nat := fldN s 0 16
/-- Target index. -/
def setupIndex (s : BitVec 96) : Nat := fldN s 16 5
/-- Recipient. -/
def setupRecipient (s : BitVec 96) : Nat := fldN s 21 3
/-- Data direction: true = from the device. -/
def setupIn (s : BitVec 96) : Bool := bitOf s 31
/-- Value. -/
def setupValue (s : BitVec 96) : Nat := fldN s 32 32
/-- Data-stage bytes. -/
def setupLen (s : BitVec 96) : Nat := fldN s 64 16

/-! ## Endpoint contexts (R212) -/

/-- Device number of a context. -/
def ctxDev (c : BitVec 256) : DevNum := fld c 0 20
/-- Endpoint of a context. -/
def ctxEp (c : BitVec 256) : EpNum := fld c 20 4
/-- Kind: 0 none, 1 control, 2 bulk, 3 periodic. -/
def ctxKind (c : BitVec 256) : Nat := fldN c 24 2
/-- Direction. -/
def ctxIn (c : BitVec 256) : Bool := bitOf c 26
/-- Largest packet. -/
def ctxMax (c : BitVec 256) : Nat := fldN c 32 16
/-- The controller's copy of E (R62). -/
def ctxE (c : BitVec 256) : BitVec 16 := fld c 48 16
/-- HALTED. -/
def ctxHalted (c : BitVec 256) : Bool := bitOf c 64

/-- The fields that R212 allows, for a context of kind other than 0. -/
def ctxOk (c : BitVec 256) : Bool :=
  ctxKind c != 0 && decide (8 ≤ ctxMax c) && decide (ctxMax c ≤ 1024) && fldN c 27 5 == 0
    && fldN c 65 63 == 0 && fldN c 192 64 == 0
    && (ctxKind c != 1 || (!ctxIn c && ctxEp c == 0))

/-- A context with a field replaced. -/
def putFld {n : Nat} (c : BitVec n) (lo w v : Nat) : BitVec n :=
  BitVec.ofNat n (c.toNat - 2 ^ lo * fldN c lo w + 2 ^ lo * (v % 2 ^ w))

/-- A context with another E. -/
def ctxSetE (c : BitVec 256) (e : BitVec 16) : BitVec 256 := putFld c 48 16 e.toNat
/-- A context with another HALTED. -/
def ctxSetHalted (c : BitVec 256) (h : Bool) : BitVec 256 := putFld c 64 1 (b2n h)

/-! ## Periodic descriptors (R107, R108) -/

/-- Kind: 0 SKIP, 1 REAP, 2 SOLO-IN, 3 SOLO-OUT. -/
def dKind (d : BitVec 256) : Nat := fldN d 0 3
/-- ROWRATE. -/
def dRowrate (d : BitVec 256) : Bool := bitOf d 3
/-- Sheaf ring. -/
def dRing (d : BitVec 256) : Nat := fldN d 16 8
/-- List id. -/
def dList (d : BitVec 256) : Nat := fldN d 24 8
/-- Device number. -/
def dDev (d : BitVec 256) : DevNum := fld d 32 20
/-- Endpoint. -/
def dEp (d : BitVec 256) : EpNum := fld d 52 4
/-- Length. -/
def dLen (d : BitVec 256) : Nat := fldN d 96 16
/-- Deadline in 10 ns units. -/
def dDeadline (d : BitVec 256) : Nat := fldN d 112 16
/-- Out slot. -/
def dSlot (d : BitVec 256) : Qword := fld d 128 64
/-- Context index. -/
def dCtx (d : BitVec 256) : Nat := fldN d 192 23

/-- The checks of R111 that the descriptor's own bytes decide: kind, reserved bits, length. -/
def dFormOk (d : BitVec 256) (row : Nat) : Bool :=
  let k := dKind d
  let reserved := fldN d 4 12 == 0 && fldN d 56 40 == 0 && fldN d 215 41 == 0
  reserved && (!dRowrate d || (row == 0 && (k == 2 || k == 3))) &&
  match k with
  | 0 => true
  | 1 => fldN d 52 4 == 0 && decide (8 ≤ dLen d) && decide (dLen d ≤ 16384) && dLen d % 8 == 0
          && decide (1 ≤ dDeadline d) && dSlot d == 0
  | 2 => dList d == 0 && dEp d != 0 && decide (dLen d ≤ 1024) && dDeadline d == 0 && dSlot d == 0
  | 3 => dRing d == 0 && dList d == 0 && dEp d != 0 && decide (dLen d ≤ 1024) && dDeadline d == 0
          && (dSlot d).toNat % 8 == 0
  | _ => false

/-! ## Queue entries (R171 to R175) -/

/-- Units of an entry. -/
def eUnits (u : BitVec 256) : Nat := fldN u 0 4 + 1
/-- Phase bit. -/
def ePhase (u : BitVec 256) : Bool := bitOf u 7
/-- Opcode. -/
def eOpcode (u : BitVec 256) : Nat := fldN u 8 8
/-- COMPLETE. -/
def eComplete (u : BitVec 256) : Bool := bitOf u 16
/-- FENCE. -/
def eFence (u : BitVec 256) : Bool := bitOf u 17
/-- INTERRUPT. -/
def eInterrupt (u : BitVec 256) : Bool := bitOf u 18
/-- Tag. -/
def eTag (u : BitVec 256) : Dword := fld u 32 32
/-- Device number. -/
def eDev (u : BitVec 256) : DevNum := fld u 64 20
/-- Endpoint. -/
def eEp (u : BitVec 256) : EpNum := fld u 84 4
/-- Length. -/
def eLen (u : BitVec 256) : Nat := fldN u 96 32
/-- Setup packet of a CONTROL entry. -/
def eSetup (u : BitVec 256) : BitVec 96 := fld u 128 96

/-- The two 16-byte halves of a unit. -/
def halves (u : BitVec 256) : List (BitVec 128) := [fld u 0 128, fld u 128 128]

/-- Scatter elements before the ending element; none when an element breaks R173 or a byte follows the end. -/
def scatter : List (BitVec 128) → Option (List (Qword × Nat))
  | [] => some []
  | x :: xs =>
    if x = 0 then if xs.all (· == 0) then some [] else none
    else
      let n := fldN x 64 25
      if n = 0 || decide (16777216 < n) || fldN x 89 39 != 0 then none
      else (scatter xs).map fun l => (fld x 0 64, n) :: l

/-- The reserved bits of a header that every opcode but PAD checks (R10, R174). -/
def headerReserved (u : BitVec 256) : Bool :=
  fldN u 4 3 == 0 && fldN u 19 5 == 0 && fldN u 24 8 == 0 && fldN u 88 8 == 0

/-- The scatter list of a bulk entry, if the entry passes R174. -/
def bulkCheck (us : List (BitVec 256)) : Option (List (Qword × Nat)) :=
  match us with
  | [] => none
  | u :: rest =>
    match scatter (fld u 128 128 :: rest.flatMap halves) with
    | none => none
    | some l =>
      if headerReserved u && eEp u != 0 && (l.map (·.2)).sum == eLen u then some l else none

/-- The scatter list of a CONTROL entry, if the entry passes R174. -/
def controlCheck (us : List (BitVec 256)) : Option (List (Qword × Nat)) :=
  match us with
  | [] => none
  | u :: rest =>
    match scatter (rest.flatMap halves) with
    | none => none
    | some l =>
      let s := eSetup u
      if headerReserved u && eEp u == 0 && fldN u 224 32 == 0 && fldN s 24 7 == 0 && fldN s 80 16 == 0
          && decide (setupRecipient s ≤ 2) && setupLen s == eLen u && (l.map (·.2)).sum == eLen u
      then some l else none

/-- Whether a MARK entry passes R174. -/
def markCheck (us : List (BitVec 256)) : Bool :=
  match us with
  | [u] => headerReserved u && fldN u 64 192 == 0
  | _ => false

/-- Split data over the bytes `off` on of a scatter list: the writes of IN data (R173). -/
def spread : List (Qword × Nat) → Nat → List Byte → List (Qword × List Byte)
  | [], _, _ => []
  | (a, n) :: rest, off, d =>
    if d.isEmpty then []
    else if n ≤ off then spread rest (off - n) d
    else (a + BitVec.ofNat 64 off, d.take (n - off)) :: spread rest 0 (d.drop (n - off))

/-- The read requests for bytes `off` to `off + len - 1` of a scatter list. -/
def gather : List (Qword × Nat) → Nat → Nat → List (Qword × Nat)
  | [], _, _ => []
  | (a, n) :: rest, off, len =>
    if len = 0 then []
    else if n ≤ off then gather rest (off - n) len
    else (a + BitVec.ofNat 64 off, min len (n - off)) :: gather rest 0 (len - min len (n - off))

/-! ## Admin commands (R199) -/

/-- A field of a command: byte, bit in it, width. -/
def cf (c : BitVec 512) (byte bit w : Nat) : Nat := fldN c (8 * byte + bit) w
/-- Opcode. -/
def cOp (c : BitVec 512) : Nat := cf c 1 0 8
/-- FENCE. -/
def cFence (c : BitVec 512) : Bool := bitOf c 17
/-- INTERRUPT. -/
def cInterrupt (c : BitVec 512) : Bool := bitOf c 18
/-- APPLY_ONCE. -/
def cOnce (c : BitVec 512) : Bool := bitOf c 19
/-- Tag. -/
def cTag (c : BitVec 512) : Dword := fld c 32 32
/-- Device number of the header's target. -/
def cDev (c : BitVec 512) : DevNum := fld c 64 20
/-- Endpoint of the header's target. -/
def cEp (c : BitVec 512) : EpNum := fld c 84 4
/-- Response length. -/
def cRespLen (c : BitVec 512) : Nat := cf c 12 0 32
/-- Response address. -/
def cRespAddr (c : BitVec 512) : Qword := fld c 128 64

/-- Fields of a command, as (byte, bit, width). -/
abbrev Fields := List (Nat × Nat × Nat)

/-- The command with the named fields zeroed: what is left is reserved. -/
def clearFields (c : BitVec 512) : Fields → BitVec 512
  | [] => c
  | (b, i, w) :: rest => clearFields (putFld c (8 * b + i) w 0) rest

/-- The header fields that every command uses (R199); the target only in commands that name an endpoint. -/
def headerFields (target : Bool) : Fields :=
  [(0, 0, 4), (0, 7, 1), (1, 0, 8), (2, 0, 4), (4, 0, 32), (12, 0, 32), (16, 0, 64)]
    ++ (if target then [(8, 0, 24)] else [])

/-- Whether a nonzero reserved bit stands in the command (R10, R201). -/
def reservedSet (c : BitVec 512) (target : Bool) (used : Fields) : Bool :=
  clearFields c (headerFields target ++ used) != 0

/-- A position operand at byte `b` with its port at byte `pb` (R214). -/
def cPosition (c : BitVec 512) (b pb : Nat) : Position :=
  if cf c b 25 1 = 1 then .root (finOf 32 (cf c b 20 5))
  else .hubPort (fld c (8 * b) 20) (cf c pb 0 8)

/-- The reserved bits of a position operand: only the fields of its form may be set. -/
def positionFields (c : BitVec 512) (b : Nat) : Fields :=
  if cf c b 25 1 = 1 then [(b, 20, 5), (b, 25, 1)] else [(b, 0, 20)]

/-! ## Path arithmetic -/

/-- The links of a path, root link first: symbol time and RTT. -/
abbrev Path := List (Nat × Nat)

/-- Links between the root port and below it (R58). -/
def Commons.pathUp (c : Commons) : Nat → DevNum → Path
  | 0, _ => []
  | n + 1, d =>
    match mget c.devs d.toNat with
    | none => []
    | some v =>
      let here := (v.rate.tau, v.rtt)
      match v.pos with
      | .root _ => [here]
      | .hubPort hub _ => Commons.pathUp c n hub ++ [here]

/-- The path of a bound device, root link included. -/
def Commons.path (c : Commons) (d : DevNum) : Path := c.pathUp 7 d

/-- Sum of symbol times. -/
def tauSum (p : Path) : Nat := (p.map (·.1)).sum
/-- Sum of round-trip times. -/
def rttSum (p : Path) : Nat := (p.map (·.2)).sum

/-- The nominal span of a transaction in ns (R58), `extra` in place of the device term. -/
def spanOf (path : Path) (q p extra : Nat) : Nat :=
  (q + p) * tauSum path + rttSum path + 2 * (path.length - 1) * 500 + extra

/-- The charge of a transaction in 10 ns units (R117). -/
def chargeOf (tauRoot q p : Nat) : Nat := ceilDiv ((q + p + 16) * tauRoot) 10

/-- The response timeout in ns (R65). -/
def timeoutOf (path : Path) (tbase ttier q p : Nat) : Nat :=
  1000 * tbase + 1000 * ttier * (path.length - 1) + (q + p) * tauSum (path.drop 1)

/-- Request symbols of a transaction: the token, and the DATA that follows an OUT or SETUP (R58). -/
def reqSymbols (k : TxKind) (n : Nat) : Nat :=
  match k with
  | .setup | .out | .soloOut => 18 + 14 + n
  | _ => 18

/-- Symbols of the largest permitted reply (R58). -/
def repSymbols (k : TxKind) (n : Nat) : Nat :=
  match k with
  | .in_ | .soloIn | .reap => 14 + n
  | _ => 10

/-- Symbols the request holds the root transmitter: token, one IDLE set, DATA (R35, R45). -/
def txSymbols (k : TxKind) (n : Nat) : Nat :=
  match k with
  | .setup | .out | .soloOut => 18 + 4 + 14 + n
  | _ => 18

/-- Alarm count and deadline in 10 ns units of an APOLL at offset `a` on a link of symbol time `tau` and RTT
`rtt` (R56). -/
def apollArith (a tau rtt : Nat) : Nat × Nat :=
  let fits (n : Nat) : Bool := decide (a + 18 * tau + rtt + 600 + (14 + 8 * n) * tau + 40 ≤ 2000)
  let n := ((List.range 65).filter fun n => decide (1 ≤ n) && fits n).foldl max 1
  (n, (2000 - a - 18 * tau - rtt - (14 + 8 * n) * tau - 40) / 10)

/-- The route string of a position below a parent's route (R46). -/
def routeBelow (parent : Dword) (parentDepth port : Nat) : Dword :=
  BitVec.ofNat 32 (parent.toNat % 2 ^ 25 + port * 2 ^ (5 * parentDepth) + 2 ^ 25 * (parentDepth + 1))

/-! ## Reap lists (R136 to R138) -/

/-- Device of an entry. -/
def rDev (e : Qword) : DevNum := fld e 0 20
/-- Endpoint of an entry. -/
def rEp (e : Qword) : EpNum := fld e 20 4
/-- Relative route. -/
def rRoute (e : Qword) : Nat := fldN e 24 20
/-- Depth. -/
def rDepth (e : Qword) : Nat := fldN e 44 3
/-- NESTED. -/
def rNested (e : Qword) : Bool := bitOf e 47
/-- Byte limit of a leaf entry. -/
def rLimit (e : Qword) : Nat := fldN e 48 11
/-- Child list id of a nested entry. -/
def rChild (e : Qword) : Nat := fldN e 48 8

/-- The header of an image as read: version, id, entries, deadline, tag byte, rest reserved. -/
structure ReapImage where
  version : Nat
  listId : Nat
  deadline : Nat
  tag : Nat
  reserved : Nat
  entries : List Qword

/-- The image in bytes, if their number is that of the entry count. -/
def parseImage (bs : List Byte) : Option ReapImage :=
  let n := leAt 2 2 bs
  if bs.length = 16 + 8 * n then
    some { version := leAt 0 1 bs, listId := leAt 1 1 bs, deadline := leAt 4 2 bs, tag := leAt 6 1 bs,
           reserved := leAt 7 9 bs,
           entries := (List.range n).map fun i => BitVec.ofNat 64 (leAt (16 + 8 * i) 8 bs) }
  else none

/-- The image bytes of a list (R136, R137). -/
def imageBytes (l : PlantedList) : List Byte :=
  leBytes 1 1 ++ leBytes 1 l.listId ++ leBytes 2 l.entries.length ++ leBytes 2 l.deadline
    ++ leBytes 1 l.holding.val ++ leBytes 9 0 ++ l.entries.flatMap wordBytes

/-- Payload bound of a leaf entry: 8 + 8 * ceil(limit / 8) (R138). -/
def leafBound (limit : Nat) : Nat := 8 + 8 * ceilDiv limit 8

/-- The payload bound M of entries, with the bound of a child list given by a function (R138). -/
def payloadBound (child : DevNum → Nat → Nat) (es : List Qword) : Nat :=
  (es.map fun e => if rNested e then max 8 (child (rDev e) (rChild e)) else leafBound (rLimit e)).sum

/-! ## Journal records as bytes (R261) -/

/-- The 4 bytes of a position: index in [30:0], phase in bit 31. -/
def ringForm (r : RingPos) : Nat := r.at_ + 2 ^ 31 * b2n r.phase

/-- A position from that form. -/
def ringOf (w : Nat) : RingPos := { at_ := w % 2 ^ 31, phase := w.testBit 31 }

/-- The kind nibble of a position record. -/
def posCode : PosKind → Nat
  | .sq => 1 | .cq => 2 | .sheafRing => 3 | .alarmRing => 4

/-- The position record of a kind nibble. -/
def posOfCode : Nat → Option PosKind
  | 1 => some .sq | 2 => some .cq | 3 => some .sheafRing | 4 => some .alarmRing | _ => none

/-- The 16 bytes of a position record. -/
def posBytes (r : PosRec) : List Byte :=
  leBytes 1 (posCode r.kind) ++ leBytes 1 r.holding.val ++ leBytes 2 (r.num % 4096) ++ leBytes 4 (ringForm r.issued)
    ++ leBytes 4 (ringForm r.settled) ++ wordBytes (if r.kind == .sheafRing then r.sequence else 0)

/-- A position record read from its bytes. -/
def parsePosRec (bs : List Byte) : Option PosRec :=
  (posOfCode (leAt 0 1 bs % 16)).map fun kind =>
    { kind, holding := finOf 64 (leAt 1 1 bs), num := leAt 2 2 bs % 4096, issued := ringOf (leAt 4 4 bs)
      settled := ringOf (leAt 8 4 bs), sequence := BitVec.ofNat 32 (leAt 12 4 bs) }

/-- The 16 bytes of a periodic record: state 1 issued, 2 reply received. -/
def periodicBytes (r : PeriodicRec) : List Byte :=
  leBytes 1 (6 + 16 * (if r.replied then 2 else 1)) ++ leBytes 1 r.holding.val ++ leBytes 1 r.ring ++ leBytes 1 r.listId
    ++ leBytes 4 (r.dev.toNat + 2 ^ 20 * r.ep.toNat + 2 ^ 24 * r.row + 2 ^ 28 * r.kind) ++ wordBytes r.frame
    ++ wordBytes r.serial ++ leBytes 2 0

/-- A periodic record read from its bytes. -/
def parsePeriodicRec (bs : List Byte) : Option PeriodicRec :=
  if leAt 0 1 bs % 16 != 6 then none
  else some
    { holding := finOf 64 (leAt 1 1 bs), ring := leAt 2 1 bs, listId := leAt 3 1 bs, dev := BitVec.ofNat 20 (leAt 4 4 bs)
      ep := BitVec.ofNat 4 (leAt 4 4 bs / 2 ^ 20), row := leAt 4 4 bs / 2 ^ 24 % 16, kind := leAt 4 4 bs / 2 ^ 28 % 8
      frame := BitVec.ofNat 32 (leAt 8 4 bs), serial := BitVec.ofNat 16 (leAt 12 2 bs), replied := leAt 0 1 bs / 16 == 2 }

/-- The state of an item record: 1 started, 2 outstanding, 3 decided. -/
def itemState (r : ItemRec) : Nat := if r.status.isSome then 3 else if r.outstanding then 2 else 1

/-- The control stage of an item record. -/
def stageCode : Stage → Nat
  | .setup => 0 | .data => 1 | .status => 2

/-- The control stage of a code. -/
def stageOf : Nat → Stage
  | 0 => .setup | 1 => .data | _ => .status

/-- The 32 bytes of an item record. -/
def itemBytes (r : ItemRec) : List Byte :=
  leBytes 1 (5 + 16 * itemState r) ++ leBytes 1 r.holding.val
    ++ leBytes 2 (r.sq % 4096 + 4096 * b2n r.relayed + 8192 * b2n r.adopted)
    ++ leBytes 4 (r.unit % 2 ^ 20 + 2 ^ 20 * (r.units - 1) + 2 ^ 24 * b2n r.complete + 2 ^ 25 * b2n r.fence
      + 2 ^ 26 * b2n r.interrupt)
    ++ wordBytes r.tag ++ leBytes 4 (r.dev.toNat + 2 ^ 20 * r.ep.toNat + 2 ^ 24 * r.opcode) ++ leBytes 4 r.bytes
    ++ wordBytes r.seq ++ wordBytes (r.status.getD 0) ++ leBytes 1 (stageCode r.stage) ++ leBytes 4 r.length
    ++ leBytes 4 (r.cq % 4096)

/-- An item record read from its bytes. -/
def parseItemRec (bs : List Byte) : Option ItemRec :=
  let w := leAt 2 2 bs
  let u := leAt 4 4 bs
  let d := leAt 12 4 bs
  let state := leAt 0 1 bs / 16
  if leAt 0 1 bs % 16 != 5 then none
  else some
    { holding := finOf 64 (leAt 1 1 bs), sq := w % 4096, relayed := w.testBit 12, adopted := w.testBit 13
      unit := u % 2 ^ 20, units := u / 2 ^ 20 % 16 + 1, complete := u.testBit 24, fence := u.testBit 25
      interrupt := u.testBit 26, tag := BitVec.ofNat 32 (leAt 8 4 bs), dev := BitVec.ofNat 20 d
      ep := BitVec.ofNat 4 (d / 2 ^ 20), opcode := d / 2 ^ 24, bytes := leAt 16 4 bs, seq := BitVec.ofNat 16 (leAt 20 2 bs)
      status := if state = 3 then some (BitVec.ofNat 8 (leAt 22 1 bs)) else none, stage := stageOf (leAt 23 1 bs)
      length := leAt 24 4 bs, cq := leAt 28 2 bs % 4096, outstanding := state == 2 }

end Sys2Proof.Machine
end

