-- ==== Sys2Proof/Machine/Ops.lean ====
section
/-! DEFINITION. The named operations over the state that the commands share: updates of one holding, function,
port or plot; counters (R400), the attention log (R222), host requests (R234, R351), CIC pulses (R305),
completions and reset accounts (R190, R215, R243), admin replies (R204, R209), context cache (R28), rings. -/

namespace Sys2Proof.Machine

/-- The answer of a command on the whole block. -/
abbrev Answer := Host.Outcome State Fault Refusal

/-! ## Updates of one part -/

/-- Update one holding. -/
def modHold (h : Fn) (f : Holding → Holding) (e : Engine) : Engine := { e with holdings := vmod e.holdings h f }
/-- Update firmware's record of one function. -/
def modFn (h : Fn) (f : FnState → FnState) (e : Engine) : Engine := { e with fns := vmod e.fns h f }
/-- Update one root port. -/
def modPort (p : PortId) (f : Port → Port) (e : Engine) : Engine := { e with ports := vmod e.ports p f }
/-- Update one plot. -/
def modPlot (p : PlotId) (f : Plot → Plot) (e : Engine) : Engine := { e with plots := vmod e.plots p f }
/-- Update the PCIe record of one function. -/
def modPfn (h : Fn) (f : FnPcie → FnPcie) (e : Engine) : Engine :=
  { e with pcie := { e.pcie with fns := vmod e.pcie.fns h f } }
/-- Update the link layer of one port. -/
def modLink (p : PortId) (f : Link → Link) : Engine → Engine := modPort p fun t => { t with link := f t.link }
/-- Update the root-hub record of one port. -/
def modRh (p : PortId) (f : Rh → Rh) : Engine → Engine := modPort p fun t => { t with rh := f t.rh }
/-- Update the arbiter of one port. -/
def modArb (p : PortId) (f : PortArb → PortArb) : Engine → Engine := modPort p fun t => { t with arb := f t.arb }
/-- Update an SQ of a holding. -/
def modSq (h : Fn) (n : Nat) (f : Sq → Sq) : Engine → Engine := modHold h fun x => { x with sqs := mmod f x.sqs n }
/-- Update a CQ of a holding. -/
def modCq (h : Fn) (n : Nat) (f : Cq → Cq) : Engine → Engine := modHold h fun x => { x with cqs := mmod f x.cqs n }
/-- Update a sheaf ring of a holding. -/
def modRing (h : Fn) (n : Nat) (f : SheafRing → SheafRing) : Engine → Engine :=
  modHold h fun x => { x with rings := mmod f x.rings n }
/-- Update the commons. -/
def modCommons (f : Commons → Commons) (e : Engine) : Engine := { e with commons := f e.commons }
/-- Update the yoke. -/
def modYoke (f : Yoke → Yoke) (e : Engine) : Engine := { e with yoke := f e.yoke }
/-- Update a numbered device. -/
def modDev (d : DevNum) (f : Dev → Dev) : Engine → Engine :=
  modCommons fun c => { c with devs := mmod f c.devs d.toNat }
/-- Update the mailbox of a function. -/
def modMbx (h : Fn) (f : Mailbox → Mailbox) : Engine → Engine := modFn h fun x => { x with mbx := f x.mbx }
/-- The device bound to a number. -/
def Engine.dev? (e : Engine) (d : DevNum) : Option Dev := mget e.commons.devs d.toNat
/-- Apply a step to every element of a list, in order. -/
def forAll {α : Type} (l : List α) (f : α → Engine → Engine) (e : Engine) : Engine := l.foldl (fun e x => f x e) e
/-- Apply a step when a condition holds. -/
def whenE (c : Bool) (f : Engine → Engine) (e : Engine) : Engine := if c then f e else e

/-! ## Changes of a holding's conditions (R192, R228, R360) -/

/-- A change of a holding's active conditions from a former set, one change at a time (R192, R228, R360): a note waits on
CQ 0, which a completion may stand for only while the one change so far is of a single condition, the higher of the old
and the new code; COND_IEN asks for a message. -/
def noteChange (h : Fn) (before : BitVec 16) (e : Engine) : Engine :=
  let now := e.conds h
  if now = before then e
  else
    let d := (now ^^^ before).toNat / 2
    let single := decide (d = 2 ^ d.log2) && decide (d.log2 + 1 = max (condCode now) (condCode before))
    let has := mhas (e.hold h).cqs 0
    modFn h (fun x => { x with
      note := if has then some (x.note.isNone && single) else none, condDue := x.condDue || x.condIen }) e

/-- The engine after a command, with the notes that its changes of the holdings' active conditions ask for. -/
def noted (before after : Engine) : Engine := forAll (allFin 64) (fun h => noteChange h (before.conds h)) after

/-! ## The answers of commands -/

/-- A command whose effect lies in the engine. -/
def onEng (s : State) (f : Engine → Engine) : Answer := .next { s with eng := noted s.eng (f s.eng) }

/-- A command whose effect lies in the cores. -/
def onCores (s : State) (f : Cores → Cores) : Answer := .next { s with cores := f s.cores }

/-- A command whose effect lies in both. -/
def onBoth (s : State) (f : Engine → Cores → Engine × Cores) : Answer :=
  .next { s with eng := noted s.eng (f s.eng s.cores).1, cores := (f s.eng s.cores).2 }

/-! ## Counters (R395, R400) -/

/-- Advance counter `k` of a fixed block of 16. -/
def bumpAt (v : Vector Dword 16) (k : Nat) : Vector Dword 16 := vmod v (finOf 16 k) bump
/-- Device-wide counter of a port, by offset / 4. -/
def countPort (p : PortId) (k : Nat) : Engine → Engine := modPort p fun t => { t with cnt := bumpAt t.cnt k }
/-- Device-wide counter, by offset / 4. -/
def countDev (k : Nat) (e : Engine) : Engine := { e with cnt := bumpAt e.cnt k }
/-- A holding's counter for a port, by offset / 4. -/
def countHP (h : Fn) (p : PortId) (k : Nat) : Engine → Engine :=
  modFn h fun x => { x with counters := { x.counters with port := vmod x.counters.port p fun v => bumpAt v k } }
/-- A holding's device-wide counter, by offset / 4. -/
def countH (h : Fn) (k : Nat) : Engine → Engine :=
  modFn h fun x => { x with counters := { x.counters with wide := bumpAt x.counters.wide k } }

/-! ## The attention log (R222 to R224) -/

/-- Entries that a function's log holds (R222). -/
def attnCapacity (h : Fn) : Nat := if h.val = 0 then 1024 else 256

/-- Write an attention entry, or count it as lost when the log is full (R222, R224). -/
def attn (h : Fn) (kind : Nat) (object : DevNum := 0) (port : Nat := 0) (index : Dword := 0)
    (argument : Dword := 0) (commons : Bool := false) (e : Engine) : Engine :=
  modFn h (fun x =>
    if decide (attnCapacity h ≤ x.log.length) then { x with logLost := x.logLost + 1 }
    else
      { x with
        log := x.log ++ [{ seq := x.logNext, kind, commons, lost := x.logLost, etc := e.clk.etc,
                           epoch := e.clk.epoch, object, port, index, argument }]
        logNext := x.logNext + 1
        logLost := 0 }) e

/-- The PF. -/
abbrev pf : Fn := 0

/-- Holdings that exist. -/
def Engine.created (e : Engine) : List Fn := (allFin 64).filter fun h => (e.hold h).created

/-- An entry to every holding (R223). -/
def attnAll (kind : Nat) (index argument : Dword := 0) (commons : Bool := false) (e : Engine) : Engine :=
  forAll e.created (fun h => attn h kind (index := index) (argument := argument) (commons := commons)) e

/-- An entry to the PF and to the owner, once when they are the same (R223). -/
def attnOwner (owner : Fn) (kind : Nat) (object : DevNum := 0) (port : Nat := 0) (index : Dword := 0)
    (argument : Dword := 0) (e : Engine) : Engine :=
  whenE (owner != pf) (attn owner kind object port index argument) (attn pf kind object port index argument false e)

/-! ## Requests toward the host (R234, R351, R354) -/

/-- Append to the host stream. -/
def emitHost (o : HostOut) (e : Engine) : Engine := { e with out := { e.out with host := e.out.host ++ [o] } }
/-- Append to the wire stream. -/
def emitWire (o : WireOut) (e : Engine) : Engine := { e with out := { e.out with wire := e.out.wire ++ [o] } }
/-- Append to the yoke stream. -/
def emitYoke (o : YokeOut) (e : Engine) : Engine := { e with out := { e.out with yoke := e.out.yoke ++ [o] } }

/-- Cut `len` bytes at an address into requests of at most `m` bytes, none across a multiple of `m` (R349). -/
def splitReq (m : Nat) : Nat → Qword → Nat → List (Qword × Nat)
  | 0, _, _ => []
  | n + 1, a, len =>
    let k := m - a.toNat % m
    if len = 0 then []
    else if len ≤ k then [(a, len)]
    else (a, k) :: splitReq m n (a + BitVec.ofNat 64 k) (len - k)

/-- A write for a holding, in requests of at most Max_Payload_Size (R349); dropped and counted while its function is held
(R234), dropped when fenced. -/
def hostWrite (h : Fn) (addr : Qword) (data : List Byte) (relaxed : Bool := false) (e : Engine) : Engine :=
  if e.fw.fenced then e
  else if e.held h then countH h 8 e
  else
    forAll (splitReq (e.pfn h).mps (data.length + 1) addr data.length)
      (fun x => emitHost (.write h x.1 (slice (x.1 - addr).toNat x.2 data) relaxed)) e

/-- The read tags that a pool reserves for a requester (R25, R349). -/
def TagPool.tags : TagPool → Requester → Nat
  | .p768, .plots => 384 | .p768, .queues => 256 | .p768, .yoke => 32 | .p768, .saves => 64 | .p768, .cores => 32
  | .p256, .plots => 128 | .p256, .queues => 80 | .p256, .yoke => 16 | .p256, .saves => 16 | .p256, .cores => 16
  | .p32, .plots => 16 | .p32, .queues => 8 | .p32, .yoke => 4 | .p32, .saves => 2 | .p32, .cores => 2
  | _, _ => 0

/-- The requester of a read (R25). The alarm, completion and sheaf writers issue none: release words are read by the queue
engine (DESIGN CHOICE, log entry 44). -/
def readWho : ReadTag → Requester
  | .poll _ _ | .fetch _ _ | .release _ _ => .queues
  | .slot _ _ | .rows _ _ _ | .outSlot _ | .soloContext _ | .reapImage _ | .context _ | .outData _ => .plots
  | .tally | .settle | .probe _ _ => .yoke
  | .image _ => .cores
  | .save _ => .saves
  | .replant _ | .window _ | .hostCopy _ => .cores

/-- The tags that a requester holds. -/
def Engine.tagsHeld (e : Engine) (w : Requester) : Nat :=
  ((e.reads.filter fun r => r.who == w).map (·.tags)).sum

/-- Issue a waiting read on the free tags of its requester, its further requests following on the same tags (R25, log
entry 44). While its function is held no request goes out, and the read ends as a failed one (R234). -/
def sendRead (k : Nat) (e : Engine) : Engine :=
  match e.reads[k]? with
  | none => e
  | some r =>
    let off := e.held r.fn || e.fw.fenced
    let free := e.pcie.pool.tags r.who - e.tagsHeld r.who
    if r.sent || (!off && free == 0) then e
    else
      let r' := { r with sent := true, tags := if off then 0 else min free r.reqs.length }
      let e := { e with reads := e.reads.set k r' }
      if off then e else forAll r.reqs (fun x => emitHost (.read r.fn x.1 x.2 r.tag)) e

/-- Issue every waiting read for which a tag is free, oldest first (R25). -/
def pumpReads (e : Engine) : Engine := forAll (List.range e.reads.length) sendRead e

/-- Hand a read of several parts to the memory port, in requests of at most Max_Read_Request_Size (R349). -/
def readParts (h : Fn) (parts : List (Qword × Nat)) (tag : ReadTag) (e : Engine) : Engine :=
  let reqs := parts.flatMap fun x => splitReq (e.pfn h).mrrs (x.2 + 1) x.1 x.2
  pumpReads { e with reads := e.reads ++ [{ tag, who := readWho tag, fn := h, reqs, sent := false }] }

/-- Hand a read to the memory port. -/
def hostRead (h : Fn) (addr : Qword) (len : Nat) (tag : ReadTag) : Engine → Engine := readParts h [(addr, len)] tag

/-- The oldest issued read with a tag. -/
def Engine.read? (e : Engine) (tag : ReadTag) : Option HostRead := e.reads.find? fun r => r.sent && r.tag == tag

/-- A completion with a tag belongs to a read that is outstanding and wanted. -/
def Engine.reading (e : Engine) (tag : ReadTag) : Bool :=
  match e.read? tag with
  | some r => !r.dead
  | none => false

/-- The completion of the oldest issued read with a tag frees its read tags; reads that waited for one go out (R25). -/
def landRead (tag : ReadTag) (e : Engine) : Engine :=
  match e.read? tag with
  | some r => pumpReads { e with reads := e.reads.erase r }
  | none => e

/-- Take an outstanding read off the list: none when none is outstanding or wanted (R351). -/
def takeRead (tag : ReadTag) (e : Engine) : Option Engine :=
  if e.reading tag then some (landRead tag e) else none

/-- A completion that no work waits for is discarded (R197, R351). -/
def staleRead (tag : ReadTag) (e : Engine) : Engine := landRead tag e

/-- Reads whose work has gone: one that waits is taken back, an issued one is discarded when it completes (R197). -/
def forgetReads (q : ReadTag → Bool) (e : Engine) : Engine :=
  let kept := e.reads.filter fun r => r.sent || !q r.tag
  { e with reads := lmod (fun r => q r.tag) (fun r => { r with dead := true }) kept }

/-- The requests of a read that a command brings with it, its completions included (R154, R211, R250, R288): with the
function's Requester ID, none while it is held (R234, R349). -/
def readNow (h : Fn) (addr : Qword) (len : Nat) (tag : ReadTag) (e : Engine) : Engine :=
  if e.held h || e.fw.fenced then e
  else forAll (splitReq (e.pfn h).mrrs (len + 1) addr len) (fun x => emitHost (.read h x.1 x.2 tag)) e

/-- What a read brought, failed while the function is held (R234). -/
def brought {α : Type} (e : Engine) (h : Fn) (d : Option α) : Option α := if e.held h then none else d

/-- An MSI-X message (R194, R354); a masked vector sets its pending bit; discarded while the function is
held (R352, R367). -/
def msix (h : Fn) (v : Nat) (e : Engine) : Engine :=
  if e.held h || e.fw.fenced then e
  else if ((e.pfn h).vector v).masked then
    modPfn h (fun x => { x with msix := mput x.msix v { x.vector v with pending := true } }) e
  else emitHost (.msix h v) e

/-- A pulse on its way into the CIC (R303, R305). -/
def pulse (n : Nat) (e : Engine) : Engine := { e with pulses := e.pulses ++ [n] }

/-- A new handle of the model. -/
def newId (e : Engine) : Nat × Engine := (e.ids, { e with ids := e.ids + 1 })

/-- A free value (log entry 3), and the engine that has used it. -/
def freshValue (e : Engine) : Dword × Engine := (Config.freeValue e.free, { e with free := e.free + 1 })

/-! ## Frames -/

/-- The frame that the next row-0 boundary begins: the count advances by one (R100), or takes the senior's (R346). -/
def Engine.nextFrame (e : Engine) : BitVec 48 :=
  match e.clk.step with
  | some f => f
  | none => if e.clk.started then e.clk.frame + 1 else e.clk.frame

/-- The first frame whose headland follows now: G of R104, R115, R125, R247. -/
def Engine.nextG (e : Engine) : BitVec 48 :=
  if e.clk.headlandDone then e.nextFrame + 1 else e.nextFrame

/-- The frame that a log entry written now names. -/
def Engine.frame32 (e : Engine) : Dword := e.clk.frame.setWidth 32

/-! ## Reset accounts (R215, R243, R245) -/

/-- Add an outcome; beyond 65,536 the oldest folds into SUMMARY (R245). -/
def Account.add (a : Account) (o : Outcome) : Account :=
  let kept := a.kept ++ [o]
  if decide (65536 < kept.length) then { a with kept := kept.drop 1, next := a.next + 1, folded := a.folded + 1 }
  else { a with kept, next := a.next + 1 }

/-- The reset in progress of a function has a kind. -/
def FnState.resets (x : FnState) (k : ResetKind) : Bool :=
  match x.reset with
  | some r => r.kind == k
  | none => false

/-- Put an outcome in the function's reset account and count it for the reset in progress; outcomes of a VF that
went away are discarded and counted (R246). -/
def account (h : Fn) (o : Outcome) (e : Engine) : Engine :=
  if (e.fn h).resets .gone then countDev 4 e
  else modFn h (fun x => { x with
    account := x.account.add o, reset := x.reset.map fun r => { r with added := r.added + 1 } }) e

/-- Outcomes of the holding do not go to its CQs: an FLR, PE_PERST_N or the loss of its VF is in progress (R243,
R246). -/
def FnState.toAccount (x : FnState) : Bool := x.resets .flr || x.resets .perst || x.resets .gone

/-! ## Completions (R188 to R190) -/

/-- The CQ key of an SQ: an adopted SQ completes into the adopted CQ of its number (R276). -/
def cqKey (sqKey cq : Nat) : Nat := if 4096 ≤ sqKey then cq + 4096 else cq

/-- Queue a formed completion on a CQ. -/
def pushCompletion (h : Fn) (cq : Nat) (c : Completion) : Engine → Engine :=
  modCq h cq fun q => { q with queue := q.queue ++ [c] }

/-- The outcome that a batch record adds to a reset account (R243). -/
def BatchRec.outcome (sq : Nat) (b : BatchRec) : Outcome :=
  { tag := b.tag, bytes := b.bytes, sq := sq % 4096, status := b.status.getD 0, unit := b.unit }

/-- The completions of a closed batch: one for all when every entry ended with 0x00 (R188), else one each
(R189). -/
def batchCompletions (sq : Nat) (b : List BatchRec) : List Completion :=
  match b.getLast? with
  | none => []
  | some l =>
    if b.all (fun r => r.status == some 0) then
      [{ status := 0, sq := sq % 4096, index := l.unit % 65536, count := b.length,
         dword2 := BitVec.ofNat 32 (b.map (·.bytes)).sum, tag := l.tag, batch := decide (1 < b.length),
         interrupt := b.any (·.interrupt), covers := b.map (·.order), recs := b.map (BatchRec.outcome sq) }]
    else
      b.map fun r =>
        { status := r.status.getD 0, sq := sq % 4096, index := r.unit % 65536, count := 1,
          dword2 := BitVec.ofNat 32 r.bytes, tag := r.tag, interrupt := r.interrupt, covers := [r.order],
          recs := [r.outcome sq] }

/-- Place a closed batch: completions, or outcomes in the account (R243). -/
def placeBatch (h : Fn) (sqKey : Nat) (cq : Nat) (b : List BatchRec) (e : Engine) : Engine :=
  if (e.fn h).toAccount then forAll b (fun r => account h (r.outcome sqKey)) e
  else forAll (batchCompletions sqKey b) (pushCompletion h (cqKey sqKey cq)) e

/-- The first batch of a list of started entries, up to COMPLETE or 65,535 entries, and the rest (R188, R190). -/
def splitBatch : Nat → List BatchRec → Option (List BatchRec × List BatchRec)
  | _, [] => none
  | 0, _ => none
  | n + 1, r :: rest =>
    if r.complete || n = 0 then some ([r], rest)
    else (splitBatch n rest).map fun x => (r :: x.1, x.2)

/-- A batch in the middle of the list can close before an earlier one: batches close in the order in which
their last entry finishes (R189). Close each complete batch of the list. -/
def splitAll : Nat → List BatchRec → List (List BatchRec)
  | 0, l => [l]
  | k + 1, l =>
    match splitBatch 65535 l with
    | none => if l.isEmpty then [] else [l]
    | some (b, rest) => b :: splitAll k rest

/-- Whether a run of records is a whole batch whose entries have all finished. -/
def batchDone (b : List BatchRec) : Bool :=
  b.all (·.status.isSome) && (match b.getLast? with | some l => l.complete | none => false)

/-- Close every batch of an SQ whose entries have all finished (R188). -/
def sweepBatches (h : Fn) (n : Nat) (e : Engine) : Engine :=
  match mget (e.hold h).sqs n with
  | none => e
  | some q =>
    let probing := match mget (e.hold h).cqs (cqKey n q.par.cq) with | some c => c.probing | none => false
    if probing then e
    else
    let bs := splitAll q.batch.length q.batch
    let fin := bs.filter fun b => batchDone b || (b.all (·.status.isSome) && b.length == 65535)
    let left := bs.filter fun b => !(batchDone b || (b.all (·.status.isSome) && b.length == 65535))
    forAll fin (placeBatch h n q.par.cq) (modSq h n (fun q => { q with batch := left.flatten }) e)

/-- Record an entry's outcome, by the entry's order, and close the batch that this finishes (R188, R189). -/
def finishEntry (h : Fn) (n : Nat) (order : Dword) (status : Byte) (bytes : Nat) (e : Engine) : Engine :=
  sweepBatches h n (modSq h n (fun q => { q with
    batch := lmod (fun r => r.order == order && r.status.isNone)
      (fun r => { r with status := some status, bytes := bytes }) q.batch }) e)

/-! ## Admin replies (R204, R205, R209, R227) -/

/-- Whether a command is of class A (R210, R211, R213, R214, R216, R217). -/
def classA (c : BitVec 512) : Bool :=
  match cOp c with
  | 0x20 => cf c 32 0 8 == 2
  | 0x22 => cf c 38 0 8 == 3 || cf c 38 0 8 == 7
  | 0x29 => cf c 34 0 1 == 1
  | op => [0x02, 0x04, 0x05, 0x06, 0x07, 0x0A, 0x13, 0x18, 0x19, 0x1A, 0x1B, 0x1C, 0x23, 0x30, 0x31, 0x33,
           0x36, 0x50, 0x5F].contains op

/-- Record an apply-once outcome; the last 64 are kept (R227). -/
def recordOnce (f : Fn) (c : BitVec 512) (status : Byte) (dword2 : Dword) (e : Engine) : Engine :=
  if classA c && cOnce c then
    modFn f (fun x =>
      let l := x.applied ++ [{ tag := cTag c, opcode := cOp c, status, dword2 }]
      { x with applied := l.drop (l.length - 64) }) e
  else e

/-- The response of the mailbox: MBX_RSP in the layout of R205, BUSY cleared, DONE, SEQ and STATUS set (R204). -/
def mailboxReply (f : Fn) (c : BitVec 512) (status : Byte) (dword2 : Dword) (data : List Byte) (wake : Bool)
    (e : Engine) : Engine :=
  let d0 := 1 + 2 * e.condOf f + 128 * b2n wake + 256 * status.toNat
  let body := leBytes 4 d0 ++ leBytes 4 65536 ++ wordBytes dword2 ++ wordBytes (cTag c) ++ data.take 48
  whenE (e.fn f).mbxIen (msix f 0) (modMbx f (fun m => { m with
    rsp := BitVec.ofNat 512 (leNat body), latched := none, taken := false, busy := false, done := true,
    status, seq := m.seq + 1 }) e)

/-- Write response data to the response buffer, cut at the response length (R200). -/
def writeResponse (f : Fn) (c : BitVec 512) (data : List Byte) (e : Engine) : Engine :=
  let d := data.take (cRespLen c)
  if cRespAddr c = 0 || d.isEmpty then e else hostWrite f (cRespAddr c) d false e

/-- Put an admin outcome where it goes: MBX_RSP or CQ 0 (R204, R209), or the reset account (R243). -/
def reply (src : AdminSrc) (c : BitVec 512) (status : Byte) (dword2 : Dword) (data : List Byte)
    (wake : Bool) (e : Engine) : Engine :=
  let f := src.fn
  let e := writeResponse f c data e
  match src with
  | .mailbox _ => mailboxReply f c status dword2 data wake e
  | .queue _ unit =>
    if (e.fn f).toAccount then account f { tag := cTag c, bytes := 0, sq := 0, status, unit } e
    else pushCompletion f 0
      { status, sq := 0, index := unit % 65536, count := 1, dword2, tag := cTag c, wakeCoincided := wake,
        interrupt := cInterrupt c, covers := [0]
        recs := [{ tag := cTag c, bytes := 0, sq := 0, status, unit }] } e

/-- Finish a command: record it if apply-once (R227), then reply. -/
def finish (src : AdminSrc) (c : BitVec 512) (status : Byte) (dword2 : Dword := 0) (data : List Byte := [])
    (wake : Bool := false) (e : Engine) : Engine :=
  reply src c status dword2 data wake (recordOnce src.fn c status dword2 e)

/-- The running command that a predicate of its wait selects, and whose wait has not ended. -/
def Engine.waiting (e : Engine) (p : Running → Bool) : Option Running :=
  e.fw.running.find? fun r => r.due.isNone && p r

/-- The end of a mailbox command whose response a reset discards (R206, R243): its outcome goes to the reset account, and a
mailbox that is kept is free again. -/
def endDiscarded (r : Running) (kept : Bool) (status : Byte) (dword2 : Dword) (e : Engine) : Engine :=
  let e := recordOnce r.src.fn r.cmd status dword2 e
  let e := account r.src.fn { tag := cTag r.cmd, bytes := 0, sq := 0xFFF, status, unit := 0 } e
  whenE kept (modMbx r.src.fn fun m => { m with latched := none, taken := false, busy := false }) e

/-- Finish a running command; while firmware restarts its outcome is kept for the restart's end (R225). -/
def endCommand (r : Running) (status : Byte) (dword2 : Dword) (data : List Byte) (wake : Bool) (e : Engine) : Engine :=
  if e.fw.restarting then
    { e with fw := { e.fw with
      running := lmod (· == r) (fun x => { x with due := some (status, dword2, data, wake) }) e.fw.running } }
  else
    let e := { e with fw := { e.fw with running := e.fw.running.erase r } }
    match r.discard with
    | some kept => endDiscarded r kept status dword2 e
    | none => finish r.src r.cmd status dword2 data wake e

/-- Finish the first running command that a predicate selects (R218). -/
def finishWaiting (p : Running → Bool) (status : Byte) (dword2 : Dword := 0) (data : List Byte := [])
    (wake : Bool := false) (e : Engine) : Engine :=
  match e.waiting p with
  | none => e
  | some r => endCommand r status dword2 data wake e

/-- ASSIGN DEVICE completes once the items and REAPs that it waits for have ended (R236). -/
def sweepAssign (e : Engine) : Engine :=
  let past (r : Running) : Bool :=
    match r.wait with
    | .assign _ items staged =>
      (items.all fun i => !(e.items.any fun x => x.id == i && x.jr.status.isNone))
        && staged.all fun i => !(e.staged.any fun x => x.id == i)
    | _ => false
  match e.waiting past with
  | none => e
  | some r =>
    let d := match r.wait with | .assign (some d) _ _ => d.setWidth 32 | _ => 0
    finishWaiting (· == r) 0x80 (dword2 := d) (e := e)

/-! ## Context cache (R14, R28) -/

/-- The plot of a holding whose slice holds a context index (R233). -/
def Engine.plotOf (e : Engine) (h : Fn) (i : Nat) : Option PlotId :=
  (e.plotsOf h).find? fun p => decide ((e.plot p).base ≤ i) && decide (i < (e.plot p).base + (e.plot p).count)

/-- The context index that INSTALL recorded for an endpoint (R184). -/
def Holding.ctxIndex (x : Holding) (d : DevNum) (ep : EpNum) : Option Nat :=
  (x.ctxOf.find? fun y => y.1 == (d, ep)).map (·.2)

/-- Address of a context in the table (R212). -/
def Holding.ctxAddr (x : Holding) (i : Nat) : Qword := x.ctxBase + BitVec.ofNat 64 (32 * i)

/-- The cached copy of a context, also in a plot that is being removed from the holding (R17). -/
def Engine.ctxLine (e : Engine) (h : Fn) (i : Nat) : Option CtxLine :=
  (e.plots.toList.filter (·.holding == h)).findSome? fun p => mget p.cache i

/-- Put a context in the cache of a plot. -/
def cacheCtx (p : PlotId) (i : Nat) (c : CtxLine) : Engine → Engine :=
  modPlot p fun x => { x with cache := mput x.cache i c }

/-- Change a cached context, wherever one of the holding's plots caches it; the copy becomes dirty (R62). -/
def setCtx (h : Fn) (i : Nat) (f : BitVec 256 → BitVec 256) (e : Engine) : Engine :=
  { e with plots := e.plots.map fun p =>
      if p.holding == h && mhas p.cache i then
        { p with cache := mmod (fun l => { raw := f l.raw, dirty := true }) p.cache i } else p }

/-- Write a cached context back if it is dirty (R28). -/
def writeBack (h : Fn) (i : Nat) (e : Engine) : Engine :=
  match e.ctxLine h i with
  | none => e
  | some l =>
    if !l.dirty || e.held h then e
    else
      let e := hostWrite h ((e.hold h).ctxAddr i) (wordBytes l.raw) false e
      { e with
        items := lmod (fun x => x.jr.holding == h && x.jr.dev == ctxDev l.raw && x.jr.ep == ctxEp l.raw)
          (fun x => { x with wb := if e.yoke.yoked then .written else .settled }) e.items
        plots := e.plots.map fun p =>
          if p.holding == h then { p with cache := mmod (fun l => { l with dirty := false }) p.cache i } else p }

/-- Indices of a holding's cached contexts. -/
def Engine.cachedOf (e : Engine) (h : Fn) : List Nat :=
  (e.plots.toList.filter (·.holding == h)).flatMap fun p => p.cache.map (·.1)

/-- Write back every cached context of a holding (R28, R248). -/
def writeBackAll (h : Fn) (e : Engine) : Engine := forAll (e.cachedOf h) (writeBack h) e

/-- Drop every cached context of a holding (R244). -/
def dropCache (h : Fn) (e : Engine) : Engine :=
  { e with plots := e.plots.map fun p => if p.holding == h then { p with cache := [] } else p }

/-! ## Rings -/

/-- Advance a position in a ring of `size` by `n`, inverting the phase at the end. -/
def ringAdv (r : RingPos) (n size : Nat) : RingPos :=
  if r.at_ + n < size then { r with at_ := r.at_ + n } else { at_ := r.at_ + n - size, phase := !r.phase }


/-- A release word, if it is well formed for a ring of `size` with positions that are multiples of `unit`
(R151, R165, R193). -/
def releaseOf (w : Qword) (size unit : Nat) : Option RingPos :=
  if fldN w 33 31 = 0 && decide (fldN w 0 32 < size) && fldN w 0 32 % unit == 0 then
    some { at_ := fldN w 0 32, phase := bitOf w 32 }
  else none

/-! ## Yoke messages -/

/-- Send over the yoke link when the controller is yoked with the link up (R265, R266). -/
def toPartner (o : YokeOut) (e : Engine) : Engine :=
  whenE (e.yoke.yoked && e.yoke.link == .up) (emitYoke o) e

/-- A change of a journal record goes to the partner (R260), a record in its layout (R261). -/
def journal (r : JournalRecord) : Engine → Engine :=
  toPartner (match r with
    | .position p => .journal (posBytes p)
    | .periodic p => .journal (periodicBytes p)
    | .item i => .journal (itemBytes i)
    | .periodicFree .. => .journalFree r
    | .itemFree .. => .journalFree r)

/-- A shadow record for the partner (R265). -/
def shadow (r : ShadowRecord) : Engine → Engine := toPartner (.shadow r)

/-- A commons change for the partner (R265). -/
def mirror (c : CommonsChange) : Engine → Engine := toPartner (.commons c)

end Sys2Proof.Machine
end

