-- ==== Sys2Proof/Machine/Clock.lean ====
section
/-! DEFINITION. The tick that passes when no command waits (log entry 1), and FRAME and ETC time. -/

namespace Sys2Proof.Machine

/-- A clock domain runs (R342): CCLK and TCLK are off in FALLOW, and in DORMANT every domain but ACLK and, until L2, HCLK; the
exit from DORMANT brings them back as their PLLs lock (R335). PCLK and LCLKn run in FALLOW for the blocks that are on (R340). -/
def Engine.domainRuns (e : Engine) (d : Pll) : Bool :=
  pllLocked d e.clk && (match e.pwr.chip, d with
    | .fallow, .cclk | .fallow, .tclk => false
    | .dormant, .pclk | .dormant, .lclk | .dormant, .bclk | .dormant, .cclk | .dormant, .tclk => e.pwr.exiting
    | _, _ => true)

/-- One tick of the clock that the ETC counts: 4 ns of BCLK while it runs and is locked, 40 ns of ACLK
otherwise (R343); the frame timer's place in the row moves with BCLK (R100). -/
def tickEng (e : Engine) : Engine :=
  let run := e.domainRuns .bclk
  { e with clk := { e.clk with
      etc := e.clk.etc + (if run then 4 else 40)
      rowNs := if run && e.clk.timerOn then e.clk.rowNs + 4 else e.clk.rowNs } }

/-- The tick on the whole state. -/
def tick (s : State) : State := { s with eng := tickEng s.eng }

end Sys2Proof.Machine
end

