-- ==== Sys2Proof/Machine/Crypto.lean ====
section
/-! DEFINITION. SHA-256 and the check of an ECDSA signature on the curve P-256, which R249, R287 and R389 name: the standards
that those names stand for, FIPS 180-4 and FIPS 186-4 (PRESUMED, log entry 5). -/

namespace Sys2Proof.Machine

/-- A number of big-endian bytes. -/
def bigEndian (bs : List Byte) : Nat := bs.foldl (fun n b => 256 * n + b.toNat) 0

/-! ## SHA-256 -/

/-- Constants of rounds 0 to 15. -/
def shaK0 : List Dword :=
  [0x428a2f98, 0x71374491, 0xb5c0fbcf, 0xe9b5dba5,
   0x3956c25b, 0x59f111f1, 0x923f82a4, 0xab1c5ed5,
   0xd807aa98, 0x12835b01, 0x243185be, 0x550c7dc3,
   0x72be5d74, 0x80deb1fe, 0x9bdc06a7, 0xc19bf174]

/-- Constants of rounds 16 to 31. -/
def shaK1 : List Dword :=
  [0xe49b69c1, 0xefbe4786, 0x0fc19dc6, 0x240ca1cc,
   0x2de92c6f, 0x4a7484aa, 0x5cb0a9dc, 0x76f988da,
   0x983e5152, 0xa831c66d, 0xb00327c8, 0xbf597fc7,
   0xc6e00bf3, 0xd5a79147, 0x06ca6351, 0x14292967]

/-- Constants of rounds 32 to 47. -/
def shaK2 : List Dword :=
  [0x27b70a85, 0x2e1b2138, 0x4d2c6dfc, 0x53380d13,
   0x650a7354, 0x766a0abb, 0x81c2c92e, 0x92722c85,
   0xa2bfe8a1, 0xa81a664b, 0xc24b8b70, 0xc76c51a3,
   0xd192e819, 0xd6990624, 0xf40e3585, 0x106aa070]

/-- Constants of rounds 48 to 63. -/
def shaK3 : List Dword :=
  [0x19a4c116, 0x1e376c08, 0x2748774c, 0x34b0bcb5,
   0x391c0cb3, 0x4ed8aa4a, 0x5b9cca4f, 0x682e6ff3,
   0x748f82ee, 0x78a5636f, 0x84c87814, 0x8cc70208,
   0x90befffa, 0xa4506ceb, 0xbef9a3f7, 0xc67178f2]

/-- The constants of the 64 rounds. -/
def shaK : List Dword := shaK0 ++ shaK1 ++ shaK2 ++ shaK3

/-- The eight working words of SHA-256. -/
structure Sha where
  a : Dword
  b : Dword
  c : Dword
  d : Dword
  e : Dword
  f : Dword
  g : Dword
  h : Dword
  deriving DecidableEq, Repr

/-- The initial hash value. -/
def shaInit : Sha :=
  { a := 0x6a09e667, b := 0xbb67ae85, c := 0x3c6ef372, d := 0xa54ff53a, e := 0x510e527f, f := 0x9b05688c, g := 0x1f83d9ab, h := 0x5be0cd19 }

/-- One word of the message schedule more; the schedule is kept newest first. -/
def shaExtend (w : List Dword) : List Dword :=
  let at_ (k : Nat) : Dword := (w[k - 1]?).getD 0
  let x := at_ 15
  let y := at_ 2
  let s0 := x.rotateRight 7 ^^^ x.rotateRight 18 ^^^ (x >>> 3)
  let s1 := y.rotateRight 17 ^^^ y.rotateRight 19 ^^^ (y >>> 10)
  (s1 + at_ 7 + s0 + at_ 16) :: w

/-- The 64 words of the message schedule of a block of 64 bytes. -/
def shaSchedule (block : List Byte) : List Dword :=
  let first := (List.range 16).map fun k => (BitVec.ofNat 32 (bigEndian ((block.drop (4 * k)).take 4)) : Dword)
  ((List.range 48).foldl (fun w _ => shaExtend w) first.reverse).reverse

/-- One round, with its constant and its schedule word. -/
def shaRound (x : Sha) (kw : Dword × Dword) : Sha :=
  let s1 := x.e.rotateRight 6 ^^^ x.e.rotateRight 11 ^^^ x.e.rotateRight 25
  let ch := (x.e &&& x.f) ^^^ (~~~x.e &&& x.g)
  let t1 := x.h + s1 + ch + kw.1 + kw.2
  let s0 := x.a.rotateRight 2 ^^^ x.a.rotateRight 13 ^^^ x.a.rotateRight 22
  let maj := (x.a &&& x.b) ^^^ (x.a &&& x.c) ^^^ (x.b &&& x.c)
  { a := t1 + (s0 + maj), b := x.a, c := x.b, d := x.c, e := x.d + t1, f := x.e, g := x.f, h := x.g }

/-- The compression of one block. -/
def shaBlock (x : Sha) (block : List Byte) : Sha :=
  let y := (shaK.zip (shaSchedule block)).foldl shaRound x
  { a := x.a + y.a, b := x.b + y.b, c := x.c + y.c, d := x.d + y.d
    e := x.e + y.e, f := x.f + y.f, g := x.g + y.g, h := x.h + y.h }

/-- A message with its padding and its length in bits. -/
def shaPad (bs : List Byte) : List Byte :=
  bs ++ [0x80] ++ List.replicate ((119 - bs.length % 64) % 64) 0 ++ (leBytes 8 (8 * bs.length)).reverse

/-- The hash value after the blocks of a padded message, `n` of them. -/
def shaBlocks : Nat → List Byte → Sha → Sha
  | 0, _, x => x
  | n + 1, bs, x => shaBlocks n (bs.drop 64) (shaBlock x (bs.take 64))

/-- The SHA-256 digest of bytes, its first byte highest. -/
def sha256 (bs : List Byte) : BitVec 256 :=
  let m := shaPad bs
  let x := shaBlocks (m.length / 64) m shaInit
  x.a ++ x.b ++ x.c ++ x.d ++ x.e ++ x.f ++ x.g ++ x.h

/-! ## ECDSA on P-256 -/

/-- The field's prime. -/
def p256p : Nat := 0xffffffff00000001000000000000000000000000ffffffffffffffffffffffff
/-- The order of the base point. -/
def p256n : Nat := 0xffffffff00000000ffffffffffffffffbce6faada7179e84f3b9cac2fc632551
/-- The coefficient b of the curve; a is -3. -/
def p256b : Nat := 0x5ac635d8aa3a93e7b3ebbd55769886bc651d06b0cc53b0f63bce3c3e27d2604b
/-- The base point's x. -/
def p256x : Nat := 0x6b17d1f2e12c4247f8bce6e563a440f277037d812deb33a0f4a13945d898c296
/-- The base point's y. -/
def p256y : Nat := 0x4fe342e2fe1a7f9b8ee7eb4a7c0f9e162bce33576b315ececbb6406837bf51f5

/-- A power modulo `m`, its exponent below 2^256. -/
def powMod (m b k : Nat) : Nat :=
  (List.range 256).foldr (fun i r => if k.testBit i then r * r % m * b % m else r * r % m) 1

/-- Subtraction in the field. -/
def fsub (a b : Nat) : Nat := (a + p256p - b % p256p) % p256p

/-- A point (x / z^2, y / z^3); z = 0 is the point at infinity. -/
structure CurvePoint where
  x : Nat
  y : Nat
  z : Nat
  deriving DecidableEq, Repr

/-- Twice a point. -/
def CurvePoint.double (q : CurvePoint) : CurvePoint :=
  let z2 := q.z * q.z % p256p
  let y2 := q.y * q.y % p256p
  let b := q.x * y2 % p256p
  let a := 3 * (fsub q.x z2 * (q.x + z2)) % p256p
  let x := fsub (a * a) (8 * b)
  { x, y := fsub (a * fsub (4 * b) x) (8 * y2 * y2), z := fsub ((q.y + q.z) * (q.y + q.z)) (y2 + z2) }

/-- The sum of two points. -/
def CurvePoint.plus (p q : CurvePoint) : CurvePoint :=
  let zp := p.z * p.z % p256p
  let zq := q.z * q.z % p256p
  let u := p.x * zq % p256p
  let s := p.y * q.z % p256p * zq % p256p
  let h := fsub (q.x * zp) u
  let r := fsub (q.y * p.z % p256p * zp) s
  if p.z = 0 then q
  else if q.z = 0 then p
  else if h = 0 then (if r = 0 then p.double else { x := 1, y := 1, z := 0 })
  else
    let h2 := h * h % p256p
    let h3 := h * h2 % p256p
    let v := u * h2 % p256p
    let x := fsub (r * r) (h3 + 2 * v)
    { x, y := fsub (r * fsub v x) (s * h3), z := p.z * q.z % p256p * h % p256p }

/-- A multiple of a point, the factor below 2^256. -/
def CurvePoint.times (q : CurvePoint) (k : Nat) : CurvePoint :=
  (List.range 256).foldr (fun i r => if k.testBit i then r.double.plus q else r.double) { x := 1, y := 1, z := 0 }

/-- An affine pair lies on the curve. -/
def onCurve (x y : Nat) : Bool :=
  decide (x < p256p) && decide (y < p256p)
    && y * y % p256p == fsub (x * x % p256p * x + p256b) (3 * x)

/-- An ECDSA P-256 signature, r then s as 32 big-endian bytes each, of the SHA-256 digest of bytes verifies against a public
key (R287, R389). The key's 64 bytes, the first in its lowest bits, are x then y, big-endian (DESIGN CHOICE, log entry 5). -/
def signatureValid (key : BitVec 512) (signed signature : List Byte) : Bool :=
  let r := bigEndian (signature.take 32)
  let s := bigEndian ((signature.drop 32).take 32)
  let kb := leBytes 64 key.toNat
  let x := bigEndian (kb.take 32)
  let y := bigEndian (kb.drop 32)
  let z := (sha256 signed).toNat
  let w := powMod p256n s (p256n - 2)
  let q := (CurvePoint.times { x := p256x, y := p256y, z := 1 } (z * w % p256n)).plus
    (CurvePoint.times { x, y, z := 1 } (r * w % p256n))
  let affine := q.x * powMod p256p (q.z * q.z % p256p) (p256p - 2) % p256p
  decide (signature.length = 64) && decide (0 < r) && decide (r < p256n) && decide (0 < s) && decide (s < p256n)
    && onCurve x y && q.z != 0 && affine % p256n == r

end Sys2Proof.Machine
end

