-- ==== Sys2Proof/Machine/WakeOps.lean ====
section
/-! DEFINITION. Parts of the power manager (12_power_time.md) that other operations call: the start of an exit sequence
(R328, R333 to R335), and the preparation's wait for started items (R325). -/

namespace Sys2Proof.Machine

/-- WAKE_SRC of a wake (R341). -/
def wakeCode : WakeSrc → Nat
  | .source n => n.val
  | .timer => 0xFD
  | .mailbox => 0xFE

/-- Strips with a plot that is not powered (R337). -/
def Engine.darkStrips (e : Engine) : List Nat :=
  (List.range 17).filter fun s => (allFin 272).any fun p => p.val / 16 == s && !(e.plot p).powered

/-- The governor's steps of an exit (R334, R335, R337): from DORMANT the other VDD blocks first; the plots by strips; the
SerDes of the ports that are powered and were not watched. -/
def Engine.exitSteps (e : Engine) : List GovStep :=
  let blocks : List Nat := [0x10, 0x11, 0x12, 0x60, 0x61, 0x62, 0x88, 0x89, 0x90, 0x98, 0xA0]
  (if e.pwr.chip == .dormant then blocks.map GovStep.block else [])
    ++ e.darkStrips.map GovStep.plots
    ++ ((allFin 32).filter fun p => (e.port p).rh.power && !(e.port p).link.serdes).map GovStep.serdes

/-- What a wake event shows the host: with the link in L2 PE_WAKE_N goes low (R332); with it up and the PF in D3hot PM_PME is
sent (R352). -/
def signalWake (e : Engine) : Engine :=
  whenE (e.pcie.link == .l0 && (e.pfn pf).d3) (emitHost .pme)
    { e with pins := { e.pins with peWake := e.pins.peWake || e.pcie.link == .l2 } }

/-- The exit sequence starts (R334, R335, R337). -/
def startExit (src : WakeSrc) (e : Engine) : Engine :=
  { e with pwr := { e.pwr with
    exiting := true, leaving := e.pwr.chip, wakeSrc := wakeCode src, gov := e.exitSteps ++ e.pwr.gov } }

/-- A wake event in FALLOW or DORMANT starts the exit (R333); during the entry sequence the watcher holds it (R328). -/
def startWake (src : WakeSrc) (e : Engine) : Engine :=
  if e.pwr.chip == .active || e.pwr.exiting then e
  else if e.pwr.entering then
    if e.pwr.pendedWake.isSome then e else signalWake { e with pwr := { e.pwr with pendedWake := some src } }
  else startExit src (signalWake e)

/-- The preparation of R325 goes on once no started item remains: the user cores are asked to sleep (R326). -/
def sweepPrep (e : Engine) : Engine :=
  if e.pwr.prepDrain && e.items.all (fun i => i.jr.status.isSome) then
    { e with pwr := { e.pwr with prepDrain := false, sleep := true } }
  else e

end Sys2Proof.Machine
end

