-- ==== Sys2Proof/Machine/QueueOps.lean ====
section
/-! DEFINITION. Operations on SQs, CQs and started entries that the queue, bus and holding commands share:
fetching, discarding, the head mirror, starting and ending an item, writing a completion. -/

namespace Sys2Proof.Machine

/-- Polling stands still: the chip is not ACTIVE, firmware has stopped it for a power state or a controller
reset (R182, R325, R218). -/
def Engine.pollsOff (e : Engine) : Bool :=
  !e.live || e.pwr.chip != .active || e.pwr.prep.isSome || e.pwr.held.isSome || e.pwr.entering || e.fw.resetComing

/-- The queue engine takes and starts entries of the holding: it is not in reset or frozen (R241, R247). -/
def Engine.queueOn (e : Engine) (h : Fn) : Bool :=
  !e.pollsOff && (e.fn h).reset.isNone && !(match (e.hold h).freeze with | some z => z.reached | none => false)

/-- Units of the cache share in use (R182). -/
def Sq.cachedUnits (q : Sq) : Nat := (q.cached.map fun c => c.units.length).sum

/-- The expected phase at a unit before the next unseen position, within one lap (R176). -/
def Sq.phaseAt (q : Sq) (u : Nat) : Bool := if u < q.next.at_ then q.next.phase else !q.next.phase

/-- Units that an entry at `u` takes in a ring: one that runs past the end takes the units up to it (R175). -/
def Sq.clip (q : Sq) (u n : Nat) : Nat := min n (q.par.size - u)

/-- Whether a CQ has a free slot for one more entry (R183). -/
def Engine.cqRoom (e : Engine) (h : Fn) (sqKey : Nat) (q : Sq) : Bool :=
  match mget (e.hold h).cqs (cqKey sqKey q.par.cq) with
  | none => false
  | some c => decide (1 ≤ c.free (cqKey sqKey q.par.cq))

/-- Issue the next fetch read of an SQ, if one is due (R182); a PAD needs no room in the CQ (R183). -/
def fetchIssue (h : Fn) (n : Nat) (e : Engine) : Engine :=
  match mget (e.hold h).sqs n with
  | none => e
  | some q =>
    match q.seen with
    | [] => e
    | (u, c, pad) :: _ =>
      let len := min 16 (min (16 - q.cachedUnits) (q.par.size - u))
      if q.fetching.isSome || !q.refetch.isEmpty || q.state != .enabled || !e.queueOn h || decide (len < c) || len = 0
          || !(pad || e.cqRoom h n q) then e
      else
        hostRead h (q.par.base + BitVec.ofNat 64 (32 * u)) (32 * len) (.fetch h n)
          (modSq h n (fun q => { q with fetching := some (u, len) }) e)

/-- A CQ has room again: the fetches that waited for it go on (R182, R183). -/
def fetchCq (h : Fn) (n : Nat) (e : Engine) : Engine :=
  forAll (e.hold h).sqs (fun x e => if cqKey x.1 x.2.par.cq = n then fetchIssue h x.1 e else e) e

/-- The 8 bytes of the head mirror (R179). -/
def Sq.mirrorBytes (q : Sq) : List Byte := leBytes 4 (ringForm q.head) ++ wordBytes q.started

/-- A position record for the journal of the partner (R260, R261). -/
def journalSq (h : Fn) (n : Nat) (q : Sq) : Engine → Engine :=
  journal (.position { kind := .sq, holding := h, num := n, issued := q.head, settled := q.mirror,
                                   sequence := 0 })

/-- Write the head mirror (R179). -/
def writeMirror (h : Fn) (n : Nat) (e : Engine) : Engine :=
  match mget (e.hold h).sqs n with
  | none => e
  | some q =>
    let q' := { q with sinceMirror := 0, mirrorDue := false, mirror := q.head }
    journalSq h n q' (hostWrite h q.par.headMirror q.mirrorBytes false (modSq h n (fun _ => q') e))

/-- The discard of R197: cached entries are dropped with their reservations, outstanding reads forgotten, the
open batch closed, and polling set to resume at the published head. -/
def discard (h : Fn) (n : Nat) (e : Engine) : Engine :=
  match mget (e.hold h).sqs n with
  | none => e
  | some q =>
    let back := (q.cached.filter fun c => (c.units.head?.map eOpcode) != some 0).length
    let batch := match q.batch.getLast? with
      | none => []
      | some l => q.batch.dropLast ++ [{ l with complete := true }]
    let e := forgetReads (fun t => t == .poll h n || t == .fetch h n) e
    let e := modSq h n (fun q => { q with
      cached := [], seen := [], next := q.head, polling := [], fetching := none, batch := batch }) e
    let e := modCq h (cqKey n q.par.cq) (fun c => { c with reserved := c.reserved - back }) e
    fetchCq h (cqKey n q.par.cq) (sweepBatches h n e)

/-- A failed poll or fetch read (R196): discard, DISABLED, head mirror, queue-fault entry. -/
def queueFault (h : Fn) (n unit : Nat) (e : Engine) : Engine :=
  attn h 0x20 (index := BitVec.ofNat 32 n) (argument := BitVec.ofNat 32 unit)
    (e := writeMirror h n (modSq h n (fun q => { q with state := .disabled }) (discard h n e)))

/-! ## Items -/

/-- The item with a handle. -/
def Engine.item? (e : Engine) (id : Nat) : Option Item := e.items.find? (·.id == id)

/-- Update an item. -/
def modItem (id : Nat) (f : Item → Item) (e : Engine) : Engine :=
  { e with items := lmod (·.id == id) f e.items }

/-- The item is started and its status undecided. -/
def Item.active (i : Item) : Bool := i.jr.status.isNone

/-- The entry is active on its device: a token of it has left, or the runner has it (R85, R95). -/
def Item.begun (i : Item) : Bool := i.sent || i.phase == .outstanding || i.phase == .relayed

/-- The active items of a holding for an endpoint, in start order (R184). -/
def Engine.itemsFor (e : Engine) (h : Fn) (d : DevNum) (ep : EpNum) : List Item :=
  e.items.filter fun i => i.active && i.jr.holding == h && i.jr.dev == d && i.jr.ep == ep

/-- Send an item record's change to the partner (R260). -/
def journalItem (i : Item) : Engine → Engine :=
  journal (.item { i.jr with outstanding := i.phase == .outstanding })

/-- The root port of a device. -/
def Engine.rootOf (e : Engine) (d : DevNum) : Option PortId := (e.dev? d).map (·.root)

/-- Leadership seen from a device: of the nearest dual-upstream hub at or above it, else of its root port. -/
def Engine.leadsAt (e : Engine) : Nat → DevNum → Bool
  | 0, _ => false
  | n + 1, d =>
    match e.dev? d with
    | none => false
    | some v =>
      match v.hub with
      | some u =>
        if u.dual then u.leads
        else match v.pos with | .root p => (e.port p).leads | .hubPort hub _ => Engine.leadsAt e n hub
      | none => match v.pos with | .root p => (e.port p).leads | .hubPort hub _ => Engine.leadsAt e n hub

/-- This controller runs the work of a device (R266, R267). -/
def Engine.runsDev (e : Engine) (d : DevNum) : Bool :=
  match e.rootOf d with
  | none => false
  | some p => !(e.yoke.yoked && bitOf e.yoke.yokedPorts p.val) || e.leadsAt 7 d

/-- The number of an SQ of the partner whose entry this controller runs starts here; the SQ's own number follows
(R266). -/
def relayedSq : Nat := 8192

/-- The item is an entry of the partner's that this controller runs (R266). -/
def Item.visiting (i : Item) : Bool := decide (relayedSq ≤ i.jr.sq)

/-- The transaction that an item presents next: kind and payload length (R63, R68). -/
def Item.next (i : Item) (max : Nat) : TxKind × Nat :=
  let left := min max (i.jr.length - i.jr.bytes)
  match i.jr.opcode with
  | 1 => (.in_, left)
  | 2 => if i.ping then (.ping, 0) else (.out, left)
  | _ =>
    match i.jr.stage with
    | .setup => (.setup, 12)
    | .data =>
      let n := min 1024 (i.jr.length - i.jr.bytes)
      if setupIn i.setup then (.in_, n) else if i.ping then (.ping, 0) else (.out, n)
    | .status =>
      if setupIn i.setup && i.jr.length != 0 then (if i.ping then (.ping, 0) else (.out, 0)) else (.in_, 0)

/-- The context of an item's endpoint as cached. -/
def Engine.itemCtx (e : Engine) (i : Item) : Option (BitVec 256) :=
  ((e.hold i.jr.holding).ctxIndex i.jr.dev i.jr.ep).bind fun x => (e.ctxLine i.jr.holding x).map (·.raw)

/-- Largest packet of an item's endpoint. -/
def Engine.itemMax (e : Engine) (i : Item) : Nat :=
  match e.itemCtx i with
  | some c => ctxMax c
  | none => 1024

/-- The span of a transaction to a bound device (R58). -/
def Engine.txSpan (e : Engine) (d : DevNum) (k : TxKind) (n : Nat) : Nat :=
  spanOf (e.commons.path d) (reqSymbols k n) (repSymbols k n) 1000

/-- Whether a context suits an opcode: kind and direction (R184). -/
def ctxSuits (c : BitVec 256) (op : Nat) : Bool :=
  ctxOk c && (if op = 3 then ctxKind c == 1 else ctxKind c == 2 && ctxIn c == decide (op = 1))

/-- Read the OUT data of an item's next packet: each part of the scatter list that it spans (R191). -/
def readOutData (i : Item) (off len : Nat) (e : Engine) : Engine :=
  readParts i.jr.holding (gather i.scatter off len) (.outData i.id) e

/-- Set the controller's copy of E of an endpoint that a holding has a context for (R62, R186): in the cached context, in
host memory where none is cached, and in the item records. -/
def setCopyE (h : Fn) (d : DevNum) (ep : EpNum) (v : BitVec 16) (e : Engine) : Engine :=
  match (e.hold h).ctxIndex d ep with
  | none => e
  | some x =>
    let e := match e.ctxLine h x with
      | some _ => setCtx h x (fun c => ctxSetE c v) e
      | none => hostWrite h ((e.hold h).ctxAddr x + 6) (wordBytes v) false e
    let own (i : Item) : Bool := i.jr.holding == h && i.jr.dev == d && i.jr.ep == ep
    { e with items := lmod own (fun i => { i with jr := { i.jr with seq := v } }) e.items }

/-- A CONTROL transfer that ended with 0x00 may have changed E of its device's endpoints: SET_CONFIGURATION and
SET_SEQUENCE (R186). -/
def followE (i : Item) (e : Engine) : Engine :=
  if i.jr.opcode != 3 then e
  else if setupCode i.setup = 3 then
    forAll ((List.range 15).map (· + 1)) (fun k => setCopyE i.jr.holding i.jr.dev (BitVec.ofNat 4 k) 0) e
  else if setupCode i.setup = 7 then
    setCopyE i.jr.holding i.jr.dev (BitVec.ofNat 4 (setupIndex i.setup)) (BitVec.ofNat 16 (setupValue i.setup)) e
  else e

/-- Decide an item: its status, its completion, the end of its endpoint's turn, HALTED and the write-back of
its context when the endpoint goes idle (R28, R68, R184, R186, R260). -/
def decideItem (id : Nat) (status : Byte) (e : Engine) : Engine :=
  match e.item? id with
  | none => e
  | some i =>
    if !i.active then e
    else
      let h := i.jr.holding
      let i' := { i with jr := { i.jr with status := some status } }
      let e := journalItem i' (modItem id (fun _ => i') e)
      let e := if !i.visiting then finishEntry h i.jr.sq i.order status i.jr.bytes e
        -- with the yoke link lost the runner counts the outcome in the PF's window (R266)
        else if e.yoke.link != .up then countDev 7 e
        else toPartner (.result (.entryEnd h (i.jr.sq - relayedSq) i.jr.unit status i.jr.bytes)) e
      let e := whenE (status == 0 && (i.visiting || i.phase != .relayed)) (followE i) e
      let e := match (e.hold h).ctxIndex i.jr.dev i.jr.ep with
        | none => e
        | some x =>
          let halted := status == 0x10#8
          let e := match e.ctxLine h x with
            | some l => if ctxHalted l.raw != halted then setCtx h x (fun c => ctxSetHalted c halted) e else e
            | none => e
          if (e.itemsFor h i.jr.dev i.jr.ep).isEmpty then writeBack h x e else e
      sweepPrep (sweepAssign e)

/-- The plot of an own item is isolated: it issues nothing, until the item runs on in another plot (R19, R258). -/
def Engine.plotOff (e : Engine) (i : Item) : Bool := !i.visiting && (e.plot (finOf 272 i.plot)).isolated

/-- Bring an item whose context is cached to its next transaction: end it with 0x15 when the span can never
fit (R128), hand it to the runner (R266), read its OUT data (R191), or make it ready. -/
def armItem (id : Nat) (e : Engine) : Engine :=
  match e.item? id with
  | none => e
  | some i =>
    let (k, n) := i.next (e.itemMax i)
    if !i.active || e.plotOff i then e
    else match e.dev? i.jr.dev with
    | none => decideItem id 0x12 e
    | some _ =>
      if !e.runsDev i.jr.dev && e.yoke.link != .up && !e.yoke.partnerLost then decideItem id 0x23 e
      else if !e.runsDev i.jr.dev then
        let outData := i.jr.opcode == 2 || (i.jr.opcode == 3 && !setupIn i.setup && i.jr.length != 0)
        let e := modItem id (fun i => { i with phase := if outData && i.jr.length != 0 then .waitData else .relayed }) e
        if outData && i.jr.length != 0 then readOutData i 0 i.jr.length e
        else toPartner (.work (.entry i.jr i.setup [])) e
      else if decide (60500 < e.txSpan i.jr.dev k n) then decideItem id 0x15 e
      else if k == .out && decide (0 < n) && i.data.isEmpty && !i.visiting then
        readOutData i i.jr.bytes n (modItem id (fun i => { i with phase := .waitData }) e)
      else modItem id (fun i => { i with phase := .ready }) e

/-- Give an item its turn at its endpoint: look for the cached context, or read it (R184). -/
def beginItem (id : Nat) (e : Engine) : Engine :=
  match e.item? id with
  | none => e
  | some i =>
    let h := i.jr.holding
    if e.plotOff i then modItem id (fun i => { i with phase := .waitTurn }) e
    else match (e.hold h).ctxIndex i.jr.dev i.jr.ep with
    | none => decideItem id 0x33 e
    | some x =>
      match e.ctxLine h x with
      | some l =>
        if ctxSuits l.raw i.jr.opcode && ctxDev l.raw == i.jr.dev && ctxEp l.raw == i.jr.ep then
          armItem id (modItem id (fun i => { i with jr := { i.jr with seq := ctxE l.raw } }) e)
        else decideItem id 0x33 e
      | none =>
        hostRead h ((e.hold h).ctxAddr x) 32 (.context id) (modItem id (fun i => { i with phase := .waitContext }) e)

/-- Start the next item that waits for its turn at an endpoint (R184). -/
def nextTurn (h : Fn) (d : DevNum) (ep : EpNum) (e : Engine) : Engine :=
  match e.itemsFor h d ep with
  | [] => e
  | i :: _ => if i.phase == .waitTurn then beginItem i.id e else e

/-- Give an endpoint to the item whose turn it is; waiting items may end at once, each in its turn. -/
def turns (h : Fn) (d : DevNum) (ep : EpNum) (e : Engine) : Engine :=
  forAll (e.itemsFor h d ep) (fun _ => nextTurn h d ep) e

/-- End an item and give the endpoint to the next one. -/
def endItem (id : Nat) (status : Byte) (e : Engine) : Engine :=
  match e.item? id with
  | none => e
  | some i => turns i.jr.holding i.jr.dev i.jr.ep (decideItem id status e)

/-- The root transmitter drops a transaction: its place is freed, a later reply is an orphan (R60). -/
def dropTx (p : PortId) (q : Tx → Bool) : Engine → Engine :=
  modArb p fun a => { a with outstanding := a.outstanding.filter fun t => !q t }

/-- Drop every transaction of an item. -/
def dropItemTx (id : Nat) (e : Engine) : Engine :=
  forAll (allFin 32) (fun p => dropTx p fun t => t.owner == .item id) e

/-- End items that a predicate selects, dropping their transactions (R85, R95, R263). -/
def endItems (q : Item → Bool) (status : Byte) (e : Engine) : Engine :=
  forAll (e.items.filter fun i => i.active && q i) (fun i e => endItem i.id status (dropItemTx i.id e)) e

/-! ## Completions -/

/-- The 16 bytes of a completion entry, dword0 apart (R190). -/
def Completion.dword0 (c : Completion) (phase : Bool) (cond : Nat) (fo : Bool) : Nat :=
  b2n phase + 2 * cond + 32 * b2n fo + 64 * b2n c.batch + 128 * b2n c.wakeCoincided + 256 * c.status.toNat
    + 65536 * (c.sq % 4096)

/-- The started entries of an SQ that have no written completion yet (R196). -/
def Engine.sqBusy (e : Engine) (h : Fn) (n : Nat) : Bool :=
  match mget (e.hold h).sqs n with
  | none => false
  | some q =>
    !q.batch.isEmpty
      || (match mget (e.hold h).cqs (cqKey n q.par.cq) with
          | none => false
          | some c => c.queue.any fun x => x.sq == n % 4096)
      || (e.items.any fun i => i.active && i.jr.holding == h && i.jr.sq == n)
      || (n == 0 && e.fw.running.any fun r => r.src.fn == h && !r.src.isMailbox)

/-- STOPPING becomes DISABLED when the last started entry's completion has been written; the DISABLE then
completes (R196, R218). -/
def sqDrain (h : Fn) (n : Nat) (e : Engine) : Engine :=
  match mget (e.hold h).sqs n with
  | none => e
  | some q =>
    if q.state == .stopping && !e.sqBusy h n then
      finishWaiting (fun r => r.wait == .sqDisabled h n) 0x80
        (e := modSq h n (fun q => { q with state := .disabled }) e)
    else e

/-- A read is at the memory port, issued or waiting, and wanted. -/
def Engine.asked (e : Engine) (tag : ReadTag) : Bool := e.reads.any fun r => r.tag == tag && !r.dead

/-- Issue a release-word read unless one is outstanding (R151, R193). -/
def readRelease (h : Fn) (r : RingRef) (addr : Qword) (e : Engine) : Engine :=
  if e.asked (.release h r) then e else hostRead h addr 8 (.release h r) e

/-- A write has been issued: a settling read is still to follow it on a yoked pair (R262); a controller that is
not yoked has no tally word to read, and takes the write as settled. -/
def Engine.justWritten (e : Engine) : Settle := if e.yoke.yoked then .written else .settled

/-- The head mirror has been written past an entry (R260). -/
def Sq.mirrorPast (q : Sq) (unit : Nat) : Bool :=
  let away (a b : Nat) : Nat := if a ≤ b then b - a else b + q.par.size - a
  !decide (away q.mirror.at_ unit < away q.mirror.at_ q.head.at_)

/-- The cached context of an endpoint has changes that have not been written back. -/
def Engine.ctxDirty (e : Engine) (h : Fn) (d : DevNum) (ep : EpNum) : Bool :=
  match ((e.hold h).ctxIndex d ep).bind (e.ctxLine h) with
  | some l => l.dirty
  | none => false

/-- The item's journal record may be freed (R260). -/
def Engine.recordDone (e : Engine) (i : Item) : Bool :=
  let h := i.jr.holding
  !i.active && (i.visiting || i.comp == .settled || (mget (e.hold h).sqs i.jr.sq).isNone)
    && (match mget (e.hold h).sqs i.jr.sq with | some q => q.mirrorPast i.jr.unit | none => true)
    && ((i.wb == .settled && !e.ctxDirty h i.jr.dev i.jr.ep) || e.items.any fun x =>
        decide (i.id < x.id) && x.jr.holding == h && x.jr.dev == i.jr.dev && x.jr.ep == i.jr.ep)

/-- Free the item records that are due (R260). -/
def freeRecords (e : Engine) : Engine :=
  let gone := e.items.filter e.recordDone
  forAll gone (fun i => journal (.itemFree i.jr.holding i.visiting (i.jr.sq % 4096) i.jr.unit))
    { e with items := e.items.filter fun i => !e.recordDone i }

/-- Write the oldest formed completion of a CQ: dwords 1 to 3, then dword0, then the message that is due
(R193, R194). -/
def writeCompletion (h : Fn) (n : Nat) (e : Engine) : Engine :=
  match mget (e.hold h).cqs n with
  | none => e
  | some q =>
    match if q.probing then [] else q.queue with
    | [] => e
    | c :: rest =>
      let a := q.par.base + BitVec.ofNat 64 (16 * q.write.at_)
      let cond := e.condOf h
      let jw := e.justWritten
      let d0 := c.dword0 q.write.phase cond (c.fo || q.adopted)
      let e := hostWrite h (a + 4)
        (leBytes 4 (c.index % 65536 + 65536 * c.count) ++ wordBytes c.dword2 ++ wordBytes c.tag) false e
      let e := hostWrite h a (leBytes 4 d0) false e
      let since := q.sinceMsg + 1
      let send := q.par.ien && (c.interrupt || q.msgDue || (q.par.modCount != 0 && since == q.par.modCount))
      let q' := { q with
        queue := rest, write := ringAdv q.write 1 q.par.size, reserved := q.reserved - c.covers.length
        sinceMsg := if send then 0 else since, msgDue := if send then false else q.msgDue
        settled := if jw == .settled then ringAdv q.write 1 q.par.size else q.settled }
      let e := modCq h n (fun _ => q') e
      let sqKey := if 4096 ≤ n then c.sq + 4096 else c.sq
      let mine (i : Item) : Bool :=
        !i.active && i.jr.holding == h && i.jr.sq == sqKey && c.covers.contains i.order
      let e := { e with items := lmod mine (fun i => { i with comp := jw }) e.items }
      let e := journal (.position { kind := .cq, holding := h, num := n, issued := q'.write,
                                                settled := q'.settled, sequence := 0 }) e
      let e := whenE send (msix h q.par.vector) e
      -- a completion that carries the new code stands for a note when it shows the whole change (R228)
      let e := modFn h (fun x => { x with note := if x.note == some true then none else x.note }) e
      let e := sqDrain h sqKey e
      let free := ringFree q.par.size q'.write q'.release
      if decide (2 * free < q.par.size) then readRelease h (.cq n) q.par.release e else e

/-- Write every formed completion of a CQ. -/
def flushCq (h : Fn) (n : Nat) (e : Engine) : Engine :=
  match mget (e.hold h).cqs n with
  | none => e
  | some q => forAll q.queue (fun _ => writeCompletion h n) e

/-! ## Starting entries -/

/-- The entry at the head of an SQ's cached entries, if the queue engine may start it now: in SQ order, with
FENCE and MARK waiting for every earlier entry (R184, R185). -/
def Engine.front (e : Engine) (h : Fn) (n : Nat) : Option (Sq × Cached × BitVec 256) :=
  match mget (e.hold h).sqs n with
  | none => none
  | some q =>
    match q.cached with
    | [] => none
    | c :: _ =>
      match c.units with
      | [] => none
      | u :: _ => if e.queueOn h && q.state == .enabled then some (q, c, u) else none

/-- Every earlier entry of the SQ has finished (R185). -/
def Sq.finished (q : Sq) : Bool := q.batch.all (·.status.isSome)

/-- Whether the head mirror is due after a start, or once nothing seen or cached is left unstarted (R179). -/
def Sq.checkMirror (q : Sq) : Sq :=
  { q with mirrorDue := q.mirrorDue || decide (16 ≤ q.sinceMirror)
      || (q.seen.isEmpty && q.cached.isEmpty && decide (0 < q.sinceMirror)) }

/-- Take the head entry out of the cache: the published head moves past it (R178), the partner is told (R260), and the
cache space that it leaves may be fetched into (R182). `counted` is false of a PAD, which counts as started but not in the
mirror's count. -/
def popEntry (h : Fn) (n : Nat) (c : Cached) (counted : Bool) (e : Engine) : Engine :=
  let e := modSq h n (fun q => Sq.checkMirror { q with
      cached := q.cached.drop 1, head := ringAdv q.head c.units.length q.par.size
      started := q.started + BitVec.ofNat 32 (b2n counted), sinceMirror := q.sinceMirror + 1 }) e
  let e := match mget (e.hold h).sqs n with
    | none => e
    | some q => journalSq h n q e
  fetchIssue h n e

/-- Start a non-PAD entry: open its place in the batch, and pop it (R178, R188). -/
def startEntry (h : Fn) (n : Nat) (c : Cached) (u : BitVec 256) (e : Engine) : Engine :=
  popEntry h n c true (modSq h n (fun q => { q with
    batch := q.batch ++ [{ unit := c.unit, order := q.started, tag := eTag u, complete := eComplete u,
                           interrupt := eInterrupt u, status := none, bytes := 0 }] }) e)

/-- The holding has an item record left: 27 for each plot (R260). -/
def Engine.itemRoom (e : Engine) (h : Fn) : Bool :=
  decide ((e.items.filter fun i => i.jr.holding == h).length < 27 * (e.plotsOf h).length)

/-- The status with which the lookup of R184 ends an entry, if it does. -/
def Engine.lookup (e : Engine) (h : Fn) (d : DevNum) (ep : EpNum) : Option Byte :=
  match e.dev? d with
  | none => some 0x12
  | some v =>
    if !v.present then some 0x12
    else if v.owner != h || v.hub.isSome then some 0x32
    else if ep != 0 && !v.configured then some 0x33
    else match (e.hold h).ctxIndex d ep with
      | none => some 0x33
      | some x => if (e.hold h).ctxEntries ≤ x then some 0x33 else none

/-- The endpoint's context lies in a slice that no plot has yet: slices follow a change at the next frame boundary (R233). -/
def Engine.unplaced (e : Engine) (h : Fn) (d : DevNum) (ep : EpNum) : Bool :=
  (e.lookup h d ep).isNone && (match (e.hold h).ctxIndex d ep with
    | some x => (e.plotOf h x).isNone
    | none => false)

/-- The item of an entry that starts, with its journal record (R260). -/
def newItem (h : Fn) (n op : Nat) (q : Sq) (c : Cached) (u : BitVec 256) (id plot : Nat) (l : List (Qword × Nat))
    (status : Option Byte) : Item :=
  let jr : ItemRec :=
    { holding := h, sq := n, relayed := false, adopted := decide (4096 ≤ n), unit := c.unit, units := c.units.length,
      complete := eComplete u, fence := eFence u, interrupt := eInterrupt u, tag := eTag u, dev := eDev u, ep := eEp u,
      opcode := op, bytes := 0, seq := 0, status, stage := .setup, length := eLen u, cq := q.par.cq }
  { id, order := q.started, jr, plot, scatter := l, setup := eSetup u, phase := .waitTurn, attempts := 0, ping := false
    data := [], abort := none, resetting := false }

/-- An entry that ends where it starts has its item record too, decided at once (R260). -/
def endAtStart (h : Fn) (n op : Nat) (q : Sq) (c : Cached) (u : BitVec 256) (status : Byte) (e : Engine) : Engine :=
  let (id, e) := newId e
  let i := newItem h n op q c u id 0 [] (some status)
  finishEntry h n i.order status 0 (journalItem i { e with items := e.items ++ [i] })

/-- Start a bulk or control entry: the checks of R174, the refusals of R186, the lookup of R184, then an item
in the plot that holds the endpoint's context. An entry whose context no plot's slice holds yet is not started. -/
def startItem (h : Fn) (n op : Nat) (e : Engine) : Engine :=
  match e.front h n with
  | none => e
  | some (q, c, u) =>
    if eOpcode u != op || n % 4096 = 0 || (eFence u && !q.finished) || !e.itemRoom h then e
    else
      let ok := decide (c.units.length = eUnits u)
      let sc := if ok then (if op = 3 then controlCheck c.units else bulkCheck c.units) else none
      let refused := op = 3 && setupCode (eSetup u) = 2
      if sc.isSome && !refused && e.unplaced h (eDev u) (eEp u) then e
      else
      let e := startEntry h n c u e
      match sc with
      | none => endAtStart h n op q c u 0x30 e
      | some l =>
        if refused then endAtStart h n op q c u 0x32 e
        else match e.lookup h (eDev u) (eEp u) with
        | some st => endAtStart h n op q c u st e
        | none =>
          let plot := match (e.hold h).ctxIndex (eDev u) (eEp u) with
            | some x => (match e.plotOf h x with | some p => p.val | none => 0)
            | none => 0
          let busy := !(e.itemsFor h (eDev u) (eEp u)).isEmpty
          let (id, e) := newId e
          let i := newItem h n op q c u id plot l none
          let e := journalItem i { e with items := e.items ++ [i] }
          if busy then e else beginItem id e

end Sys2Proof.Machine
end

