-- ==== Sys2Proof/Machine/AdminOps.lean ====
section
/-! DEFINITION. How an admin command starts, is checked and ends (07_commands.md): the command that a source
holds, the objects it touches (R208), the order of statuses (R201), apply-once (R227), deferral (R218). -/

namespace Sys2Proof.Machine

/-- The objects of R208; `all` stands for every object of a holding, and the holding. A reap list is known by its hub, its
id and the holding that names it. -/
inductive Obj where
  | sq (f : Fn) (n : Nat)
  | cq (f : Fn) (n : Nat)
  | sheafRing (f : Fn) (n : Nat)
  | alarmRing (f : Fn)
  | reapList (f : Fn) (hub : DevNum) (id : Nat)
  | hubPort (p : Position)
  | userCore (n : Nat)
  | holding (n : Nat)
  | all (n : Nat)
  deriving DecidableEq, Repr

/-- The holding an object belongs to, if one does. -/
def Obj.owner : Obj → Option Nat
  | .sq f _ => some f.val
  | .cq f _ => some f.val
  | .sheafRing f _ => some f.val
  | .alarmRing f => some f.val
  | .reapList f _ _ => some f.val
  | .holding n => some n
  | .all n => some n
  | .hubPort _ => none
  | .userCore _ => none

/-- Two commands touch the same object; a holding command touches every object of that holding (R208). -/
def Obj.clash (a b : Obj) : Bool :=
  a == b
    || (match a, b with | .reapList _ h i, .reapList _ k j => h == k && i == j | _, _ => false)
    || (match a, b.owner with | .all n, some m => n == m | _, _ => false)
    || (match b, a.owner with | .all n, some m => n == m | _, _ => false)

/-- Reap lists as objects. -/
def listObjs (l : List PlantedList) : List Obj := l.map fun x => .reapList x.holding x.hub x.listId

/-- The objects that a command touches (R208, R210 to R217): those of the rule's list that it names. The context table, the
field map and the schedule are none of them (DEDUCED, log entry 46). -/
def Engine.objects (e : Engine) (f : Fn) (c : BitVec 512) : List Obj :=
  match cOp c with
  | 0x02 => [.sq f 1, .cq f 1]
  | 0x04 => [.sq f (cf c 44 0 16), .cq f (cf c 46 0 16)]
  | 0x05 | 0x08 | 0x09 | 0x0A | 0x0B => [.sq f (cf c 44 0 16)]
  | 0x06 | 0x07 => [.cq f (cf c 46 0 16)]
  | 0x12 => [.holding (cf c 32 0 8)]
  | 0x18 => [.reapList f (fld c 256 20) (cf c 36 0 8)]
  | 0x19 =>
    if cf c 37 0 1 = 1 then listObjs (e.commons.lists.filter fun l => l.hub == fld c 256 20 && l.holding == f)
    else [.reapList f (fld c 256 20) (cf c 36 0 8)]
  | 0x1A => listObjs (e.commons.lists.filter fun l => l.group == some (cf c 42 0 16) && l.holding == f)
  | 0x1B => [.sheafRing f (cf c 56 0 8)]
  | 0x1C => [.alarmRing f]
  | 0x20 => if cf c 32 0 8 = 2 then [.hubPort (cPosition c 36 40)] else []
  | 0x21 | 0x22 => [.hubPort (cPosition c 32 36)]
  | 0x23 => (match e.dev? (cDev c) with | some v => [.hubPort v.pos] | none => [])
  | 0x30 | 0x31 | 0x32 | 0x33 | 0x34 | 0x35 | 0x36 | 0x37 | 0x38 => [.all (cf c 32 0 8)]
  | 0x50 | 0x51 => [.userCore (cf c 32 0 8)]
  | _ => []

/-- The objects that a started command touches: a group's lists too, which firmware chose (R153). -/
def Engine.heldBy (e : Engine) (r : Running) : List Obj :=
  e.objects r.src.fn r.cmd ++ (match r.wait with
    | .group h n => listObjs (e.commons.lists.filter fun l => l.group == some n && l.holding == h)
    | .devReset _ pos => [.hubPort pos]
    | _ => [])

/-- The command that a source holds and firmware has not taken: the mailbox's latched request, or the entry at
the head of SQ 0's cached ones (R199, R204). An entry that runs past the end of SQ 0 is no whole command: its units
field is read as 0, which R201 answers with 0x82. -/
def Engine.command (e : Engine) : AdminSrc → Option (BitVec 512)
  | .mailbox f =>
    let m := (e.fn f).mbx
    if m.busy && !m.taken then m.latched else none
  | .queue f unit =>
    match mget (e.hold f).sqs 0 with
    | none => none
    | some q =>
      match q.cached with
      | [] => none
      | c :: _ =>
        match c.units with
        | u :: rest =>
          if c.unit = unit && eOpcode u != 0 then
            let whole := decide (c.units.length = eUnits u)
            some (BitVec.ofNat 512 ((if whole then u else u &&& ~~~15#256).toNat + 2 ^ 256 * (rest.headD 0).toNat))
          else none
        | [] => none

/-- Firmware may start the command now (R208): FENCE, clashing objects, 64 at once. A command waits too while
its SQ 0 is not ENABLED. -/
def Engine.mayStart (e : Engine) (src : AdminSrc) (c : BitVec 512) : Bool :=
  let mine := e.fw.running.filter fun r => r.src.fn == src.fn
  let clash := e.fw.running.any fun r => (e.heldBy r).any fun a => (e.objects src.fn c).any fun b => a.clash b
  let fenced := match src with
    | .mailbox _ => false
    | .queue f _ =>
      (cFence c && mine.any fun r => !r.src.isMailbox)
        || (match mget (e.hold f).sqs 0 with | some q => q.state != .enabled | none => true)
  -- a command for a holding in reset answers at once (R241)
  let resetting := (e.fn src.fn).reset.isSome
  (!clash || resetting) && !fenced && decide (mine.length < 64)

/-- Take the command off its source (R178, R204). -/
def takeCommand (src : AdminSrc) (e : Engine) : Engine :=
  match src with
  | .mailbox f => modMbx f (fun m => { m with taken := true }) e
  | .queue f _ =>
    match mget (e.hold f).sqs 0 with
    | none => e
    | some q =>
      match q.cached with
      | [] => e
      | c :: _ => popEntry f 0 c true e

/-- How a command goes on once it passes its checks. -/
inductive AdminStep where
  /-- It has its effect and completes with 0x80. -/
  | ok (e : Engine) (dword2 : Dword) (data : List Byte)
  /-- It completes with another status; the engine holds what the command tables except from R201. -/
  | fail (e : Engine) (status : Nat) (dword2 : Dword)
  /-- It has started and waits for an event (R218). -/
  | wait (e : Engine) (d : Defer)

/-- The rank of a status in the order of R201. The number 0x186 stands for the 0x86 of a holding in reset,
which comes directly after 0x82. -/
def statusRank (st : Nat) : Nat :=
  match st with
  | 0x81 => 0 | 0x83 => 1 | 0x82 => 2 | 0x186 => 3 | 0x89 => 4 | 0x87 => 5 | 0x84 => 6 | 0x85 => 7 | 0x88 => 8
  | _ => 9

/-- One check of a command: it fails with a status and dword2 when the condition holds. -/
structure Check where
  bad : Bool
  status : Nat
  dword2 : Dword := 0

/-- The check that decides, in the order of R201; the earliest of equals. -/
def verdict (l : List Check) : Option Check := minBy (fun c => statusRank c.status) (l.filter (·.bad))

/-- What a row of the command tables fixes before its own checks. -/
structure AdminRow where
  op : Nat
  pfOnly : Bool := false
  /-- The command names an endpoint or a device in the header (R199). -/
  target : Bool := false
  /-- The parameter fields that the command's form uses; every other bit is reserved (R201). -/
  used : BitVec 512 → Fields := fun _ => []
  /-- Runs although the holding is in reset (R241). -/
  inReset : Bool := false
  /-- The read of host memory that its checks need, if one (R154, R211, R250, R288). -/
  reads : Fn → BitVec 512 → Engine → Engine := fun _ _ e => e

/-- The checks that every command shares: PF (R202), reserved bits and units (R201), apply-once (R226), the
response address (R199), a holding in reset (R241). -/
def sharedChecks (r : AdminRow) (f : Fn) (c : BitVec 512) (e : Engine) : List Check :=
  [{ bad := r.pfOnly && f != pf, status := 0x83 },
   { bad := cf c 0 0 4 != 1, status := 0x82 },
   { bad := reservedSet c r.target (r.used c), status := 0x82 },
   { bad := classA c && !cOnce c, status := 0x82 },
   { bad := cf c 16 0 3 != 0, status := 0x82 },
   { bad := !r.inReset && (e.fn f).reset.isSome, status := 0x186 }]

/-- The apply-once record of a tag (R227). -/
def FnState.once (x : FnState) (c : BitVec 512) : Option Applied :=
  if classA c && cOnce c then x.applied.find? (·.tag == cTag c) else none

/-- What becomes of a command before its own effect. -/
inductive Gate where
  /-- The source holds no such command, or firmware does not take it now. -/
  | ignored
  /-- It is answered without its effect, and without an apply-once record. -/
  | answered (e : Engine)
  /-- Its checks and effect are due. -/
  | run (c : BitVec 512) (e : Engine)

/-- The gate of a row: the no-image answer (R388), readiness, the opcode, waiting (R208), apply-once (R227). -/
def gate (r : AdminRow) (src : AdminSrc) (e : Engine) : Gate :=
  match e.command src with
  | none => .ignored
  | some c =>
    if e.fw.noImage && src.isMailbox && !e.pins.inReset then
      .answered (reply src c 0x88 0 [] false (takeCommand src e))
    else if !e.fwRuns || cOp c != r.op || !e.mayStart src c then .ignored
    else
      let e := takeCommand src e
      match (e.fn src.fn).once c with
      | some a =>
        .answered (if a.opcode = cOp c then reply src c a.status a.dword2 [] false e
          else reply src c 0x82 0 [] false e)
      | none => .run c e

/-- Finish or defer a command (R218). -/
def concludeAdmin (src : AdminSrc) (c : BitVec 512) : AdminStep → Engine
  | .ok e d data => finish src c 0x80 d data false e
  | .fail e st d => finish src c (BitVec.ofNat 8 st) d [] false e
  | .wait e d => { e with fw := { e.fw with running := e.fw.running ++ [{ src, cmd := c, wait := d }] } }

/-- Run an admin command on the engine: gate, checks in the order of R201, effect. -/
def runAdmin (r : AdminRow) (src : AdminSrc) (checks : Fn → BitVec 512 → Engine → List Check)
    (effect : Fn → BitVec 512 → Engine → AdminStep) (e : Engine) : Engine :=
  match gate r src e with
  | .ignored => e
  | .answered e => e
  | .run c e =>
    let e := whenE (verdict (sharedChecks r src.fn c e)).isNone (r.reads src.fn c) e
    match verdict (sharedChecks r src.fn c e ++ checks src.fn c e) with
    | some k => finish src c (BitVec.ofNat 8 k.status) k.dword2 [] false e
    | none => concludeAdmin src c (effect src.fn c e)

/-- A holding is frozen, for the commands that R202 stops. -/
def Engine.frozen (e : Engine) (h : Fn) : Bool :=
  match (e.hold h).freeze with
  | some z => z.reached
  | none => false

/-- The check of R241 on a holding other than the issuer's that a command names: 0x86 while it is in reset. -/
def resetCheck (e : Engine) (h : Fn) : Check := { bad := (e.fn h).reset.isSome, status := 0x186 }

/-- The check of R202 on a frozen holding. -/
def frozenCheck (e : Engine) (h : Fn) : Check := { bad := e.frozen h, status := 0x87 }

/-- Sum over the holdings from 1 to 63 of what each was given (R229). -/
def Engine.given (e : Engine) (q : Holding → Nat) : Nat :=
  (((allFin 64).filter fun h => h != pf && (e.hold h).created).map fun h => q (e.hold h)).sum

/-- A quota of a holding: holding 0 has the remainder (R229). -/
def Engine.quota (e : Engine) (h : Fn) (total : Nat) (q : Holding → Nat) : Nat :=
  if h = pf then total - e.given q else q (e.hold h)

/-- SQ quota in force. -/
def Engine.sqQuota (e : Engine) (h : Fn) : Nat := e.quota h 4096 (·.sqQuota)
/-- CQ quota in force. -/
def Engine.cqQuota (e : Engine) (h : Fn) : Nat := e.quota h 4096 (·.cqQuota)
/-- Poll credits in force. -/
def Engine.pollShare (e : Engine) (h : Fn) : Nat := e.quota h 4194304 (·.pollCredits)
/-- Row-rate quota in force. -/
def Engine.rowrateQuota (e : Engine) (h : Fn) : Nat := e.quota h 4096 (·.rowrateQuota)
/-- Context quota in force. -/
def Engine.ctxQuota (e : Engine) (h : Fn) : Nat := e.quota h 8388608 (·.ctxQuota)
/-- Sheaf-ring quota in force; at most 256 rings can exist in one holding. -/
def Engine.ringQuota (e : Engine) (h : Fn) : Nat := min 256 (e.quota h 1024 (·.ringQuota))

/-- A holding's own (not adopted) SQs, CQs, rings. -/
def Holding.ownSqs (x : Holding) : Map Sq := x.sqs.filter fun y => decide (y.1 < 4096)
/-- Own CQs. -/
def Holding.ownCqs (x : Holding) : Map Cq := x.cqs.filter fun y => decide (y.1 < 4096)
/-- Own sheaf rings. -/
def Holding.ownRings (x : Holding) : Map SheafRing := x.rings.filter fun y => decide (y.1 < 256)

/-- Credits charged to a holding (R181). -/
def Holding.charged (x : Holding) : Nat := (x.ownSqs.map fun q => sqCost q.2.par.kb).sum

/-- Device-wide counts with the partner's shadow of a yoked pair (R167, R265). -/
def Engine.pairCount (e : Engine) (own : Holding → Nat) (theirs : Shadow → Nat) : Nat :=
  (e.holdings.toList.map own).sum + (if e.yoke.yoked then (e.yoke.shadow.toList.map theirs).sum else 0)

/-- Row-rate endpoints in use (R221): those that firmware has placed (R133), or the ROWRATE descriptors of a host-written
map (R109). -/
def Holding.rowrateUsed (x : Holding) : Nat := (x.scheduled.filter (·.interval == 0)).length + x.rowrateHost

/-- Tell the partner how many row-rate endpoints a holding uses (R265). -/
def shadowRowrate (h : Fn) (e : Engine) : Engine := shadow (.rowrate h (e.hold h).rowrateUsed) e

end Sys2Proof.Machine
end

