-- ==== Sys2Proof/Machine/FrameOps.lean ====
section
/-! DEFINITION. Operations on periodic work (04_frames.md, 05_reaping.md): records and sheaves, validity and
admission of descriptors (R111, R117, R118, R119), staging, overruns (R126) and what a frame logs. -/

namespace Sys2Proof.Machine

/-! ## Records and sheaves -/

/-- A record in host memory (R51, R146). -/
def recordBytes (dev : DevNum) (ep : EpNum) (status : Nat) (frame : BitVec 48) (payload : List Byte) : List Byte :=
  leBytes 4 (dev.toNat + 2 ^ 20 * ep.toNat + 2 ^ 24 * status)
    ++ leBytes 4 (payload.length + 65536 * (frame.toNat % 65536)) ++ payload
    ++ List.replicate (roundUp payload.length 8 - payload.length) 0

/-- Whether results of a frame go to a ring (R148). -/
def SheafRing.takes (r : SheafRing) (frame : BitVec 48) : Bool :=
  decide (r.first.toNat ≤ frame.toNat) &&
    (match r.removeAt with | some g => decide (frame.toNat < g.toNat) | none => true)

/-- Queue a formed sheaf on a ring; a result for a ring that does not exist is dropped and counted (R148). -/
def putSheaf (h : Fn) (ring : Nat) (x : SheafOut) (e : Engine) : Engine :=
  match mget (e.hold h).rings ring with
  | none => countH h 1 e
  | some r => if r.takes x.frame then modRing h ring (fun r => { r with queue := r.queue ++ [x] }) e else countH h 1 e

/-- The 32 bytes of a sheaf header but for its length, lost count and sequence (R149). -/
def SheafOut.header (x : SheafOut) (phase pad : Bool) (sequence : Dword) (length lost : Nat) : List Byte :=
  leBytes 4 (b2n phase + 2 * b2n pad + 4 * b2n x.overrun + 8 * b2n x.late + 16 * b2n x.solo + 32 * b2n x.short
      + 64 * b2n x.failed + 256 * x.listId + 65536 * (if pad then 0 else x.count))
    ++ leBytes 4 (x.dev.toNat + 2 ^ 20 * x.ep.toNat + 2 ^ 24 * x.row) ++ leBytes 4 x.frame.toNat
    ++ wordBytes sequence ++ leBytes 4 length ++ leBytes 4 (min lost 65535 + 65536 * (x.serial % 256))
    ++ wordBytes x.etc

/-- The sheaf ring that a staged descriptor names; adopted rings are numbered from 256 (R276). -/
def Staged.ring (d : Staged) : Nat := dRing d.raw + (if d.adopted then 256 else 0)

/-- The sheaf header fields that a staged descriptor fixes, and the buffer of its place. -/
def Staged.sheaf (d : Staged) (etc : Qword) : SheafOut :=
  { solo := dKind d.raw != 1, listId := if dKind d.raw = 1 then dList d.raw else 0, dev := dDev d.raw,
    ep := if dKind d.raw = 1 then 0 else dEp d.raw, row := d.row, frame := d.frame, etc, buf := d.buf }

/-- The one record that stands for a descriptor's failed or missing result (R126, R145). -/
def Staged.single (d : Staged) (status : Nat) : List Byte :=
  recordBytes (dDev d.raw) (if dKind d.raw = 1 then 0 else dEp d.raw) status d.frame []

/-- A result that comes after a reset point, or in the hold after PE_PERST_N, is dropped: its records are counted
(R242), and after PE_PERST_N the ring's lost count shows it (R367). -/
def dropResult (d : Staged) (x : SheafOut) (e : Engine) : Engine :=
  let e := forAll (List.range x.count) (fun _ => countH d.holding 3) e
  if !(e.fn d.holding).perstHold then e
  else modRing d.holding d.ring (fun r => { r with sequence := r.sequence + 1, lost := r.lost + 1 }) e

/-- Deliver a descriptor's sheaf, with the cause of its failure, 0 for none: to its ring, over the yoke to its home
(R266), or dropped and counted after a reset point (R242). -/
def deliver (d : Staged) (x : SheafOut) (cause : Nat := 0) (e : Engine) : Engine :=
  if d.dropped then dropResult d x e
  -- with the yoke link lost the runner counts the outcome in the PF's window (R266, R278)
  else if d.relayed && e.yoke.link != .up then countDev 7 e
  else if d.relayed then
    toPartner (.result (.sheaf d.holding (d.frame.setWidth 32) d.row d.listIndex
      (BitVec.ofNat 256 (leNat (x.header false false 0 (32 + x.records.length) 0))) x.records cause)) e
  else putSheaf d.holding d.ring x e

/-- Count an event of a descriptor in its holding's window, for its port or with `wide` for the holding (R400): at the
home of a relayed one (R266), and in the runner's own PF window when the yoke link has been lost (R266). -/
def countFor (d : Staged) (wide : Bool) (k : Nat) (e : Engine) : Engine :=
  let at_ (h : Fn) : Engine → Engine := if wide then countH h k else countHP h d.port k
  if !d.relayed then at_ d.holding e
  else if e.yoke.yoked && e.yoke.link == .up then
    toPartner (.result (.counted d.holding (if wide then none else some d.port) k)) e
  else at_ pf e

/-- A relayed descriptor has ended without a sheaf: its home is told (R266). -/
def endRelayed (d : Staged) (how : RelayedEnd) : Engine → Engine :=
  whenE d.relayed (toPartner (.result (.ended d.holding (d.frame.setWidth 32) d.row d.listIndex how)))

/-- A reap-failure entry (R145). -/
def reapFailure (d : Staged) (cause : Nat) (e : Engine) : Engine :=
  whenE (!d.relayed && !d.dropped && dKind d.raw == 1)
    (attn d.holding 0x16 (object := dDev d.raw) (index := d.frame.setWidth 32)
      (argument := BitVec.ofNat 32 (dList d.raw + 256 * cause))) e

/-- A FAILED result of a REAP (R145), with its cause; cause 0 writes no entry. -/
def failReap (d : Staged) (status cause : Nat) (serial : Nat) (e : Engine) : Engine :=
  let x := { d.sheaf e.clk.etc with failed := true, serial, records := d.single status }
  whenE (cause != 0) (reapFailure d cause) (deliver d x cause e)

/-- A SOLO-OUT has its outcome: nothing in host memory, a count `k` in the holding's window (R108, R110), or with `wide`
among the holding's own (R103). -/
def outResult (d : Staged) (wide : Bool) (k : Nat) (e : Engine) : Engine :=
  endRelayed d .served (whenE (!d.dropped) (countFor d wide k) e)

/-- The result of a SOLO descriptor that failed, or never left (R103, R108). -/
def failSolo (d : Staged) (failed : Bool) (e : Engine) : Engine :=
  if dKind d.raw = 2 then deliver d { d.sheaf e.clk.etc with failed, records := d.single 3 } 0 e
  else outResult d false 4 e

/-! ## What a frame logs -/

/-- Update the frame log of a holding's frame, making it if there is none. -/
def modFrameLog (h : Fn) (f : BitVec 48) (g : FrameLog → FrameLog) (e : Engine) : Engine :=
  if e.frameLogs.any fun l => l.holding == h && l.frame == f then
    { e with frameLogs := lmod (fun l => l.holding == h && l.frame == f) g e.frameLogs }
  else { e with frameLogs := e.frameLogs ++ [g { holding := h, frame := f }] }

/-- The frame log of a holding's frame. -/
def Engine.frameLog (e : Engine) (h : Fn) (f : BitVec 48) : FrameLog :=
  (e.frameLogs.find? fun l => l.holding == h && l.frame == f).getD { holding := h, frame := f }

/-- The list index of a descriptor as a frame's log tells it from others: those of the partner's field map are numbered
from 8,192 (R277). -/
def logIndex (adopted : Bool) (index : Nat) : Nat := index + (if adopted then 8192 else 0)

/-- An invalid descriptor, counted once whatever plots read it (R111). -/
def noteInvalid (h : Fn) (f : BitVec 48) (row index : Nat) (e : Engine) : Engine :=
  if (e.frameLog h f).invalid.contains (row, index) then e
  else countH h 0 (modFrameLog h f (fun l => { l with invalid := l.invalid ++ [(row, index)] }) e)

/-- A descriptor that its context shows to be invalid (R113): a ROWRATE one is one descriptor, of row 0. -/
def Staged.noteInvalid (d : Staged) (e : Engine) : Engine :=
  let (row, index) := if dRowrate d.raw then (0, d.listIndex % 4096) else (d.row, d.listIndex)
  Machine.noteInvalid d.holding d.frame row (logIndex d.adopted index) e

/-- A frame's failure that is logged once for the holding (R103, R106). -/
def sayOnce (h : Fn) (f : BitVec 48) (kind row : Nat) (argument : Dword) (e : Engine) : Engine :=
  if (e.frameLog h f).said.contains (kind, row) then e
  else attn h kind (index := f.setWidth 32) (argument := argument)
    (e := modFrameLog h f (fun l => { l with said := l.said ++ [(kind, row)] }) e)

/-- The log argument of a row and list index, the first in row order, then list order. -/
def firstOf (l : List (Nat × Nat)) : Option Dword :=
  (minBy (fun x => 4096 * x.1 + x.2 % 4096) l).map fun x => BitVec.ofNat 32 (x.1 + 16 * (x.2 % 4096))

/-- Some plot still walks the holding's frame, or the slot entry is being read. -/
def Engine.walking (e : Engine) (h : Fn) (f : BitVec 48) : Bool :=
  e.plots.toList.any fun p => p.holding == h && p.walks.any (·.frame == f)

/-- Write the frame's entries that are due: the invalid one when every plot has walked, the overrun one when
every descriptor is served or recorded (R111, R126). -/
def settleFrame (h : Fn) (f : BitVec 48) (e : Engine) : Engine :=
  if e.walking h f then e
  else
    let l := e.frameLog h f
    let left := e.staged.filter fun d => d.holding == h && d.frame == f && !d.relayed
    let e := if l.walked || left.any (·.phase == .fetchContext) then e
      else
        let e := match firstOf l.invalid with
          | none => e
          | some a => attn h 0x13 (index := f.setWidth 32) (argument := a) (e := e)
        modFrameLog h f (fun l => { l with walked := true }) e
    if left.isEmpty then
      let e := match firstOf l.overrun with
        | none => e
        | some a => attn h 0x14 (index := f.setWidth 32) (argument := a) (e := e)
      { e with frameLogs := e.frameLogs.filter fun l => !(l.holding == h && l.frame == f) }
    else e

/-- The cause that a relayed sheaf carries for an image failure, which R145 does not number. -/
def imageCause : Nat := 8

/-- Take a staged descriptor off. -/
def unstage (id : Nat) (e : Engine) : Engine := { e with staged := e.staged.filter fun d => d.id != id }

/-- The staged descriptor with a handle. -/
def Engine.staged? (e : Engine) (id : Nat) : Option Staged := e.staged.find? (·.id == id)

/-- Update a staged descriptor. -/
def modStaged (id : Nat) (f : Staged → Staged) (e : Engine) : Engine :=
  { e with staged := lmod (·.id == id) f e.staged }

/-- A staged descriptor has its result: take it off and write what its frame now has to log. -/
def doneStaged (d : Staged) (e : Engine) : Engine := sweepAssign (settleFrame d.holding d.frame (unstage d.id e))

/-- The journal record of a periodic transaction is that of a descriptor (R261). -/
def Staged.isRec (d : Staged) (r : PeriodicRec) : Bool :=
  r.holding == d.holding && r.dev == dDev d.raw && r.ep == (if dKind d.raw = 1 then 0 else dEp d.raw)
    && r.listId == (if dKind d.raw = 1 then dList d.raw else 0) && r.row == d.row && r.frame == d.frame.setWidth 32
    && r.kind == dKind d.raw

/-- The result of a periodic transaction that is lost with a controller or the yoke link (R266, R276): one record with
status 3, FAILED, cause 6; status 2 where a split brain has passed the port on (R278). -/
def lostRelay (d : Staged) (e : Engine) : Engine :=
  let split := e.yoke.takeover == .split
  match dKind d.raw with
  | 1 => if split then failReap d 2 7 0 e else failReap d 3 6 0 e
  | 2 =>
    deliver d { d.sheaf e.clk.etc with failed := !split, records := d.single (if split then 2 else 3) } 0 e
  | _ => outResult d false 4 e

/-- The results of an overrun (R126): one record with status 3 in a sheaf marked OVERRUN, the counter, the
frame's entry. A descriptor already recorded as an overrun is not recorded again. -/
def overrun (d : Staged) (e : Engine) : Engine :=
  -- one that the lost partner had started is a lost result instead (R276)
  let key := (d.row, logIndex d.adopted d.listIndex)
  let x := { d.sheaf e.clk.etc with overrun := true, records := d.single 3 }
  if d.adopted && dKind d.raw != 3 && e.yoke.periodics.any d.isRec then
    lostRelay d (modYoke (fun y => { y with periodics := y.periodics.filter fun r => !d.isRec r }) e)
  -- the home of a relayed one logs and counts it
  else if d.relayed then (if dKind d.raw = 3 then endRelayed d .overrun e else deliver d x 0 e)
  else if (e.frameLog d.holding d.frame).overrun.contains key then e
  else
    let e := modFrameLog d.holding d.frame (fun l => { l with overrun := l.overrun ++ [key] }) e
    let e := countHP d.holding d.port 0 e
    whenE (dKind d.raw != 3) (deliver d x 0) e

/-! ## Validity and admission -/

/-- The kind of transaction of a descriptor. -/
def dTx (d : BitVec 256) : TxKind :=
  match dKind d with
  | 1 => .reap
  | 2 => .soloIn
  | _ => .soloOut

/-- Charge and span of a descriptor on a path (R117). -/
def dCost (path : Path) (d : BitVec 256) : Nat × Nat :=
  let q := reqSymbols (dTx d) (dLen d)
  let p := repSymbols (dTx d) (dLen d)
  (chargeOf ((path.head?.map (·.1)).getD 2) q p, spanOf path q p (if dKind d = 1 then 10 * dDeadline d else 1000))

/-- The reservation of a holding on a port that holds in a frame (R115). -/
def Engine.region (e : Engine) (h : Fn) (p : PortId) (f : BitVec 48) : Reserve :=
  ((e.hold h).reserveNext[p.val].filter fun x => decide (x.2.toNat ≤ f.toNat)).foldl (fun _ x => x.1)
    (e.hold h).reserve[p.val]

/-- The reservation most recently accepted (R115). -/
def Engine.accepted (e : Engine) (h : Fn) (p : PortId) : Reserve :=
  (e.hold h).reserveNext[p.val].foldl (fun _ x => x.1) (e.hold h).reserve[p.val]

/-- The planted list with a hub and an id. -/
def Commons.list? (c : Commons) (hub : DevNum) (id : Nat) : Option PlantedList :=
  c.lists.find? fun l => l.hub == hub && l.listId == id && l.gone.isNone

/-- The list as the walk of a frame accepts it (R155). -/
def Commons.listAt (c : Commons) (hub : DevNum) (id : Nat) (f : BitVec 48) : Option PlantedList :=
  c.lists.find? fun l => l.hub == hub && l.listId == id &&
    (match l.gone with | some g => decide (f.toNat < g.toNat) | none => true)

/-- The checks of R111 and R112 on a descriptor of a frame's row list; R109's quota apart. -/
def Engine.descOk (e : Engine) (h : Fn) (f : BitVec 48) (row : Nat) (d : BitVec 256) : Bool :=
  dFormOk d row && decide (dCtx d < (e.hold h).ctxEntries) &&
  match e.dev? (dDev d) with
  | none => false
  | some v =>
    bitOf (e.hold h).portSet v.root.val &&
    (if dKind d = 1 then
      v.hub.isSome && (match e.commons.listAt (dDev d) (dList d) f with | some l => l.holding == h | none => false)
    else v.owner == h && v.hub.isNone)

/-- A candidate for a row: list index, descriptor, port, charge, span, and for a ROWRATE one whether its plot
stages it. -/
structure Cand where
  index : Nat
  raw : BitVec 256
  port : PortId
  charge : Nat
  span : Nat
  fits : Option Bool
  deriving DecidableEq, Repr

/-- Order of R118: latest start earliest first, that is span longest first, ties in list order. -/
def orderCands (l : List Cand) : List Cand := sortBy (fun c => 1000000000 - c.span) l

/-- Admission of R119 over candidates in the order of R118, with the charges admitted so far by port. -/
def admission (regions : PortId → Nat × Nat) : List Cand → (PortId → Nat) → List Cand
  | [], _ => []
  | c :: rest, used =>
    let (s, cap) := regions c.port
    let u := used c.port
    if decide (c.span ≤ 60500) && decide (u + c.charge ≤ cap) && decide (10 * s + 10 * u + c.span ≤ 62500) then
      c :: admission regions rest (fun p => if p = c.port then u + c.charge else used p)
    else admission regions rest used

/-- The path of every device as it stands now. -/
def Engine.allPaths (e : Engine) : Map Path := e.commons.devs.map fun x => (x.1, e.commons.path (BitVec.ofNat 20 x.1))

/-- A device's path as it stood at a frame's headland (R119); as it stands where no headland of the frame has passed. -/
def Engine.headPath (e : Engine) (f : BitVec 48) (d : DevNum) : Path :=
  match e.headPaths.find? (·.1 == f) with
  | some x => (mget x.2 d.toNat).getD []
  | none => e.commons.path d

/-- A candidate made of a descriptor. -/
def Walk.cand (w : Walk) (e : Engine) (index : Nat) (d : BitVec 256) (fits : Option Bool) : Cand :=
  let cost := dCost (e.headPath w.frame (dDev d)) d
  { index, raw := d, port := match e.rootOf (dDev d) with | some p => p | none => 0, charge := cost.1, span := cost.2,
    fits }

/-- Region S and C of a port at the headland. -/
def Walk.regionOf (w : Walk) (p : PortId) : Nat × Nat := (w.regions[p.val]?).getD (200, 0)

/-! ## Expected lists (R142) -/

/-- A list and the lists that it nests, in entry order; none when one is missing. -/
def Commons.nest (c : Commons) (f : BitVec 48) : Nat → PlantedList → Option (List PlantedList)
  | 0, _ => none
  | n + 1, l =>
    l.entries.foldl (fun acc x =>
      if !rNested x then acc
      else match acc, c.listAt (rDev x) (rChild x) f with
        | some a, some ch => (Commons.nest c f n ch).map fun b => a ++ b
        | _, _ => none) (some [l])

/-- The expected records of a list: its leaf entries and its children's, the child hub kept at the first record
of each expansion (R142). -/
def Commons.expand (c : Commons) (f : BitVec 48) : Nat → PlantedList → List Expect
  | 0, _ => []
  | n + 1, l =>
    l.entries.flatMap fun x =>
      if rNested x then
        match c.listAt (rDev x) (rChild x) f with
        | none => []
        | some ch =>
          let xs := Commons.expand c f n ch
          match xs with
          | [] => []
          | y :: ys => { y with heads := (rDev x, xs.length) :: y.heads } :: ys
      else [{ dev := rDev x, ep := rEp x, limit := rLimit x, heads := [] }]

/-- Whether an image read agrees with the hub table (R142). -/
def imageAgrees (l : PlantedList) (bs : List Byte) : Bool := bs == imageBytes l

/-! ## Staging -/

/-- The strobe of a row has passed (R30). -/
def Engine.rowPast (e : Engine) (f : BitVec 48) (row : Nat) : Bool :=
  e.clk.started && (decide (f.toNat < e.clk.frame.toNat) || (f == e.clk.frame && decide (row ≤ e.clk.row)))

/-- An image failure (R142): the entry, the FAILED sheaf, and the descriptor is done. R142 has it treated as failed under
R145, whose table has no line and no cause for it: one record with status 3, and no entry of kind 0x0016 beside the one of
kind 0x0015 (DESIGN CHOICE, log entry 45). -/
def failImage (d : Staged) (e : Engine) : Engine :=
  let e := whenE (!d.relayed) (attn d.holding 0x15 (object := dDev d.raw) (index := d.frame.setWidth 32)
    (argument := BitVec.ofNat 32 (dList d.raw))) e
  let x := { d.sheaf e.clk.etc with failed := true, records := d.single 3 }
  doneStaged d (deliver d x imageCause e)

/-- Issue the read of the first list still to be read, or finish the expected list; a list that has left the hub table
agrees with no image (R142). -/
def readImages (id : Nat) (e : Engine) : Engine :=
  match e.staged? id with
  | none => e
  | some d =>
    match d.toRead with
    | [] =>
      match e.commons.listAt (dDev d.raw) (dList d.raw) d.frame with
      | none => failImage d e
      | some l => modStaged id (fun d => { d with phase := .ready, expect := e.commons.expand d.frame 6 l }) e
    | (hub, li) :: _ =>
      match e.commons.listAt hub li d.frame with
      | none => failImage d e
      | some l => hostRead d.holding l.image (16 + 8 * l.entries.length) (.reapImage id) e

/-- Begin the out-slot reads of a SOLO-OUT (R110), or make the descriptor ready. -/
def readSlot (id attempt : Nat) (e : Engine) : Engine :=
  match e.staged? id with
  | none => e
  | some d =>
    if dKind d.raw = 3 then
      hostRead d.holding (dSlot d.raw) 8 (.outSlot id) (modStaged id (fun d => { d with phase := .fetchSlot 1 attempt }) e)
    else modStaged id (fun d => { d with phase := .ready }) e

/-- Whether the context of a SOLO descriptor suits it (R113). -/
def soloOk (d c : BitVec 256) : Bool := ctxOk c && ctxDev c == dDev d && ctxEp c == dEp d

/-- A SOLO descriptor's context is known: invalid (R113), or on to the out slot. -/
def soloContext (d : Staged) (c : BitVec 256) (e : Engine) : Engine :=
  if soloOk d.raw c then readSlot d.id 1 e
  else if d.relayed then endRelayed d .invalid (unstage d.id e)
  else settleFrame d.holding d.frame (d.noteInvalid (unstage d.id e))

/-- Put a descriptor into a plot's staging for one row and begin the reads it needs (R112, R113, R142). A ROWRATE SOLO-OUT
is read and sent anew in each row: a slot that is busy or unreadable in one row keeps it from that row alone, though R103 and
R110 say that it sends nothing in the frame (DESIGN CHOICE, log entry 45). -/
def stageOne (d : Staged) (e : Engine) : Engine :=
  let (id, e) := newId e
  let d := { d with id := id }
  let e := { e with staged := e.staged ++ [d] }
  if dKind d.raw = 1 then
    match (e.commons.listAt (dDev d.raw) (dList d.raw) d.frame).bind (e.commons.nest d.frame 6) with
    | none => failImage d e
    | some ls =>
      readImages id (modStaged id (fun d => { d with phase := .fetchImage, toRead := ls.map fun l => (l.hub, l.listId) }) e)
  else
    match e.ctxLine d.holding (dCtx d.raw) with
    | some l => soloContext d l.raw (modStaged id (fun d => { d with phase := .fetchContext }) e)
    | none => hostRead d.holding ((e.hold d.holding).ctxAddr (dCtx d.raw)) 32 (.soloContext id)
        (modStaged id (fun d => { d with phase := .fetchContext }) e)

/-- Stage a descriptor again in a plot if its latest start has not passed; else it is an overrun (R259). -/
def restage (plot : Nat) (d : Staged) (e : Engine) : Engine :=
  let now := e.clk.started && d.frame == e.clk.frame && d.row == e.clk.row
  let past := (e.rowPast d.frame d.row && !now) || (now && decide (62500 < e.t + d.span))
  if past || d.dropped then doneStaged d (overrun d e)
  else stageOne { d with plot, phase := .fetchContext, data := [], expect := [], toRead := [], buf := none } (unstage d.id e)

/-- The staged form of a candidate. -/
def Cand.toStaged (c : Cand) (h : Fn) (plot : Nat) (f : BitVec 48) (row : Nat) (adopted : Bool) : Staged :=
  { id := 0, holding := h, plot, port := c.port, frame := f, row, listIndex := c.index, raw := c.raw,
    charge := c.charge, span := c.span, phase := .fetchContext, adopted }

/-- The walk was taken up within its frame at a later row: it only learns the ROWRATE descriptors of this one (R258). -/
def Walk.before (w : Walk) : Bool := match w.since with | some s => decide (w.row < s) | none => false

/-- What a walk has learnt of a ROWRATE descriptor of its row 0: whether its plot stages it (R114). -/
def Walk.known (w : Walk) (index : Nat) : Option Bool := (w.rowrate.find? (·.index == index)).bind (·.staged)

/-- Note that a descriptor of a holding is admitted on a port for a row (R121, R122). -/
def noteAdmitted (h : Fn) (f : BitVec 48) (row : Nat) (p : PortId) (e : Engine) : Engine :=
  if e.admitted.contains (h, f, row, p) then e else { e with admitted := e.admitted ++ [(h, f, row, p)] }

/-- The walk has admitted a descriptor of a holding on a port for a row. In the present row, where a spare or a takeover has
taken the walk up within it, a holding that had no region gets it, and its C leaves the credit again (R121, R258, R274;
DESIGN CHOICE, log entry 45). -/
def admitOne (h : Fn) (f : BitVec 48) (row : Nat) (p : PortId) (e : Engine) : Engine :=
  let now := e.clk.started && f == e.clk.frame && row == e.clk.row && !e.admitted.contains (h, f, row, p)
  let c := ((e.hold h).reserve[p.val]).c
  noteAdmitted h f row p (whenE now (modArb p fun a => { a with
    closed := vmod a.closed h fun _ => false, credit := vmod a.credit h fun x => x - c }) e)

/-- A descriptor whose device the partner runs goes there (R266); with the yoke link lost its result is lost. -/
def relayStaged (d : Staged) (e : Engine) : Engine :=
  if e.yoke.link != .up && !(e.yoke.partnerLost && e.yoke.takeover != .split) then lostRelay d e
  else
    let (id, e) := newId e
    toPartner (.work (.descriptor d.holding d.frame d.row d.listIndex d.raw))
      { e with staged := e.staged ++ [{ d with id := id, phase := .away }] }

/-- Serve one row of a walk: validity, admission, and the staging of what lies in the plot's slice (R109, R111,
R112, R114, R118, R119, R126, R266). Where the spec leaves it open (log entry 45): a SKIP descriptor is ignored whatever
its other bits, and only ROWRATE descriptors that pass every other check of R111 use the quota (DESIGN CHOICE). -/
def serveRow (p : PlotId) (w : Walk) (units : List (BitVec 256)) (e : Engine) : Engine :=
  let h := (e.plot p).holding
  let f := w.frame
  let r := w.row
  let watched (d : BitVec 256) : Bool := e.pwr.chip != .fallow ||
    (match e.rootOf (dDev d) with | some q => bitOf e.pwr.watch q.val | none => true)
  let gone (x : BitVec 256 × Nat) : Bool := w.adopted &&
    e.yoke.landed.any (Staged.isRec ((w.cand e x.2 x.1 none).toStaged h p.val f r true))
  let real := (units.zipIdx).filter fun x => dKind x.1 != 0 && watched x.1 && !gone x
  let quota := e.rowrateQuota h
  -- validity, the ROWRATE quota in list order
  let sorted := real.foldl (fun (acc : List (BitVec 256 × Nat) × List (BitVec 256 × Nat) × Nat) x =>
      let ok := e.descOk h f r x.1 && (!dRowrate x.1 || decide (acc.2.2 < quota))
      if ok then (acc.1 ++ [x], acc.2.1, if dRowrate x.1 then acc.2.2 + 1 else acc.2.2)
      else (acc.1, acc.2.1 ++ [x], acc.2.2)) ([], [], 0)
  let e := if w.before then e else forAll sorted.2.1 (fun x => noteInvalid h f r (logIndex w.adopted x.2)) e
  let e := if r != 0 || w.adopted || (e.hold h).rowrateHost == sorted.2.2 || (match (e.hold h).fieldMap with
      | some m => m.managed
      | none => true) then e
    else shadowRowrate h (modHold h (fun x => { x with rowrateHost := sorted.2.2 }) e)
  let own := sorted.1.map fun x => w.cand e x.2 x.1 (if dRowrate x.1 then w.known x.2 else none)
  let carried := if r = 0 then [] else w.rowrate.map fun x => w.cand e (x.index + 4096) x.raw x.staged
  let all := carried ++ own
  let here := all.filter fun c => e.runsDev (dDev c.raw)
  let good := admission w.regionOf (orderCands here) (fun _ => 0)
  let e := if w.before then e else forAll good (fun c => admitOne h f r c.port) e
  let mine (c : Cand) : Bool := decide (w.base ≤ dCtx c.raw) && decide (dCtx c.raw < w.base + w.count)
  let lost (c : Cand) : Bool := decide (w.top ≤ dCtx c.raw)
  let fold := all.foldl (fun (acc : Engine × Nat × List RowRate) c =>
      let (e, n, rr) := acc
      let d := c.toStaged h p.val f r w.adopted
      let relay := !e.runsDev (dDev c.raw)
      let keep (fits : Option Bool) : List RowRate :=
        if dRowrate c.raw then rr ++ [{ index := c.index % 4096, raw := c.raw, staged := fits }] else rr
      if w.before then (e, n, keep c.fits)
      else if !relay && !good.contains c then (overrun d e, n, keep c.fits)
      else if !mine c then (whenE (lost c) (overrun d) e, n, keep c.fits)
      else
        let fits := c.fits.getD (decide (n < 768))
        let n := if c.fits.isNone && fits then n + 1 else n
        if !fits || (e.rowPast f r && w.since != some r) then (overrun d e, n, keep (some fits))
        else if relay then (relayStaged d e, n, keep (some fits))
        else (stageOne d e, n, keep (some fits))) (e, w.stagedCount, [])
  modPlot p (fun q => { q with
    walks := lmod (fun v => v.frame == f && v.adopted == w.adopted)
      (fun v => { v with stagedCount := fold.2.1, rowrate := fold.2.2 }) q.walks }) fold.1

/-- The walk of a plot over the own or the adopted field map that waits for a read. -/
def Engine.walkOf (e : Engine) (p : PlotId) (adopted : Bool) (row : Option Nat) : Option Walk :=
  (e.plot p).walks.find? fun w => w.adopted == adopted &&
    (match row with | none => w.table.isNone | some r => w.table.isSome && w.row == r)

/-- Update a walk. -/
def modWalk (p : PlotId) (w : Walk) (f : Walk → Walk) : Engine → Engine :=
  modPlot p fun q => { q with walks := lmod (fun v => v.frame == w.frame && v.adopted == w.adopted) f q.walks }

/-- A walk goes on to its next row: after row 0, to the first row that it stages. -/
def nextRow (p : PlotId) (w : Walk) : Engine → Engine :=
  modWalk p w fun v => { v with row := if v.row = 0 then max 1 (v.since.getD 0) else v.row + 1, late := false }

/-- End a walk. -/
def endWalk (p : PlotId) (w : Walk) (e : Engine) : Engine :=
  settleFrame (e.plot p).holding w.frame (modPlot p (fun q => { q with
    walks := q.walks.filter fun v => !(v.frame == w.frame && v.adopted == w.adopted) }) e)

/-- Whether a row table entry breaks R106. -/
def rowEntryBad (x : BitVec 128) : Bool := decide (4096 < fldN x 64 16) || fldN x 0 5 != 0 || fldN x 80 48 != 0

/-- The row of a walk has begun: its list is not read any more (R30), but for row 0 in a walk taken up within its frame,
which learns the ROWRATE descriptors from it (R258). -/
def Engine.rowGone (e : Engine) (w : Walk) : Bool := e.rowPast w.frame w.row && !(w.row == 0 && w.since.isSome)

/-- Bring a walk to its next read: empty and bad rows are passed, the others' lists are read in row order
(R106, R112); after row 15 the walk ends. Row 0 comes first in every walk, for its ROWRATE descriptors. -/
def walkOn (p : PlotId) (frame : BitVec 48) (adopted : Bool) : Nat → Engine → Engine
  | 0, e => e
  | n + 1, e =>
    match (e.plot p).walks.find? fun w => w.frame == frame && w.adopted == adopted with
    | none => e
    | some w =>
      if 15 < w.row then endWalk p w e
      else
        let h := (e.plot p).holding
        let next := nextRow p w
        match (w.table.getD [])[w.row]? with
        | none => endWalk p w e
        | some x =>
          if rowEntryBad x then
            walkOn p frame adopted n (next (serveRow p w []
              (sayOnce h frame 0x12 w.row (BitVec.ofNat 32 w.row) e)))
          else if fldN x 64 16 = 0 || e.rowGone w then walkOn p frame adopted n (next (serveRow p w [] e))
          else hostRead h (fld x 0 64) (32 * fldN x 64 16) (.rows p adopted (some (finOf 16 w.row))) e

/-- A walk of one plot as it begins, with what R119 and R233 fix at its headland (R105, R112, R258). -/
def Engine.newWalk (e : Engine) (p : PlotId) (frame : BitVec 48) (adopted : Bool) (since : Option Nat) : Walk :=
  let h := (e.plot p).holding
  { frame, adopted, since, regions := (allFin 32).map fun x => ((e.region h x frame).s, (e.region h x frame).c),
    base := (e.plot p).base, count := (e.plot p).count
    top := ((e.slicePlots h).map fun q => (e.plot q).base + (e.plot q).count).foldl max 0 }

/-- Note a walk in a plot. -/
def addWalk (p : PlotId) (w : Walk) : Engine → Engine := modPlot p fun q => { q with walks := q.walks ++ [w] }

/-- A plot of the holding has a walk of a frame over the own or the adopted field map. -/
def Engine.hasWalk (e : Engine) (p : PlotId) (frame : BitVec 48) (adopted : Bool) : Bool :=
  (e.plot p).walks.any fun w => w.frame == frame && w.adopted == adopted

/-- End every walk of a holding's frame over one field map. -/
def endWalks (h : Fn) (frame : BitVec 48) (adopted : Bool) (e : Engine) : Engine :=
  let e : Engine := { e with plots := e.plots.map fun q =>
    if q.holding == h then { q with walks := q.walks.filter fun v => !(v.frame == frame && v.adopted == adopted) } else q }
  -- their reads are not taken for another frame's
  let idle (r : ReadTag) : Bool :=
    match r with
    | .rows p a _ => (e.plot p).holding == h && a == adopted && !(e.plot p).walks.any (·.adopted == adopted)
    | _ => false
  settleFrame h frame (forgetReads idle e)

/-- The holding gets no periodic service in a frame (R103): its walks end, and what they had staged and not started goes
without a record. -/
def dropFrame (h : Fn) (frame : BitVec 48) (adopted : Bool) (e : Engine) : Engine :=
  let gone (d : Staged) : Bool := d.holding == h && d.frame == frame && d.adopted == adopted && !d.relayed && d.phase != .started
  endWalks h frame adopted { e with staged := e.staged.filter fun d => !gone d }

/-- Read the row table of a walk from its latched slot entry (R105). -/
def readTable (p : PlotId) (entry : Qword) (adopted : Bool) (e : Engine) : Engine :=
  hostRead (e.plot p).holding (entry &&& 0xFFFFFFFFFFFFFF00#64) 256 (.rows p adopted none) e

/-- Start the walk of one plot from a latched slot entry (R105, R112, R258). -/
def startWalk (p : PlotId) (frame : BitVec 48) (entry : Qword) (adopted : Bool) (since : Option Nat) (e : Engine) : Engine :=
  readTable p entry adopted (addWalk p (e.newWalk p frame adopted since) e)

/-- The candidate of a relayed descriptor. -/
def Staged.cand (d : Staged) : Cand :=
  { index := d.listIndex, raw := d.raw, port := d.port, charge := d.charge, span := d.span, fits := none }

/-- Admission of the descriptors of a row that the partner has relayed, at the strobe (R119, R266): in the order of R118,
after the holding's own ones in its region (DESIGN CHOICE, log entry 47). -/
def admitRelayed (f : BitVec 48) (row : Nat) (h : Fn) (e : Engine) : Engine :=
  let here := e.staged.filter fun d => d.holding == h && d.frame == f && d.row == row && d.phase != .away
  let used (p : PortId) : Nat := ((here.filter fun d => !d.relayed && d.port == p).map (·.charge)).sum
  let theirs := here.filter (·.relayed)
  let regions (p : PortId) : Nat × Nat := ((e.region h p f).s, (e.region h p f).c)
  let good := admission regions (orderCands (theirs.map (·.cand))) used
  forAll theirs (fun d e =>
    if good.contains d.cand then noteAdmitted h f row d.port e else doneStaged d (overrun d e)) e

/-- The partner's field map is served here after a takeover (R277). -/
def Holding.servesPartner (x : Holding) : Bool := x.adoptedMap.isSome

/-- The field map of a holding that serves a frame (R104). -/
def Holding.mapFor (x : Holding) (f : BitVec 48) : Option FieldMap :=
  match x.fieldMapNext with
  | some (m, g) => if g.toNat ≤ f.toNat then m else x.fieldMap
  | none => x.fieldMap

end Sys2Proof.Machine
end

