-- ==== Sys2Proof/Machine/LinkOps.lean ====
section
/-! DEFINITION. The link layer of a root port (R39, R407) and the parts of its port state machine (R72, R73) that
touch nothing below the port. -/

namespace Sys2Proof.Machine

/-- The change bits of R74. -/
def chConnect : BitVec 16 := 1
/-- ENABLE_CHG. -/
def chEnable : BitVec 16 := 2
/-- RESUME_CHG. -/
def chResume : BitVec 16 := 4
/-- RESET_CHG. -/
def chReset : BitVec 16 := 8
/-- OC_CHG. -/
def chOc : BitVec 16 := 16
/-- QUAR_CHG. -/
def chQuar : BitVec 16 := 32

/-- Set change bits of a root port. -/
def rhChange (p : PortId) (b : BitVec 16) : Engine → Engine := modRh p fun r => { r with changes := r.changes ||| b }

/-- Count a bounce of a root port (R73). -/
def rhBounce (p : PortId) (e : Engine) : Engine :=
  modRh p (fun r => { r with bounces := (r.bounces.filter fun b => decide (e.now < b + 1000000000)) ++ [e.now] }) e

/-- Start training: release transmit-disable, IDLE at the highest rate a root port may use, the trial timer
(R39). -/
def linkTrain (l : Link) : Link := { l with state := .ltrain, txDisable := false, rate := .r5000, lock := false }

/-- The link may leave LDOWN: the enable stands, no retry hold-off runs, the last scan showed signal, the SerDes
is on (R39, R71). -/
def Link.mayTrain (l : Link) : Bool := l.state == .ldown && l.enable && !l.holdoff && !l.los && l.serdes

/-- Enter LDOWN. While the enable stands a retry hold-off begins, and the first failure of a run is logged with
its reason: 1 training failure, 2 RTT out of range, 3 link failed (R407, R223). -/
def linkDown (p : PortId) (reason : Nat) (rtt : Nat) (e : Engine) : Engine :=
  let l := (e.port p).link
  let e := modLink p (fun l => { l with
    state := .ldown, txDisable := true, lock := false, suspendWait := false, byOrder := false, scrub := false
    holdoff := l.enable, run := if l.enable then l.run + 1 else 0, rtt := 0 }) e
  whenE (l.enable && l.run == 0)
    (attn pf 0x0A (port := p.val) (index := BitVec.ofNat 32 reason) (argument := BitVec.ofNat 32 rtt)) e

/-- Withdraw the standing enable (R39, R407). -/
def linkDisable (p : PortId) : Engine → Engine :=
  modLink p fun l => { l with
    enable := false, state := .ldown, txDisable := true, lock := false, holdoff := false, run := 0, suspendWait := false
    byOrder := false, scrub := false, rtt := 0 }

/-- Give the standing enable; the link trains at once where it may, else at the next scan with signal (R407). -/
def linkEnable (p : PortId) : Engine → Engine :=
  modLink p fun l => { l with enable := true, run := 0, holdoff := false }

/-- "Link up" at the port state machine (R72): the debounce timer in POWERED. -/
def rhUp (p : PortId) (e : Engine) : Engine :=
  let r := (e.port p).rh
  if r.quar then e
  else match r.state with
  | .powered => modRh p (fun r => { r with debounce := true }) e
  | .resetting => rhChange p chReset (modRh p (fun r => { r with state := .enabled }) e)
  | .resuming => rhChange p chResume (modRh p (fun r => { r with state := .enabled }) e)
  | _ => e

/-- "Link lost" at the port state machine (R72). -/
def rhLost (p : PortId) (e : Engine) : Engine :=
  let r := (e.port p).rh
  if r.quar then e
  else match r.state with
  | .powered => if r.debounce then rhBounce p (modRh p (fun r => { r with debounce := false }) e) else e
  | .disabled | .enabled | .suspended =>
    let e := modRh p (fun r => { r with state := .powered, connected := false, debounce := false }) e
    let b := if r.state == .enabled then chConnect ||| chEnable else chConnect
    rhBounce p (rhChange p b e)
  | _ => e

/-- Order LINK-RESET on the root link (R39): from LUP or LMEND. -/
def linkReset (p : PortId) (us : Nat) (e : Engine) : Engine :=
  emitWire (.linkReset p us) (modLink p (fun l => { l with
    state := .lreset, resetUs := us, scrub := false, suspendWait := false }) e)

/-- Enter LQUIET (R39). -/
def linkQuiet (p : PortId) (e : Engine) : Engine :=
  emitWire (.suspend p) (modRh p (fun r => { r with state := .suspended })
    (modLink p (fun l => { l with state := .lquiet, suspendWait := false, lock := false }) e))

/-- The reset time of an order in us: 0 is 12, values below 10 read as 10 (R39, R89). -/
def resetTime (us : Nat) : Nat := if us = 0 then 12 else max 10 us

/-- No transaction is outstanding on the port (R39). -/
def Engine.portIdle (e : Engine) (p : PortId) : Bool := (e.port p).arb.outstanding.isEmpty && (e.port p).arb.grant.isNone

/-- Power a root port on (R72): POWERED with the standing enable, or DISABLED and held while QUAR is set. -/
def rhPowerOn (p : PortId) (e : Engine) : Engine :=
  if (e.port p).rh.state != .off then e
  else
    let e := modLink p (fun l => { l with serdes := true }) e
    if (e.port p).rh.quar then modRh p (fun r => { r with state := .disabled, power := true }) e
    else linkEnable p (modRh p (fun r => { r with state := .powered, power := true }) e)

/-- Power on at the governor's pace (R71, R337): at once when no step waits and no droop holds the governor. -/
def orderPowerOn (p : PortId) (e : Engine) : Engine :=
  if e.pwr.gov.isEmpty && !e.pwr.droop then rhPowerOn p e
  else { e with pwr := { e.pwr with gov := e.pwr.gov ++ [.serdes p] } }

/-- Enter OFF (R72): counts cleared (R74). -/
def rhOff (p : PortId) (e : Engine) : Engine :=
  modLink p (fun l => { l with serdes := false }) (linkDisable p (modRh p (fun r => { r with
    state := .off, power := false, connected := false, debounce := false, recoveries := 0, discards := 0 }) e))

/-- Quarantine (R72, R73): DISABLED, QUAR and QUAR_CHG, the link held in electrical idle. -/
def rhQuarantine (p : PortId) (e : Engine) : Engine :=
  rhChange p chQuar (linkDisable p (modRh p (fun r => { r with state := .disabled, quar := true, debounce := false }) e))

end Sys2Proof.Machine
end

