-- ==== Sys2Proof/Machine/TreeOps.lean ====
section
/-! DEFINITION. The hub tables and what acts on them (03_tree.md): positions, commons-control transfers (R77),
orders to ports (R72), detach (R85, R86), resets (R94, R95), enumeration (R82), change bits (R77). -/

namespace Sys2Proof.Machine

/-! ## Positions -/

/-- Route and depth of the device at a position (R46). -/
def Engine.routeAt (e : Engine) : Position → Dword × Nat
  | .root _ => (0, 0)
  | .hubPort hub port =>
    match e.dev? hub with
    | some v => (routeBelow v.route v.depth port, v.depth + 1)
    | none => (0x0C000000#32, 0)

/-- Root port of a position. -/
def Engine.rootAt (e : Engine) : Position → Option PortId
  | .root p => some p
  | .hubPort hub _ => e.rootOf hub

/-- The position names a root port, or a port that a bound hub has. -/
def Engine.positionOk (e : Engine) : Position → Bool
  | .root _ => true
  | .hubPort hub port =>
    match (e.dev? hub).bind (·.hub) with
    | some u => decide (port < u.ports)
    | none => false

/-- Recorded owner of a position (R81, R235). -/
def Engine.ownerAt (e : Engine) : Position → Fn
  | .root p => (e.port p).rh.owner
  | .hubPort hub port =>
    match (e.dev? hub).bind (·.hub) with
    | some u => (u.port port).owner
    | none => pf

/-- The device bound to a position. -/
def Engine.deviceAt (e : Engine) (pos : Position) : Option (Nat × Dev) :=
  e.commons.devs.find? fun x => x.2.pos == pos

/-- A device lies at or below a position, seen through at most `n` hubs. -/
def Commons.below (c : Commons) (pos : Position) : Nat → DevNum → Bool
  | 0, _ => false
  | n + 1, d =>
    match mget c.devs d.toNat with
    | none => false
    | some v => v.pos == pos || (match v.pos with | .root _ => false | .hubPort hub _ => Commons.below c pos n hub)

/-- The devices at or below a position, deepest first. -/
def Engine.subtree (e : Engine) (pos : Position) : List DevNum :=
  let l := e.commons.devs.filter fun x => e.commons.below pos 7 (BitVec.ofNat 20 x.1)
  (sortBy (fun x => 10 - x.2.depth) l).map fun x => BitVec.ofNat 20 x.1

/-- An entry naming a position: hub number (0 for a root port) and port; to the PF, and to the owner when asked
(R223). -/
def attnPos (kind : Nat) (pos : Position) (owner : Bool) (index argument : Dword) (e : Engine) : Engine :=
  let (d, n) := match pos with | .root p => ((0 : DevNum), p.val) | .hubPort hub port => (hub, port)
  if owner then attnOwner (e.ownerAt pos) kind d n index argument e
  else attn pf kind (object := d) (port := n) (index := index) (argument := argument) (e := e)

/-- A commons event: an entry to every holding whose port set has the root port (R223, R240). -/
def attnPorts (ports : Dword) (index argument : Dword) (e : Engine) : Engine :=
  forAll (e.created.filter fun h => (e.hold h).portSet &&& ports != 0)
    (fun h => attn h 0x46 (index := index) (argument := argument) (commons := true)) e

/-- Update a hub. -/
def modHub (d : DevNum) (f : HubInfo → HubInfo) : Engine → Engine :=
  modDev d fun v => { v with hub := v.hub.map f }

/-- Update a hub's port record. -/
def modHubPort (hub : DevNum) (port : Nat) (f : HubPort → HubPort) : Engine → Engine :=
  modHub hub fun u => { u with down := mput u.down port (f (u.port port)) }

/-- Set the recorded owner of a position. -/
def setOwner (pos : Position) (h : Fn) : Engine → Engine :=
  match pos with
  | .root p => modRh p fun r => { r with owner := h }
  | .hubPort hub port => modHubPort hub port fun x => { x with owner := h }

/-! ## Commons-control transfers (R77) -/

/-- Begin a commons-control transfer to a bound device, or to the unnumbered one at a position (number 0). -/
def addXfer (port : PortId) (dev : DevNum) (route : Dword) (depth : Nat) (setup : BitVec 96) (out : List Byte)
    (purpose : Purpose) (e : Engine) : Engine :=
  let (id, e) := newId e
  let x : Xfer := { id, port, dev, route, depth, setup, out, got := [], stage := .setup, attempts := 0, ping := false,
                    busy := false, nakWait := false, purpose, result := none }
  modCommons (fun c => { c with xfers := c.xfers ++ [x] }) e

/-- Begin a transfer to a numbered device. -/
def addXferTo (d : DevNum) (setup : BitVec 96) (out : List Byte) (purpose : Purpose) (e : Engine) : Engine :=
  match e.dev? d with
  | none => e
  | some v => addXfer v.root d v.route v.depth setup out purpose e

/-- The transfer with a handle. -/
def Engine.xfer? (e : Engine) (id : Nat) : Option Xfer := e.commons.xfers.find? (·.id == id)

/-- Update a transfer. -/
def modXfer (id : Nat) (f : Xfer → Xfer) : Engine → Engine :=
  modCommons fun c => { c with xfers := lmod (·.id == id) f c.xfers }

/-- Take a transfer off. -/
def dropXfer (id : Nat) : Engine → Engine :=
  modCommons fun c => { c with xfers := c.xfers.filter fun x => x.id != id }

/-- GET_PORT_STATE of a hub's port (R89). -/
def readPort (hub : DevNum) (port : Nat) (fresh : Bool) : Engine → Engine :=
  addXferTo hub (setupPacket 0x0101 port 2 true 0 16) [] (.portState hub port fresh)

/-- SET_PORT_STATE of a hub's port (R89). -/
def orderHubPort (hub : DevNum) (port order us : Nat) (purpose : Purpose) : Engine → Engine :=
  addXferTo hub (setupPacket 0x0102 port 2 false (order + 256 * us) 0) [] purpose

/-- The controller's copy of E of endpoint 0 that a transfer runs with (R62). -/
def Engine.xferE (e : Engine) (x : Xfer) : BitVec 16 :=
  if x.dev = 0 then
    match x.purpose with
    | .enumStep id => (match e.commons.enums.find? (·.id == id) with | some n => n.e0 | none => 0)
    | _ => 0
  else match e.dev? x.dev with
  | some v => v.e0
  | none => 0

/-- Advance that copy (R62). -/
def bumpE (x : Xfer) : Engine → Engine :=
  if x.dev = 0 then
    match x.purpose with
    | .enumStep id => modCommons fun c => { c with enums := lmod (·.id == id) (fun n => { n with e0 := n.e0 + 1 }) c.enums }
    | _ => fun e => e
  else modDev x.dev fun v => { v with e0 := v.e0 + 1 }

/-- The transaction that a transfer presents next: kind and payload length (R63). -/
def Xfer.next (x : Xfer) : TxKind × Nat :=
  let total := setupLen x.setup
  match x.stage with
  | .setup => (.setup, 12)
  | .data =>
    if setupIn x.setup then (.in_, min 1024 (total - x.got.length))
    else if x.ping then (.ping, 0) else (.out, min 1024 (total - x.got.length))
  | .status =>
    if setupIn x.setup && total != 0 then (if x.ping then (.ping, 0) else (.out, 0)) else (.in_, 0)

/-! ## Planted lists -/

/-- Whether some planted list nests another. -/
def Commons.nests (c : Commons) (hub : DevNum) (id : Nat) : Bool :=
  c.lists.any fun l => l.gone.isNone && l.entries.any fun x => rNested x && rDev x == hub && rChild x == id

/-- Recompute which lists are nested (R154). -/
def Commons.markNested (c : Commons) : Commons :=
  { c with lists := c.lists.map fun l => { l with nested := c.nests l.hub l.listId } }

/-- Record a list as planted, and tell the partner (R154, R265). -/
def recordList (l : PlantedList) (e : Engine) : Engine :=
  shadow (.reapList l true) (modCommons (fun c => Commons.markNested { c with lists := c.lists ++ [l] }) e)

/-- PLANT_REAP_LIST of an image (R89). -/
def plantXfer (l : PlantedList) (purpose : Purpose) : Engine → Engine :=
  addXferTo l.hub (setupPacket 0x0104 0 0 false l.listId (imageBytes l).length) (imageBytes l) purpose

/-- CLEAR_REAP_LIST of one id, or all with `all` (R89). -/
def clearXfer (hub : DevNum) (value : Nat) : Engine → Engine :=
  addXferTo hub (setupPacket 0x0105 0 0 false value 0) [] (.clearList hub none [])

/-- Forget lists from frame `g` on and send the hub the clear of each (R155). -/
def clearLists (q : PlantedList → Bool) (g : BitVec 48) (e : Engine) : Engine :=
  let gone := e.commons.lists.filter fun l => l.gone.isNone && q l
  let e := modCommons (fun c => Commons.markNested { c with
    lists := lmod (fun l => l.gone.isNone && q l) (fun l => { l with gone := some g }) c.lists }) e
  forAll gone (fun l e => shadow (.reapList l false) (clearXfer l.hub l.listId e)) e

/-- Replant a list from its image: the image is read, and its plant follows (R145). -/
def replant (l : PlantedList) (e : Engine) : Engine :=
  let (id, e) := newId e
  let e := modCommons (fun c => { c with xfers := c.xfers ++
    [{ id, port := (e.rootOf l.hub).getD 0, dev := l.hub, route := 0, depth := 0, setup := 0, out := [], got := [],
       stage := .setup, attempts := 0, ping := false, busy := true, nakWait := false,
       purpose := .replant l.hub l.listId, result := none }] }) e
  hostRead l.holding l.image (16 + 8 * l.entries.length) (.replant id) e

/-- A replant failed: the entry to the PF, the list stays recorded (R145). -/
def replantFailed (hub : DevNum) (listId : Nat) (e : Engine) : Engine :=
  attn pf 0x17 (object := hub) (index := e.frame32) (argument := BitVec.ofNat 32 listId) (e := e)

/-! ## Detach and reset -/

/-- The commons-control transfers that a device carried end with a transfer status; the commands that ordered
them end with 0x87 (R154, R214). -/
def endXfers (q : Xfer → Bool) (status : Byte) (e : Engine) : Engine :=
  forAll (e.commons.xfers.filter fun x => q x && x.result.isNone) (fun x e =>
    let e := forAll (allFin 32) (fun p => dropTx p fun t => t.owner == .xfer x.id) e
    match x.purpose with
    | .enumStep _ => modXfer x.id (fun y => { y with result := some (status, 0), busy := false }) e
    | .plant _ (some src) =>
      finishWaiting (fun r => r.src == src && r.wait == .plant) 0x87 (dword2 := BitVec.ofNat 32 (256 * status.toNat))
        (e := dropXfer x.id e)
    | .plant _ none => modXfer x.id (fun y => { y with result := some (status, 0), busy := false }) e
    | .portOrder _ _ _ (some src) => finishWaiting (fun r => r.src == src) 0x87 (e := dropXfer x.id e)
    | .portRead _ _ src => finishWaiting (fun r => r.src == src) 0x87 (e := dropXfer x.id e)
    | .replant hub li => replantFailed hub li (dropXfer x.id e)
    | _ => dropXfer x.id e) e

/-- Stop tracking the alarms of a device. -/
def untrack (d : DevNum) : Engine → Engine :=
  modCommons fun c => { c with tracks := c.tracks.filter fun t => t.dev != d }

/-- Staged REAPs and SOLO transactions of a device or hub that are outstanding on the port are dropped there and
end as a `result` says. -/
def endStaged (q : Staged → Bool) (result : Staged → Engine → Engine) (e : Engine) : Engine :=
  forAll (e.staged.filter q) (fun d e =>
    let e := forAll (allFin 32) (fun p => dropTx p fun t => t.owner == .staged d.id) e
    doneStaged d (result d e)) e

/-- One device leaves the hub tables (R79, R85): items end with a status, the number is freed, a function's owner
gets a departure entry, a hub's lists go with it. -/
def unbind (status : Byte) (d : DevNum) (e : Engine) : Engine :=
  match e.dev? d with
  | none => e
  | some v =>
    let e := endItems (fun i => i.jr.dev == d) status e
    let e := endXfers (fun x => x.dev == d) 0x12 e
    let e := if v.hub.isSome then attnPorts (1#32 <<< v.root.val) 2 0 e
      else attn v.owner 0x03 (object := d) (port := v.root.val) (e := e)
    let e := untrack d e
    modCommons (fun c => { c with
      devs := mdel c.devs d.toNat, freed := c.freed ++ [(d, e.now)]
      lists := c.lists.filter fun l => l.hub != d, wakes := c.wakes.filter fun w => w.1 != d }) e

/-- The command that an enumeration reports to, and those that wait for the position (R214, R218). -/
def endEnum (n : Enum) (status : Nat) (dword2 : Dword) (e : Engine) : Engine :=
  let e := modCommons (fun c => { c with enums := c.enums.filter fun x => x.id != n.id
                                         xfers := c.xfers.filter fun x => x.purpose != .enumStep n.id }) e
  let e := finishWaiting (fun r => r.wait == .enumeration n.id) (BitVec.ofNat 8 status) (dword2 := dword2) (e := e)
  finishWaiting (fun r => match r.wait with | .devReset _ pos => pos == n.pos && n.auto | _ => false)
    (if status = 0x80 then 0x80 else 0x87) (dword2 := if status = 0x80 then dword2 else 0) (e := e)

/-- Commands whose wait is for an event of a port that no longer answers end with 0x87 (R214). -/
def endOrders (q : Position → Bool) (e : Engine) : Engine :=
  let mine (r : Running) : Bool :=
    match r.wait with
    | .portOrder pos _ => q pos
    | .devReset _ pos => q pos
    | _ => false
  forAll (e.fw.running.filter mine) (fun _ e => finishWaiting mine 0x87 (e := e)) e

/-- The device that an enumeration numbers has gone: the step in progress has failed with 0x12 (R82, R214, R223). -/
def enumGone (n : Enum) (e : Engine) : Engine :=
  let e := whenE (!n.waiting) (attnPos 0x08 n.pos false (BitVec.ofNat 32 n.step) 0x12) e
  endEnum n 0x87 (BitVec.ofNat 32 (n.step + 256 * 0x12)) e

/-- A detach at a position (R77, R85, R86): every device below it leaves the tables, deepest first. -/
def detach (pos : Position) (status : Byte) (e : Engine) : Engine :=
  let e := forAll (e.subtree pos) (unbind status) e
  let e := endOrders (fun p => !e.positionOk p) e
  forAll (e.commons.enums.filter fun n => n.pos == pos || !e.positionOk n.pos) enumGone e

/-- The reset point of a position (R95): entries of which a token has left end with 0x22, the others that have started
with 0x12, the copies of E become 0, the devices await their new numbering. -/
def resetSubtree (pos : Position) (e : Engine) : Engine :=
  let below := e.subtree pos
  let e := endOrders (fun p => match p with | .root _ => false | .hubPort hub _ => below.contains hub) e
  forAll below (fun d e =>
    let e := endItems (fun i => i.jr.dev == d && i.begun) 0x22 e
    let e := endItems (fun i => i.jr.dev == d) 0x12 e
    let e := endXfers (fun x => x.dev == d) 0x22 e
    let e := modDev d (fun v => { v with present := false, configured := false, e0 := 0 }) e
    forAll e.created (fun h e =>
      forAll ((e.hold h).ctxOf.filter fun y => y.1.1 == d) (fun y e =>
        match e.ctxLine h y.2 with
        | some _ => setCtx h y.2 (fun c => ctxSetE c 0) e
        | none => hostWrite h ((e.hold h).ctxAddr y.2 + 6) [0, 0] false e) e) e) e

/-! ## Orders to a port (R72) -/

/-- Root-port orders: none when the table does not list the order for the present state. -/
def orderRoot (p : PortId) (order us : Nat) (e : Engine) : Option Engine :=
  let r := (e.port p).rh
  match order, r.state with
  | 1, .off => some (orderPowerOn p e)
  | 2, .off => none
  | 2, _ => some (rhOff p (endOrders (· == .root p) (detach (.root p) 0x12 e)))
  | 3, .disabled | 3, .enabled =>
    if r.quar then none
    else
      let e := resetSubtree (.root p) e
      let e := endStaged (fun d => d.port == p && d.phase == .started) (fun d e =>
        if dKind d.raw = 1 then failReap d 3 6 0 e else failSolo d false e) e
      let e := modRh p (fun r => { r with state := .resetting }) e
      -- the link layer knows the order in LUP and LMEND only (R11, R39)
      let up := (e.port p).link.state == .lup || (e.port p).link.state == .lmend
      some (if up then linkReset p (resetTime us) e else e)
  | 4, .enabled =>
    some (modLink p (fun l => { l with suspendWait := false }) (modRh p (fun r => { r with state := .disabled }) e))
  | 5, .enabled =>
    if (e.port p).link.state != .lup then none
    else some (if e.portIdle p then linkQuiet p e else modLink p (fun l => { l with suspendWait := true }) e)
  | 6, .suspended =>
    some (emitWire (.resume p) (modLink p (fun l => { l with state := .lwake, byOrder := true })
      (modRh p (fun r => { r with state := .resuming, resumeHost := true }) e)))
  | 6, .resuming => if r.resumeHost then none else some (modRh p (fun r => { r with resumeHost := true }) e)
  | 6, .enabled => some e
  | 7, .disabled =>
    if r.quar then
      some (linkEnable p (modRh p (fun r => { r with quar := false, bounces := [], state := .powered }) e))
    else none
  | _, _ => none

/-- The ports that the preparation of a power state suspended are ordered to resume (R325, R333). -/
def resumeSlept (e : Engine) : Engine :=
  let ps := (allFin 32).filter fun p => bitOf e.pwr.slept p.val
  let e := { e with pwr := { e.pwr with slept := 0 } }
  forAll ps (fun p e => (orderRoot p 6 0 e).getD e) e

/-! ## Enumeration (R82) -/

/-- The enumeration with a handle. -/
def Engine.enum? (e : Engine) (id : Nat) : Option Enum := e.commons.enums.find? (·.id == id)

/-- Update an enumeration. -/
def modEnum (id : Nat) (f : Enum → Enum) : Engine → Engine :=
  modCommons fun c => { c with enums := lmod (·.id == id) f c.enums }

/-- Order a port as an enumeration does; a refusal by the root port counts as a STALL. -/
def enumOrder (n : Enum) (order : Nat) (purpose : Purpose) (e : Engine) : Engine :=
  match n.pos with
  | .root p =>
    match orderRoot p order 0 e with
    | some e => e
    | none => if order = 3 then modEnum n.id (fun n => { n with reset := some 0x10 }) e else e
  | .hubPort hub port => orderHubPort hub port order 0 purpose e

/-- Begin step 1: the port reset, unless the reset that reported the device has just ended. -/
def beginEnum (n : Enum) (e : Engine) : Engine :=
  let e := modEnum n.id (fun n => { n with waiting := false, step := 1 }) e
  if n.reset.isSome then e else enumOrder n 3 (.enumStep n.id) e

/-- Let waiting enumerations of a root port begin while fewer than 32 run (R82). -/
def pumpEnums (p : PortId) (e : Engine) : Engine :=
  let mine := e.commons.enums.filter fun n => n.root == p
  let room := 32 - (mine.filter fun n => !n.waiting).length
  forAll ((mine.filter (·.waiting)).take room) beginEnum e

/-- Start the enumeration of a position (R82), from step 1, or from step 2 when its reset has just ended. -/
def startEnum (pos : Position) (src : Option AdminSrc) (wanted : Nat) (afterReset : Bool) (e : Engine) : Engine :=
  match e.rootAt pos with
  | none => e
  | some p =>
    if e.commons.enums.any fun n => n.pos == pos then e
    else
      let (id, e) := newId e
      let n : Enum := { id, pos, root := p, waiting := true, step := 1, src, wanted, number := 0, desc := []
                        reset := if afterReset then some 0 else none, auto := !e.commons.pfDriven }
      pumpEnums p (modCommons (fun c => { c with enums := c.enums ++ [n] }) e)

/-- The number for a newly numbered position (R80): the lowest never assigned, else the one freed longest ago,
at least 1 s. -/
def Engine.nextNumber (e : Engine) : Option Nat :=
  let taken (n : Nat) : Bool :=
    e.commons.used.contains n || mhas e.commons.devs n || e.commons.enums.any fun x => x.number.toNat == n
  let span := e.commons.used.length + e.commons.enums.length + 1
  match ((List.range span).map (· + e.commons.fresh)).find? fun n => decide (n ≤ 0xFFFFE) && !taken n with
  | some n => some n
  | none => (e.commons.freed.find? fun x => decide (x.2 + 1000000000 ≤ e.now)
      && !mhas e.commons.devs x.1.toNat && !e.commons.enums.any fun y => y.number == x.1).map (·.1.toNat)

/-- A step failed: the port is left DISABLED, the entry is written, the command ends (R82, R214). -/
def failEnum (n : Enum) (step : Nat) (status : Byte) (e : Engine) : Engine :=
  let e := enumOrder n 4 (.portOrder 0 0 4 none) e
  let e := if 4 ≤ step then modDev n.number (fun v => { v with present := false }) e else e
  let e := attnPos 0x08 n.pos false (BitVec.ofNat 32 step) (status.setWidth 32) e
  pumpEnums n.root (endEnum n 0x87 (BitVec.ofNat 32 (step + 256 * status.toNat)) e)

/-- A stop at the tier limit, the hub-table limit or for lack of a number (R82, R214). -/
def stopEnum (n : Enum) (kind : Nat) (index : Nat) (cause : Nat) (e : Engine) : Engine :=
  let e := enumOrder n 4 (.portOrder 0 0 4 none) e
  let e := attnPos kind n.pos false (BitVec.ofNat 32 index) 0 e
  pumpEnums n.root (endEnum n 0x84 (BitVec.ofNat 32 cause) e)

/-- A device descriptor with reserved fields clear (R82, R87). -/
def descriptorOk (d : List Byte) : Bool :=
  d.length == 32 && leAt 0 1 d == 32 && leAt 1 1 d == 1 && decide (leAt 2 1 d < 2) && decide (leAt 3 1 d < 8)
    && decide (leAt 9 1 d < 4) && leAt 24 8 d == 0

/-- Send the transfer of a step to the device at the enumeration's position, under a number. -/
def enumXfer (n : Enum) (number : DevNum) (setup : BitVec 96) (e : Engine) : Engine :=
  let (route, depth) := e.routeAt n.pos
  addXfer n.root number route depth setup [] (.enumStep n.id) e

/-- The measured link above a position: its rate and RTT (R74). -/
def Engine.linkAt (e : Engine) : Position → Rate × Nat
  | .root p => ((e.port p).link.rate, (e.port p).link.rtt)
  | .hubPort hub port =>
    match (e.dev? hub).bind (·.hub) with
    | none => (.r250, 0)
    | some u =>
      let r := (u.port port).record
      (match fldN r 8 2 with | 2 => .r1250 | 3 => .r5000 | _ => .r250, fldN r 48 16)

/-- The positions below a hub follow its new number: a binding is to a root port and a route, not to the number of the hub
above (R79). -/
def renumberHub (old new : DevNum) (e : Engine) : Engine :=
  let at_ (p : Position) : Position :=
    match p with
    | .hubPort h q => if h == old then .hubPort new q else p
    | .root _ => p
  let e := modCommons (fun c => { c with
    devs := c.devs.map fun x => (x.1, { x.2 with pos := at_ x.2.pos })
    enums := c.enums.map fun n => { n with pos := at_ n.pos } }) e
  { e with ports := e.ports.map fun t => { t with
      powerOrders := t.powerOrders.map fun x => if x.1 == old then (new, x.2) else x } }

/-- Bind the number of an enumeration to its position (R79, R81, R235). -/
def bindNumber (n : Enum) (e : Engine) : Engine :=
  let (route, depth) := e.routeAt n.pos
  let hub := leAt 2 1 n.desc == 1
  let owner := e.ownerAt n.pos
  let old := e.deviceAt n.pos
  -- an operator's different number ends the former binding (R79)
  let e := match old with
    | some (k, _) =>
      if k = n.number.toNat then e else unbind 0x12 (BitVec.ofNat 20 k) (renumberHub (BitVec.ofNat 20 k) n.number e)
    | none => e
  let kept := old.bind fun x => x.2.hub
  let ports := leAt 10 1 n.desc
  -- each downstream port takes the owner of the port on which the hub sits (R235)
  let down := (List.range ports).map fun q =>
    (q, ({ owner, record := ((kept.map fun u => (u.port q).record).getD 0) } : HubPort))
  let info : HubInfo :=
    { tier := depth + 1, ports, dual := leAt 11 1 n.desc == 2, down
      leads := (kept.map (·.leads)).getD (e.port n.root).leads }
  let (rate, rtt) := e.linkAt n.pos
  let v : Dev := { pos := n.pos, root := n.root, route, depth, owner := if hub then pf else owner,
                   hub := if hub then some info else none, present := true, configured := false, e0 := n.e0, rate, rtt }
  modCommons (fun c => { c with
    devs := mput c.devs n.number.toNat v
    fresh := if n.number.toNat = c.fresh then c.fresh + 1 else c.fresh
    used := if c.fresh < n.number.toNat then c.used ++ [n.number.toNat] else c.used
    freed := c.freed.filter fun x => x.1 != n.number }) e

/-- The last step has succeeded: a hub's ports are read and its lists replanted, a function's arrival is logged
(R82). -/
def doneEnum (n : Enum) (e : Engine) : Engine :=
  let d := n.number
  let e := modDev d (fun v => { v with configured := true }) e
  let e := if leAt 2 1 n.desc == 1 then
      let e := forAll (List.range (leAt 10 1 n.desc)) (fun q => readPort d q n.auto) e
      let mine := e.commons.lists.filter fun l => l.hub == d && l.gone.isNone
      if n.auto then forAll mine replant e else e
    else attnOwner (e.ownerAt n.pos) 0x02 d n.root.val 0 0 e
  pumpEnums n.root (endEnum n 0x80 (d.setWidth 32) e)

/-- Act on the end of an enumeration's present step (R82). -/
def enumNext (n : Enum) (e : Engine) : Engine :=
  let sent := e.commons.xfers.find? fun x => x.purpose == .enumStep n.id
  let ended := sent.bind (·.result)
  let drop := match sent with | some x => dropXfer x.id | none => fun e => e
  let good (st : Byte) : Bool := st == 0 || st == 1
  if n.waiting then e
  else if n.step = 1 then
    match n.reset, ended with
    | some st, _ =>
      if st != 0 then (if st == 0x12#8 then pumpEnums n.root (enumGone n e) else failEnum n 1 st e)
      else
        let n' := { n with step := 2, e0 := 0 }
        enumXfer n' 0 (setupPacket 0x0001 0 0 true 1 32) (modEnum n.id (fun _ => n') (drop e))
    | none, some (st, _) => if good st then resetSubtree n.pos (drop e) else failEnum n 1 st (drop e)
    | none, none => e
  else match sent, ended with
  | some x, some (st, _) =>
    let e := drop e
    if n.step = 2 then
      if !good st || !descriptorOk x.got then failEnum n 2 st e
      else
        let hub := leAt 2 1 x.got == 1
        let tier := (e.routeAt n.pos).2 + 1
        let bound := (e.deviceAt n.pos).map (·.1)
        let hubs := (e.commons.devs.filter fun y => y.2.hub.isSome && some y.1 != bound).length
        if hub && decide (5 < tier) then stopEnum n 0x09 tier 0x10 e
        else if hub && decide (32768 ≤ hubs) then stopEnum n 0x09 tier 0x11 e
        else
          let num := if n.wanted != 0 then some n.wanted else match bound with | some k => some k | none => e.nextNumber
          match num with
          | none => stopEnum n 0x07 0 0x12 e
          | some k =>
            let n' := { n with step := 3, number := BitVec.ofNat 20 k, desc := x.got }
            enumXfer n' 0 (setupPacket 0x0002 0 0 false (k + 2 ^ 20 * (if hub then tier else 0)) 0)
              (modEnum n.id (fun y => { n' with e0 := y.e0 }) e)
    else if n.step = 3 then
      if !good st then failEnum n 3 st e
      else
        let e := bindNumber n e
        enumXfer n n.number (setupPacket 0x0003 0 0 false 1 0) (modEnum n.id (fun y => { y with step := 4 }) e)
    else if n.step = 4 then
      if !good st then failEnum n 4 st e
      else if leAt 9 1 n.desc / 2 % 2 = 1 then
        enumXfer n n.number (setupPacket 0x0006 0 0 false 1 0) (modEnum n.id (fun y => { y with step := 5 }) e)
      else doneEnum n e
    else if !good st then failEnum n 5 st e else doneEnum n e
  | _, _ => e

/-! ## Change bits (R77) -/

/-- The 16 bytes of a port state record. -/
def recordData (r : BitVec 128) : List Byte := wordBytes r

/-- The entry of a remote wake (R93): for the PF and the owner, naming the device at a position. -/
def wakeEntry (pos : Position) (e : Engine) : Engine :=
  match e.deviceAt pos with
  | some (k, _) => attnOwner (e.ownerAt pos) 0x04 (BitVec.ofNat 20 k) ((e.rootAt pos).getD 0).val 0 0 e
  | none => attnPos 0x04 pos true 0 0 e

/-- GET_HUB_STATUS of a hub (R75, R89). -/
def readHub (hub : DevNum) : Engine → Engine := addXferTo hub (setupPacket 0x0107 0 0 true 0 16) [] (.hubStatus hub)

/-- A remote wake on a position (R93): a wake that came up through a hub is followed by the change records of the hub's
ports to the device that woke. -/
def remoteWake (pos : Position) (e : Engine) : Engine :=
  match e.deviceAt pos with
  | some (k, v) =>
    if v.hub.isNone then wakeEntry pos e
    else
      let hub : DevNum := BitVec.ofNat 20 k
      readHub hub (modCommons (fun c => { c with wakes := (c.wakes.filter fun w => w.1 != hub) ++ [(hub, none)] }) e)
  | none => wakeEntry pos e

/-- A hub's own wake is the last on the path: no port below it has woken, or none could be read (R93). -/
def wakeEnds (hub : DevNum) (e : Engine) : Engine :=
  let e := modCommons (fun c => { c with wakes := c.wakes.filter fun w => w.1 != hub }) e
  match e.dev? hub with
  | some v => wakeEntry v.pos e
  | none => e

/-- The changed ports of a hub through which a wake came are known, or its status could not be read. -/
def wakePorts (hub : DevNum) (ports : List Nat) (e : Engine) : Engine :=
  if !(e.commons.wakes.any fun w => w.1 == hub && w.2.isNone) then e
  else if ports.isEmpty then wakeEnds hub e
  else modCommons (fun c => { c with wakes := lmod (fun w => w.1 == hub) (fun w => (w.1, some ports)) c.wakes }) e

/-- A port of a hub through which a wake came has been read: the wake is that port's (`woke`), or another's. -/
def wakePort (hub : DevNum) (port : Nat) (woke : Bool) (e : Engine) : Engine :=
  match (e.commons.wakes.find? (·.1 == hub)).bind (·.2) with
  | none => e
  | some l =>
    if !l.contains port then e
    else if woke then modCommons (fun c => { c with wakes := c.wakes.filter fun w => w.1 != hub }) e
    else if (l.erase port).isEmpty then wakeEnds hub e
    else modCommons (fun c => { c with
      wakes := lmod (fun w => w.1 == hub) (fun w => (w.1, some (l.erase port))) c.wakes }) e

/-- Act on the change bits of a port with its record (R77, R90, R93, R218). A port that loses its connect in RESETTING or
RESUMING shows neither RESET_CHG nor RESUME_CHG, and the spec does not say how the PORT CONTROL or DEVICE RESET that
ordered it ends: PORT CONTROL completes with 0x80 and the record, DEVICE RESET with 0x87 (DESIGN CHOICE, log entry 45). -/
def actOnChanges (pos : Position) (r : BitVec 128) (e : Engine) : Engine :=
  let ch := fld r 32 16
  let has (b : BitVec 16) : Bool := ch &&& b != 0
  let connected := bitOf r 17
  let lost := has chConnect && !connected
  let waits (reset : Bool) (x : Running) : Bool := x.wait == .portOrder pos reset
  -- detach: lost connect, left ENABLED, power removed
  let e := if lost || has chEnable || has chOc then detach pos 0x12 e else e
  let e := if lost then
      let e := finishWaiting (waits true) 0x80 (data := recordData r) (e := e)
      let e := finishWaiting (waits false) 0x80 (data := recordData r) (e := e)
      finishWaiting (fun x => match x.wait with | .devReset _ q => q == pos | _ => false) 0x87 (e := e)
    else e
  let e := if has chConnect && connected then
      if e.commons.pfDriven then attnPos 0x01 pos false 0 0 e else startEnum pos none 0 false e
    else e
  let e := if has chReset then
      let e := finishWaiting (waits true) 0x80 (data := recordData r) (e := e)
      let busy := e.commons.enums.any fun n => n.pos == pos
      let e := modCommons (fun c => { c with
        enums := lmod (fun n => n.pos == pos && n.step == 1 && !n.waiting) (fun n => { n with reset := some 0 }) c.enums }) e
      let e := if e.commons.pfDriven then
          finishWaiting (fun x => match x.wait with | .devReset _ q => q == pos | _ => false) 0x80 (e := e)
        else e
      if !busy && !e.commons.pfDriven && (e.deviceAt pos).isSome then startEnum pos none 0 true e else e
    else e
  let e := if has chResume then
      let both := bitOf r 20 && bitOf r 21
      let ordered := e.fw.running.any (waits false)
      let e := finishWaiting (waits false) 0x80 (data := recordData r) (wake := both) (e := e)
      if bitOf r 21 && !(both && ordered) && !bitOf r 20 then remoteWake pos e else e
    else e
  let e := if has chOc then attnPos 0x06 pos true 0 0 e else e
  if has chQuar then attnPos 0x05 pos true 0 (BitVec.ofNat 32 (fldN r 24 4)) e else e

/-- Firmware acts on the change bits of a root port, which reach it directly, and clears what it acted on (R74, R76,
R303); while it does not run they stand. -/
def rootChanges (p : PortId) (e : Engine) : Engine :=
  let r := e.rootRecord p
  let ch := (e.port p).rh.changes
  if ch = 0 || !e.fwRuns then e
  else
    let e := modRh p (fun r => { r with
      changes := 0
      resumeHost := if ch &&& chResume != 0 then false else r.resumeHost
      wakeSeen := if ch &&& chResume != 0 then false else r.wakeSeen }) e
    let e := actOnChanges (.root p) r e
    -- an enumeration's reset that ends with its connect lost has failed
    modCommons (fun c => { c with
      enums := lmod (fun n => n.pos == .root p && n.step == 1 && ch &&& chConnect != 0 && !bitOf r 17)
        (fun n => { n with reset := some 0x12 }) c.enums }) e

end Sys2Proof.Machine
end

