-- ==== Sys2Proof/Machine/AdminSched.lean ====
section
/-! DEFINITION. The scheduling commands (R211): SET CONTEXT TABLE, SET FIELD MAP, RESERVE, SCHEDULE ENDPOINT and
UNSCHEDULE ENDPOINT, with the placement of R133 and the managed map that firmware writes (R132). -/

namespace Sys2Proof.Machine

/-- The fields that a form of SET CONTEXT TABLE uses (R211). -/
def contextTableFields (c : BitVec 512) : Fields :=
  if cf c 32 0 8 = 0 then [(40, 0, 64), (48, 0, 32)] else [(32, 0, 8), (36, 0, 32), (40, 0, 64), (48, 0, 32)]

/-- Drop the record of where an endpoint's context lies for an index or an endpoint that is installed anew. -/
def Holding.setCtxOf (x : Holding) (i : Nat) (c : BitVec 256) : Holding :=
  let rest := x.ctxOf.filter fun y => y.2 != i && y.1 != (ctxDev c, ctxEp c)
  { x with ctxOf := if ctxKind c = 0 then x.ctxOf.filter (fun y => y.2 != i) else rest ++ [((ctxDev c, ctxEp c), i)] }

/-- Drop one cached context. -/
def dropCtx (h : Fn) (i : Nat) (e : Engine) : Engine :=
  { e with plots := e.plots.map fun p => if p.holding == h then { p with cache := mdel p.cache i } else p }

/-- Install contexts from an index on: write back and drop the cached copy, then write (R212). -/
def installCtxs (h : Fn) : Nat → List (BitVec 256) → Engine → Engine
  | _, [], e => e
  | i, c :: cs, e =>
    let e := dropCtx h i (writeBack h i e)
    let e := hostWrite h ((e.hold h).ctxAddr i) (wordBytes c) false e
    installCtxs h (i + 1) cs (modHold h (fun x => x.setCtxOf i c) e)

/-- SET_CONTEXT_TABLE (R211, R212). -/
def execSetContextTable (src : AdminSrc) (ctxs : Option (List (BitVec 256))) (s : State) : Answer :=
  onEng s <| runAdmin
    { op := 0x10, used := contextTableFields,
      reads := fun f c => whenE (cf c 32 0 8 == 1 && decide (cf c 48 0 32 ≤ 4096))
        (readNow f (fld c 320 64) (32 * cf c 48 0 32) (.image f)) } src
    (fun f c e =>
      let x := e.hold f
      let table := cf c 32 0 8 == 0
      let n := cf c 48 0 32
      let brings := (brought e f ctxs).filter fun l => l.length == n
      [{ bad := decide (1 < cf c 32 0 8), status := 0x82 },
       { bad := table && (cf c 40 0 12 != 0 || n % 4096 != 0), status := 0x82 },
       { bad := !table && (n == 0 || decide (4096 < n) || decide (x.ctxEntries < cf c 36 0 32 + n)), status := 0x82 },
       { bad := !table && brings.isNone, status := 0x82 },
       { bad := !table && (brings.getD []).any (fun k => ctxKind k != 0 && !ctxOk k), status := 0x82 },
       frozenCheck e f,
       { bad := table && ((x.ownSqs.any fun q => q.1 != 0 && q.2.state == .enabled)
           || (x.mapFor e.nextG).isSome || x.fieldMap.isSome)
         status := 0x87 },
       { bad := !table && (brings.getD []).any (fun k => !(e.itemsFor f (ctxDev k) (ctxEp k)).isEmpty), status := 0x87 },
       { bad := table && decide (e.ctxQuota f < n), status := 0x85 }])
    (fun f c e =>
      let n := cf c 48 0 32
      if cf c 32 0 8 = 0 then
        let e := dropCache f (writeBackAll f e)
        let e := modHold f (fun x => { x with ctxBase := fld c 320 64, ctxEntries := n, ctxOf := [] }) e
        .ok (shadow (.contextTable f (fld c 320 64) n) e) (BitVec.ofNat 32 n) []
      else .ok (installCtxs f (cf c 36 0 32) (ctxs.getD []) e) (BitVec.ofNat 32 n) [])

/-! ## Managed maps -/

/-- The map that holds from the next headland on is managed (R134). -/
def Engine.managed (e : Engine) (h : Fn) : Bool :=
  match (e.hold h).mapFor e.nextG with
  | some m => m.managed
  | none => false

/-- The descriptor of a scheduled endpoint (R107, R133). -/
def schedDesc (x : Scheduled) : BitVec 256 :=
  BitVec.ofNat 256 (x.kind + 8 * b2n (x.interval == 0) + 2 ^ 16 * x.ring + 2 ^ 32 * x.dev.toNat + 2 ^ 52 * x.ep.toNat
    + 2 ^ 96 * x.length + 2 ^ 128 * x.outSlot.toNat + 2 ^ 192 * x.ctxIndex)

/-- The REAP descriptor of a planted list (R107, R153): payload limit and deadline of the list, context index 0. -/
def reapDesc (ring : Nat) (l : PlantedList) (bound : Nat) : BitVec 256 :=
  BitVec.ofNat 256 (1 + 2 ^ 16 * ring + 2 ^ 24 * l.listId + 2 ^ 32 * l.hub.toNat + 2 ^ 96 * bound + 2 ^ 112 * l.deadline)

/-- The payload bound of a planted list, its nested lists included (R138). -/
def Commons.bound (c : Commons) : Nat → DevNum → Nat → Nat
  | 0, _, _ => 0
  | n + 1, hub, li =>
    match c.list? hub li with
    | none => 0
    | some l => payloadBound (Commons.bound c n) l.entries

/-- The REAP descriptors of a group in a slot and row. -/
def groupDescs (g : ReapGroup) (c : Commons) (slot row : Nat) : List (BitVec 256) :=
  g.placed.filterMap fun (hub, li, phase, r) =>
    if r = row && slot % g.interval = phase then (c.list? hub li).map fun l => reapDesc g.ring l (c.bound 6 hub li) else none

/-- The row list that firmware keeps for a slot and row of a managed map. -/
def Engine.rowList (e : Engine) (h : Fn) (slot row : Nat) : List (BitVec 256) :=
  let x := e.hold h
  (x.scheduled.filter fun y =>
      if y.interval = 0 then row == 0 else y.row == row && slot % y.interval == y.phase).map schedDesc
    ++ x.groups.flatMap fun g => groupDescs g.2 e.commons slot row

/-- The period after which the rows of a managed map repeat, at least `n`. -/
def Holding.period (x : Holding) (n : Nat) : Nat :=
  (x.scheduled.map (·.interval) ++ x.groups.map (·.2.interval)).foldl max n

/-- The admitted candidates of a slot's row on a port, with a further descriptor at its end (R119). -/
def Engine.rowAdmits (e : Engine) (h : Fn) (p : PortId) (slot row : Nat) (new : List (BitVec 256)) : List Cand :=
  let mk (raw : BitVec 256) : Cand :=
    let k := dCost (e.commons.path (dDev raw)) raw
    { index := 0, raw, port := (e.rootOf (dDev raw)).getD p, charge := k.1, span := k.2, fits := none }
  let carried := if row = 0 then [] else (e.rowList h slot 0).filter dRowrate
  let all := (carried ++ e.rowList h slot row ++ new).map mk
  let reg (q : PortId) := let r := e.region h q e.nextG; (r.s, r.c)
  admission reg (orderCands (all.filter fun c => c.port == p)) (fun _ => 0)

/-- R133: the phase and row with the least admitted charge on the port in which the descriptor passes R119 in every slot of
its phase; ties by phase, then row. R133 does not say how the charges of a phase's slots make one: the largest of them counts
(DESIGN CHOICE, log entry 45). -/
def Engine.findPlace (e : Engine) (h : Fn) (p : PortId) (interval : Nat) (d : BitVec 256) : Option (Nat × Nat) :=
  let period := (e.hold h).period interval
  let slots (phase : Nat) := (List.range (period / interval)).map fun k => phase + interval * k
  let load (x : Nat × Nat) : Nat :=
    ((slots x.1).map fun n => ((e.rowAdmits h p n x.2 []).map (·.charge)).sum).foldl max 0
  let places := (List.range interval).flatMap fun phase => (List.range 16).map fun r => (phase, r)
  minBy load (places.filter fun x => (slots x.1).all fun n => (e.rowAdmits h p n x.2 [d]).any fun c => c.raw == d)

/-- What of a work area must not be written yet: row tables and lists in use, or whose freeing awaits a frame's retirement
(R130), and the images of planted lists. -/
def Engine.liveWork (e : Engine) (h : Fn) : List (Nat × Nat) :=
  ((e.hold h).work.map fun b => (b.addr, b.len))
    ++ (e.commons.lists.filter fun l => l.holding == h && l.group.isSome).map fun l =>
      (l.image.toNat, 16 + 8 * l.entries.length)

/-- Where firmware builds `len` bytes in a work area: at an address of its choosing (free value `v`: the spec lays out no
work area), inside the area and clear of what is live. -/
def Engine.workAddr (e : Engine) (h : Fn) (m : FieldMap) (len v : Nat) : Nat :=
  let lo := roundUp m.workArea.toNat 256
  let hi := m.workArea.toNat + m.workSize
  let live := e.liveWork h
  let fits (a : Nat) : Bool :=
    decide (lo ≤ a) && decide (a + len ≤ hi) && live.all fun x => decide (a + len ≤ x.1) || decide (x.1 + x.2 ≤ a)
  let first := lo + 256 * (v % ((hi - lo - len) / 256 + 1))
  ((first :: lo :: live.map fun x => roundUp (x.1 + x.2) 256).find? fits).getD first

/-- A slot entry has been rewritten: what it used until then stays until frames that may have latched the old entry have
retired (R130); what has waited long enough is free. -/
def Holding.retireWork (x : Holding) (slot : Nat) (now retired : Dword) : Holding :=
  { x with work :=
      (lmod (fun b => b.slot == slot && b.old.isNone) (fun b => { b with old := some (now + 1) }) x.work).filter fun b =>
        match b.old with
        | some f => !geMod retired f
        | none => true }

/-- Firmware writes one slot of a managed map by R129 and R130: row table and row lists in the work area, clear of those in
use, then the slot entry. -/
def publishSlot (h : Fn) (slot : Nat) (e : Engine) : Engine :=
  match (e.hold h).mapFor e.nextG with
  | none => e
  | some m =>
    let rows := (List.range 16).map fun r => e.rowList h slot r
    let e := modHold h (fun x => x.retireWork slot e.frame32 e.clk.retired) e
    if rows.all (·.isEmpty) then hostWrite h (m.addr + BitVec.ofNat 64 (8 * slot)) (leBytes 8 0) false e
    else
      let (v, e) := freshValue e
      let len := 256 + 32 * rows.flatten.length
      let a := e.workAddr h m len v.toNat
      let table := (rows.foldl (fun (acc : List Byte × Nat) l =>
        (acc.1 ++ leBytes 8 acc.2 ++ leBytes 2 l.length ++ leBytes 6 0, acc.2 + 32 * l.length)) ([], a + 256)).1
      let e := modHold h (fun x => { x with work := x.work ++ [{ slot, addr := a, len }] }) e
      let e := hostWrite h (BitVec.ofNat 64 a) (table ++ rows.flatten.flatMap wordBytes) false e
      hostWrite h (m.addr + BitVec.ofNat 64 (8 * slot)) (leBytes 8 (a + 1)) false e

/-- Firmware rewrites the slots of a phase. -/
def publish (h : Fn) (phase interval : Nat) (e : Engine) : Engine :=
  forAll ((List.range (1024 / interval)).map fun k => phase + interval * k) (publishSlot h) e

/-- The first frame from G on that a phase serves. -/
def firstServed (g : BitVec 48) (phase interval : Nat) : BitVec 48 :=
  BitVec.ofNat 48 (g.toNat + (phase + interval - g.toNat % interval) % interval)

/-! ## The commands -/

/-- SET_FIELD_MAP (R104, R132, R134). -/
def execSetFieldMap (src : AdminSrc) (s : State) : Answer :=
  onEng s <| runAdmin
    { op := 0x11, used := fun c =>
        [(32, 0, 1), (40, 0, 64)] ++ if cf c 32 0 1 = 1 then [(48, 0, 64), (56, 0, 32)] else [] } src
    (fun f c e =>
      [{ bad := cf c 40 0 13 != 0 || (cf c 32 0 1 == 1 && decide (cf c 56 0 32 < 16777216)), status := 0x82 },
       frozenCheck e f])
    (fun f c e =>
      let g := e.nextG
      let m : Option FieldMap := if cf c 40 0 64 = 0 then none
        else some { addr := fld c 320 64, managed := cf c 32 0 1 == 1, workArea := fld c 384 64, workSize := cf c 56 0 32 }
      let was := e.managed f
      let e := modHold f (fun x => { x with fieldMapNext := some (m, g) }) e
      -- every firmware-placed descriptor is dropped with the managed map, and the lists that groups planted
      let empty (e : Engine) : Engine :=
        clearLists (fun l => l.holding == f && l.group.isSome) g
          (modHold f (fun x => { x with scheduled := [], groups := [] }) e)
      let e := if e.managed f then publish f 0 1 (if was then e else modHold f (fun x => { x with rowrateHost := 0 }) e)
        else if was then empty e else e
      .ok (shadowRowrate f (shadow (.fieldMap f m) e)) (g.setWidth 32) (leBytes 8 g.toNat))

/-- Two regions overlap. -/
def Reserve.overlaps (a b : Reserve) : Bool :=
  decide (0 < a.c) && decide (0 < b.c) && decide (a.s < b.s + b.c) && decide (b.s < a.s + a.c)

/-- The other holdings' reservations most recently accepted on a port. -/
def Engine.others (e : Engine) (h : Fn) (p : PortId) : List Reserve :=
  (e.created.filter (· != h)).map fun g => e.accepted g p

/-- The ports of a mask. -/
def portsOf (m : Dword) : List PortId := (allFin 32).filter fun p => bitOf m p.val

/-- Accept a reservation on the masked ports from frame `g` on. -/
def setReserve (h : Fn) (mask : Dword) (r : Reserve) (g : BitVec 48) (e : Engine) : Engine :=
  forAll (portsOf mask) (fun p => modHold h fun x =>
    { x with reserveNext := vmod x.reserveNext p fun l => l ++ [(r, g)] }) e

/-- RESERVE (R115). -/
def execReserve (src : AdminSrc) (s : State) : Answer :=
  onEng s <| runAdmin
    { op := 0x12, pfOnly := true,
      used := fun _ => [(32, 0, 8), (34, 0, 16), (36, 0, 16), (38, 0, 8), (39, 0, 8), (40, 0, 32)] } src
    (fun _ c e =>
      let h := finOf 64 (cf c 32 0 8)
      let r : Reserve := { s := cf c 34 0 16, c := cf c 36 0 16, p := cf c 38 0 8, w := cf c 39 0 8 }
      let ports := portsOf (fld c 320 32)
      [{ bad := decide (63 < cf c 32 0 8) || !(e.hold h).created, status := 0x82 },
       resetCheck e h,
       { bad := decide (r.s < 200) || decide (5200 < r.s + r.c) || decide (5000 < r.c) || decide (8 < r.p)
         status := 0x82 },
       { bad := ports.any fun p => (e.others h p).any (r.overlaps ·)
           || decide ((e.port p).arb.places < r.p + ((e.others h p).map (·.p)).sum)
         status := 0x85 }])
    (fun _ c e =>
      let h := finOf 64 (cf c 32 0 8)
      let g := e.nextG
      let r : Reserve := { s := cf c 34 0 16, c := cf c 36 0 16, p := cf c 38 0 8, w := cf c 39 0 8 }
      let e := setReserve h (fld c 320 32) r g e
      .ok (mirror (.reserve h (fld c 320 32) r.s r.c r.p r.w) e) (g.setWidth 32) [])

/-- The scheduled endpoint that a SCHEDULE ENDPOINT command names; interval 0 stands for row-rate. -/
def cScheduled (c : BitVec 512) : Scheduled :=
  { dev := cDev c, ep := cEp c, kind := cf c 32 0 8, interval := if cf c 34 0 16 = 0xFFFF then 0 else cf c 34 0 16,
    length := cf c 36 0 16, ring := cf c 33 0 8, outSlot := fld c 320 64, ctxIndex := cf c 48 0 32, phase := 0, row := 0,
    first := 0 }

/-- The checks that name a device of the holding: 0x83 when a VF names another's, else 0x82 (R202). -/
def deviceChecks (f : Fn) (c : BitVec 512) (e : Engine) : List Check :=
  match e.dev? (cDev c) with
  | none => [{ bad := true, status := 0x82 }]
  | some v =>
    [{ bad := v.owner != f || v.hub.isSome, status := if f = pf then 0x82 else 0x83 },
     { bad := !bitOf (e.hold f).portSet v.root.val, status := 0x82 }]

/-- Row-rate endpoints are short: the holding's quota, or the pair's limit (R133, R265). -/
def Engine.rowrateShort (e : Engine) (h : Fn) : Bool :=
  decide (e.rowrateQuota h ≤ (e.hold h).rowrateUsed)
    || (e.yoke.yoked && decide (4096 ≤ e.pairCount Holding.rowrateUsed (·.rowrate)))

/-- SCHEDULE_ENDPOINT (R133, R134). -/
def execScheduleEndpoint (src : AdminSrc) (s : State) : Answer :=
  onEng s <| runAdmin
    { op := 0x13, target := true,
      used := fun c => [(32, 0, 8), (34, 0, 16), (36, 0, 16), (48, 0, 23)]
        ++ if cf c 32 0 8 = 3 then [(40, 0, 64)] else [(33, 0, 8)] } src
    (fun f c e =>
      let x := cScheduled c
      let n := cf c 34 0 16
      deviceChecks f c e ++
      [{ bad := !(x.kind == 2 || x.kind == 3) || x.ep == 0 || decide (1024 < x.length)
           || !(n == 0xFFFF || (isPow2 n && decide (n ≤ 1024))) || x.outSlot.toNat % 8 != 0
           || decide ((e.hold f).ctxEntries ≤ x.ctxIndex)
         status := 0x82 },
       frozenCheck e f,
       { bad := !e.managed f, status := 0x87 },
       { bad := (e.hold f).scheduled.any fun y => y.dev == x.dev && y.ep == x.ep, status := 0x87 },
       { bad := x.interval == 0 && e.rowrateShort f, status := 0x85 }])
    (fun f c e =>
      let x := cScheduled c
      let port := (e.rootOf x.dev).getD 0
      let place := if x.interval = 0 then some (0, 0) else e.findPlace f port x.interval (schedDesc x)
      match place with
      | none => .fail e 0x85 0
      | some (phase, row) =>
        let step := if x.interval = 0 then 1 else x.interval
        let first := firstServed e.nextG phase step
        let e := modHold f (fun h => { h with scheduled := h.scheduled ++ [{ x with phase, row, first }] }) e
        .ok (publish f phase step (shadowRowrate f e)) (BitVec.ofNat 32 (phase + 65536 * row)) (leBytes 8 first.toNat))

/-- UNSCHEDULE_ENDPOINT (R133, R134): completes once FRAME_RETIRED has reached the last frame that may serve the
endpoint. -/
def execUnscheduleEndpoint (src : AdminSrc) (s : State) : Answer :=
  onEng s <| runAdmin { op := 0x14, target := true, used := fun _ => [(32, 0, 8)] } src
    (fun f c e =>
      let k := cf c 32 0 8
      [{ bad := f != pf && (match e.dev? (cDev c) with | some v => v.owner != f | none => false), status := 0x83 },
       { bad := !(k == 2 || k == 3), status := 0x82 }, frozenCheck e f, { bad := !e.managed f, status := 0x87 }])
    (fun f c e =>
      let is (y : Scheduled) : Bool := y.dev == cDev c && y.ep == cEp c && y.kind == cf c 32 0 8
      match (e.hold f).scheduled.find? is with
      | none => .ok e 0 []
      | some y =>
        let step := if y.interval = 0 then 1 else y.interval
        let g := e.nextG.toNat
        let e := modHold f (fun h => { h with scheduled := h.scheduled.filter fun z => !is z }) e
        let e := publish f y.phase step (shadowRowrate f e)
        let next := (firstServed (BitVec.ofNat 48 g) y.phase step).toNat
        let last : BitVec 48 := BitVec.ofNat 48 (next - step)
        if next < step || decide (last.toNat < y.first.toNat) || geMod e.clk.retired (last.setWidth 32) then
          .ok e (last.setWidth 32) []
        else .wait e (.retired last))

end Sys2Proof.Machine
end

