-- ==== Sys2Proof/Machine/ReapOps.lean ====
section
/-! DEFINITION. Reap lists on the controller's side: the checks of LOAD REAP LIST (R137, R138, R154), the lists
that firmware builds for a group (R153), planting and its outcomes. -/

namespace Sys2Proof.Machine

/-- The port taken at link `j` of an entry's route. -/
def rPort (x : Qword) (j : Nat) : Nat := rRoute x / 32 ^ j % 32

/-- The device that an entry's route leads to from a hub, after `n` more links from link `j` (R137). -/
def Engine.follow (e : Engine) (x : Qword) : Nat → Nat → DevNum → Option DevNum
  | 0, _, d => some d
  | n + 1, j, d =>
    match e.deviceAt (.hubPort d (rPort x j)) with
    | none => none
    | some (k, _) => Engine.follow e x n (j + 1) (BitVec.ofNat 20 k)

/-- The links from a hub to a device below it, the first leaving the hub. -/
def Engine.links (e : Engine) (hub dev : DevNum) : Path := (e.commons.path dev).drop (e.commons.path hub).length

/-- The form checks of an entry on a hub of a tier (R137). -/
def entryFormOk (tier : Nat) (x : Qword) : Bool :=
  fldN x 59 5 == 0 && decide (1 ≤ rDepth x) && decide (rDepth x ≤ 4) && decide (tier - 1 + rDepth x ≤ 5)
    && rRoute x / 32 ^ rDepth x == 0
    && (if rNested x then rEp x == 0 && fldN x 56 3 == 0 else rEp x != 0 && decide (rLimit x ≤ 1024))

/-- The target of an entry: device and endpoint, or hub and child list. -/
def rTarget (x : Qword) : Nat × Nat × Bool :=
  ((rDev x).toNat, if rNested x then rChild x else (rEp x).toNat, rNested x)

/-- Bytes that an entry's reply can take, and the time term of its answer (R138). -/
def Engine.entryTerms (e : Engine) (x : Qword) : Nat × Nat :=
  if rNested x then
    (e.commons.bound 6 (rDev x) (rChild x),
      match e.commons.list? (rDev x) (rChild x) with | some l => 10 * l.deadline | none => 0)
  else (min (rLimit x + 1) 1024, 1000)

/-- The bound of R138 on a list's deadline, in ns. -/
def Engine.deadlineBound (e : Engine) (hub : DevNum) (es : List Qword) : Nat :=
  let t (x : Qword) : Nat :=
    let ls := e.links hub (rDev x)
    let (b, r) := e.entryTerms x
    (32 + b) * tauSum (ls.drop 1) + rttSum ls + 1000 * (ls.length - 1) + r
  let u (port : Nat) : Nat :=
    ((es.filter fun x => rPort x 0 == port).map fun x =>
      (32 + (e.entryTerms x).1) * (((e.links hub (rDev x)).head?.map (·.1)).getD 0)).sum
  500 + (es.map t).foldl max 0 + ((List.range 32).map u).foldl max 0

/-- Payload bound of entries (R138). -/
def Engine.entriesBound (e : Engine) (es : List Qword) : Nat := payloadBound (e.commons.bound 6) es

/-- No element occurs twice. -/
def allDistinct {α : Type} [BEq α] : List α → Bool
  | [] => true
  | x :: xs => !xs.contains x && allDistinct xs

/-- The checks of R154 on an image for a hub; `none` is an image that could not be read. -/
def imageChecks (f : Fn) (hub : DevNum) (listId : Nat) (u : HubInfo) (bs : Option (List Byte)) (e : Engine) :
    List Check :=
  match bs.bind parseImage with
  | none => [{ bad := true, status := 0x82 }]
  | some m =>
    let form := m.version == 1 && m.listId == listId && decide (1 ≤ m.entries.length) && decide (m.entries.length ≤ 512)
      && decide (1 ≤ m.deadline) && m.tag == f.val && m.reserved == 0 && m.entries.all (entryFormOk u.tier)
      && allDistinct (m.entries.map rTarget)
    let leads := m.entries.all fun x => e.follow x (rDepth x) 0 hub == some (rDev x)
    let nestedBad := m.entries.any fun x => rNested x &&
      (match e.commons.list? (rDev x) (rChild x) with | some l => l.holding != f || l.nested | none => true)
    let foreign := m.entries.any fun x => !rNested x &&
      (match e.dev? (rDev x) with | some d => d.owner != f || d.hub.isSome | none => false)
    [{ bad := !form || !leads, status := 0x82 },
     { bad := foreign, status := 0x83 },
     { bad := form && leads && !nestedBad
         && (decide (16384 < e.entriesBound m.entries) || decide (10 * m.deadline < e.deadlineBound hub m.entries))
       status := 0x82 },
     { bad := decide (256 ≤ (e.commons.lists.filter fun l => l.hub == hub && l.gone.isNone).length), status := 0x84 },
     { bad := nestedBad || (e.commons.list? hub listId).isSome, status := 0x87 }]

/-! ## Groups (R153) -/

/-- A device lies below a group's root. -/
def Engine.inGroup (e : Engine) (g : ReapGroup) (d : DevNum) : Bool :=
  match g.rootPort with
  | some r => e.commons.below (.root r) 7 d
  | none => match e.dev? g.root with | some v => e.commons.below v.pos 7 d | none => false

/-- An endpoint table has an endpoint as periodic IN (R87). -/
def periodicIn (table : List Byte) (ep : EpNum) : Bool :=
  (List.range (table.length / 4)).any fun k =>
    let b := leAt (4 * k) 1 table
    b % 16 == ep.toNat && b / 16 % 4 == 2 && b / 64 % 2 == 1

/-- The holding's devices below a group's root. -/
def Engine.candidates (e : Engine) (h : Fn) (g : ReapGroup) : List (DevNum × Dev) :=
  (e.commons.devs.filter fun x =>
    x.2.hub.isNone && x.2.owner == h && e.inGroup g (BitVec.ofNat 20 x.1)).map fun x => (BitVec.ofNat 20 x.1, x.2)

/-- Members of a group: those of the holding's devices below its root whose endpoint table has the endpoint as periodic IN
(R87, R153). -/
def Engine.members (e : Engine) (h : Fn) (g : ReapGroup) : List DevNum :=
  ((e.candidates h g).filter fun x => match x.2.endpoints with | some t => periodicIn t g.ep | none => false).map (·.1)

/-- The devices below a group's root whose endpoint table firmware has still to read: it tells the members by it
(DEDUCED, log entry 46). -/
def Engine.unread (e : Engine) (h : Fn) (g : ReapGroup) : List DevNum :=
  ((e.candidates h g).filter fun x => x.2.endpoints.isNone && x.2.configured).map (·.1)

/-- Read the endpoint table of a device, unless that is under way: 16 endpoints at most, 4 bytes each (R87, R88). -/
def readTableOf (d : DevNum) (e : Engine) : Engine :=
  if e.commons.xfers.any fun x => x.purpose == .epTable d then e
  else addXferTo d (setupPacket 0x0001 0 0 true 2 64) [] (.epTable d) e

/-- The relative route of a device below a hub, and its depth (R137). -/
def Engine.relRoute (e : Engine) (hub dev : DevNum) : Nat × Nat :=
  match e.dev? hub, e.dev? dev with
  | some a, some b => (b.route.toNat % 2 ^ 25 / 32 ^ a.depth, b.depth - a.depth)
  | _, _ => (0, 0)

/-- An entry for a leaf or a nested list. -/
def Engine.entryFor (e : Engine) (hub dev : DevNum) (ep : EpNum) (nested : Option Nat) (limit : Nat) : Qword :=
  let (route, depth) := e.relRoute hub dev
  BitVec.ofNat 64 (dev.toNat + 2 ^ 20 * (if nested.isSome then 0 else ep.toNat) + 2 ^ 24 * route + 2 ^ 44 * depth
    + 2 ^ 47 * b2n nested.isSome + 2 ^ 48 * (nested.getD limit))

/-- The lowest free list id on a hub. -/
def Engine.freeListId (e : Engine) (hub : DevNum) : Option Nat :=
  (List.range 256).find? fun n => !(e.commons.lists.any fun l => l.hub == hub && l.listId == n)

/-- Cut a list into pieces of at most `n`. -/
def pieces {α : Type} (n : Nat) : Nat → List α → List (List α)
  | 0, _ => []
  | _, [] => []
  | k + 1, l => l.take n :: pieces n k (l.drop n)

/-- A list of a group with the deadline of R138, rounded up to 100 ns, recorded on its hub; none when no id is
free. Its image lies in the work area, where firmware has built it. -/
def makeList (h : Fn) (group : Nat) (hub : DevNum) (es : List Qword) (e : Engine) : Option (PlantedList × Engine) :=
  match e.freeListId hub with
  | none => none
  | some id =>
    let (v, e) := freshValue e
    let area := match (e.hold h).mapFor e.nextG with
      | some m => e.workAddr h m (16 + 8 * es.length) v.toNat
      | none => 0
    let l : PlantedList :=
      { hub, listId := id, holding := h, image := BitVec.ofNat 64 area, entries := es,
        deadline := roundUp (e.deadlineBound hub es) 100 / 10, nested := false, group := some group }
    some (l, recordList l (hostWrite h l.image (imageBytes l) false e))

/-- Span of a REAP of entries on a hub with a deadline (R117). -/
def Engine.reapSpan (e : Engine) (hub : DevNum) (bound deadline : Nat) : Nat :=
  spanOf (e.commons.path hub) 18 (14 + bound) (10 * deadline)

/-- Firmware's own lists as it builds them: each with the hub that it is a top list below, in order of creation. -/
abbrev Tops := List (DevNum × PlantedList)

/-- Make several lists on a hub, in order; none when ids run out. -/
def makeLists (h : Fn) (n : Nat) (hub : DevNum) (ls : List (List Qword)) (e : Engine) : Option (Tops × Engine) :=
  ls.foldl (fun acc es =>
    match acc with
    | none => none
    | some (done, e) => (makeList h n hub es e).map fun x => (done ++ [(hub, x.1)], x.2)) (some ([], e))

/-- The hub above a device. -/
def Engine.parent (e : Engine) (d : DevNum) : Option DevNum :=
  match (e.dev? d).map (·.pos) with
  | some (Position.hubPort p _) => some p
  | _ => none

/-- The entries of the leaf lists of a hub: the members on its own downstream ports in port order, 512 per list. -/
def Engine.leafLists (e : Engine) (hub : DevNum) (ep : EpNum) (limit : Nat) (ms : List DevNum) : List (List Qword) :=
  let mine := sortBy (fun d => match (e.dev? d).map (·.pos) with | some (Position.hubPort _ q) => q | _ => 0)
    (ms.filter fun d => e.parent d == some hub)
  (pieces 512 64 mine).map fun part => part.map fun d => e.entryFor hub d ep none limit

/-- The stripes of a hub over the top lists below its children: stripe j nests the j-th of every child that has one. -/
def Engine.stripes (e : Engine) (hub : DevNum) (tops : Tops) : List (List Qword) :=
  let kids := tops.filter fun t => e.parent t.1 == some hub
  let children := (kids.map (·.1)).eraseDups
  let wide := (children.map fun c => (kids.filter fun t => t.1 == c).length).foldl max 0
  (List.range wide).map fun j =>
    children.filterMap fun c => ((kids.filter fun t => t.1 == c)[j]?).map fun t =>
      e.entryFor hub t.2.hub 0 (some t.2.listId) 0

/-- A stripe is one that R153 plants: m at most 16,384 bytes, and the span of its REAP at most 50 us. -/
def Engine.stripeFits (e : Engine) (hub : DevNum) (es : List Qword) : Bool :=
  let m := e.entriesBound es
  decide (m ≤ 16384) && decide (e.reapSpan hub m (roundUp (e.deadlineBound hub es) 100 / 10) ≤ 50000)

/-- One hub of the second loop of R153: its stripes take the place of their members among the top lists, or the lists below
its children are top lists below it. -/
def stripeHub (h : Fn) (n : Nat) (acc : Option (Tops × List PlantedList × Engine)) (hub : DevNum) :
    Option (Tops × List PlantedList × Engine) :=
  match acc with
  | none => none
  | some (tops, all, e) =>
    let ss := e.stripes hub tops
    let kid (t : DevNum × PlantedList) : Bool := e.parent t.1 == some hub
    if ss.isEmpty then acc
    else if !ss.all (e.stripeFits hub) then
      some (tops.map (fun t => if kid t then (hub, t.2) else t), all, e)
    else
      (makeLists h n hub ss e).map fun x => (tops.filter (fun t => !kid t) ++ x.1, all ++ x.1.map (·.2), x.2)

/-- Build the lists of a group (R153): leaf lists of every hub with members, then stripes from the deepest tier
to tier 1. Answers the top lists in order of creation, all lists, and the engine that records them; none when a hub has no
free list id. -/
def buildGroup (h : Fn) (n : Nat) (g : ReapGroup) (e : Engine) : Option (List (DevNum × Nat) × List PlantedList × Engine) :=
  let ms := e.members h g
  let hubs := (sortBy (fun x => 10 - x.2.depth) (e.commons.devs.filter fun x =>
    x.2.hub.isSome && e.inGroup g (BitVec.ofNat 20 x.1))).map fun x => ((BitVec.ofNat 20 x.1 : DevNum))
  let leaves := hubs.foldl (fun (acc : Option (Tops × Engine)) hub =>
    match acc with
    | none => none
    | some (tops, e) =>
      (makeLists h n hub (e.leafLists hub g.ep g.limit ms) e).map fun x => (tops ++ x.1, x.2)) (some ([], e))
  match leaves with
  | none => none
  | some (tops, e) =>
    (hubs.foldl (stripeHub h n) (some (tops, tops.map (·.2), e))).map fun x =>
      (x.1.map fun t => (t.2.hub, t.2.listId), x.2.1, x.2.2)

/-- The leaf lists of a group keep within the payload that a list and its REAP descriptor can have (R107, R138): a group
with a longer one has a descriptor that cannot be placed. -/
def Engine.leavesFit (e : Engine) (h : Fn) (g : ReapGroup) : Bool :=
  let ms := e.members h g
  e.commons.devs.all fun x =>
    (e.leafLists (BitVec.ofNat 20 x.1) g.ep g.limit ms).all fun es => decide (e.entriesBound es ≤ 16384)

/-- Place a REAP descriptor for each top list, as R133 places descriptors. -/
def placeTops (h : Fn) (n : Nat) (interval : Nat) : List (DevNum × Nat) → Engine → Option Engine
  | [], e => some e
  | (hub, li) :: rest, e =>
    match e.commons.list? hub li, mget (e.hold h).groups n with
    | some l, some g =>
      let d := reapDesc g.ring l (e.commons.bound 6 hub li)
      match e.findPlace h ((e.rootOf hub).getD 0) interval d with
      | none => none
      | some (phase, row) =>
        placeTops h n interval rest (modHold h (fun x => { x with
          groups := mmod (fun g => { g with placed := g.placed ++ [(hub, li, phase, row)] }) x.groups n }) e)
    | _, _ => none

/-- Plant the lists of a group that is being built. -/
def plantGroup (ls : List PlantedList) (e : Engine) : Engine := forAll ls (fun l => plantXfer l (.plant l none)) e

/-- Every list of a group is planted: its schedule is placed and takes the place of the former one; a group that
cannot be placed keeps none of its new lists, and a new group ends with 0x85 (R153). -/
def groupPlanted (h : Fn) (n : Nat) (e : Engine) : Engine :=
  match mget (e.hold h).groups n with
  | none => e
  | some g =>
    let old := g.placed
    let isNew (l : PlantedList) : Bool := l.group == some n && l.holding == h && g.building.contains (l.hub, l.listId)
    let isOld (l : PlantedList) : Bool := l.group == some n && l.holding == h && !g.building.contains (l.hub, l.listId)
    let setG (f : ReapGroup → ReapGroup) : Engine → Engine := modHold h fun x => { x with groups := mmod f x.groups n }
    match placeTops h n g.interval g.tops (setG (fun g => { g with placed := [] }) e) with
    | some e =>
      let e := setG (fun g => { g with building := [], tops := [] }) e
      let e := publish h 0 1 e
      let e := clearLists isOld e.nextG e
      let placed := match mget (e.hold h).groups n with | some g => g.placed | none => []
      let firsts := placed.map fun x => (firstServed e.nextG x.2.2.1 g.interval).toNat
      let first := match firsts with | [] => e.nextG.toNat | y :: ys => ys.foldl min y
      finishWaiting (fun r => r.wait == .group h n) 0x80 (dword2 := BitVec.ofNat 32 (n + 65536 * g.tops.length))
        (data := leBytes 8 first) (e := e)
    | none =>
      let fresh := old.isEmpty
      let e := setG (fun g => { g with placed := old, building := [], tops := [] }) e
      let e := clearLists isNew e.nextG e
      let e := if fresh then modHold h (fun x => { x with groups := mdel x.groups n }) e else e
      finishWaiting (fun r => r.wait == .group h n) 0x85 (e := e)

/-- A build of a group has failed: its new lists are cleared, a new group is forgotten, its command ends. -/
def groupFailed (h : Fn) (n : Nat) (status : Byte) (dword2 : Dword) (e : Engine) : Engine :=
  match mget (e.hold h).groups n with
  | none => e
  | some g =>
    let e := modHold h (fun x => { x with
      groups := mmod (fun g => { g with left := 0, building := [], tops := [] }) x.groups n }) e
    let e := clearLists (fun y => y.group == some n && y.holding == h && g.building.contains (y.hub, y.listId)) e.nextG e
    let e := if g.placed.isEmpty then modHold h (fun x => { x with groups := mdel x.groups n }) e else e
    finishWaiting (fun r => r.wait == .group h n) status (dword2 := dword2) (e := e)

/-- A plant of a group's list has ended. -/
def groupPlant (l : PlantedList) (good : Bool) (status : Byte) (e : Engine) : Engine :=
  match l.group with
  | none => e
  | some n =>
    match mget (e.hold l.holding).groups n with
    | none => e
    | some g =>
      if !g.building.contains (l.hub, l.listId) then e
      else if good then
        let e := modHold l.holding (fun x => { x with
          groups := mmod (fun g => { g with left := g.left - 1 }) x.groups n }) e
        if g.left ≤ 1 then groupPlanted l.holding n e else e
      else groupFailed l.holding n 0x87 (BitVec.ofNat 32 (256 * status.toNat)) e

/-- Build or rebuild a group, once the endpoint tables that tell its members are read: its lists are recorded and planted;
with none to plant it is placed at once. A build still in progress is given up for the new one; without a free list id the
build fails. -/
def startGroup (h : Fn) (n : Nat) (e : Engine) : Engine :=
  match mget (e.hold h).groups n with
  | none => e
  | some g =>
    let setG (f : ReapGroup → ReapGroup) : Engine → Engine := modHold h fun x => { x with groups := mmod f x.groups n }
    let e := clearLists (fun y => y.group == some n && y.holding == h && g.building.contains (y.hub, y.listId)) e.nextG e
    let unread := e.unread h g
    if !unread.isEmpty then
      forAll unread readTableOf (setG (fun g => { g with asking := true, building := [], tops := [], left := 0 }) e)
    else
      let e := setG (fun g => { g with asking := false, building := [], tops := [], left := 0 }) e
      if !e.leavesFit h g then groupFailed h n 0x85 0 e
      else match buildGroup h n g e with
      | none => groupFailed h n 0x84 0 e
      | some (tops, ls, e) =>
        let e := setG (fun g => { g with building := ls.map (fun l => (l.hub, l.listId)), tops, left := ls.length }) e
        if ls.isEmpty then groupPlanted h n e else plantGroup ls e

/-- The endpoint table of a device has been read, or could not be: it then has no endpoint that a group takes (DESIGN
CHOICE, log entry 46). -/
def tableRead (x : Xfer) (d : DevNum) (good : Bool) (e : Engine) : Engine :=
  modDev d (fun v => { v with endpoints := some (if good then x.got else []) }) (dropXfer x.id e)

/-- The plants of groups' lists that a detach or reset has ended. -/
def sweepPlants (e : Engine) : Engine :=
  forAll (e.commons.xfers.filter fun x => match x.purpose with | .plant _ none => x.result.isSome | _ => false)
    (fun x e =>
      match x.purpose, x.result with
      | .plant l none, some (st, _) => groupPlant l (st == 0) st (dropXfer x.id e)
      | _, _ => e) e

/-- Firmware rebuilds each group from which a member has departed, or which a new one has joined (R153), and reads the
endpoint tables of devices that have come below a group's root; a group that waited for one is built. -/
def rebuildGroups (before e : Engine) : Engine :=
  if before.commons.devs = e.commons.devs then e
  else forAll e.created (fun h e =>
    forAll (e.hold h).groups (fun x e =>
      let unread := e.unread h x.2
      if !unread.isEmpty then forAll unread readTableOf e
      else if x.2.asking || before.members h x.2 != e.members h x.2 then startGroup h x.1 e else e) e) e

/-- The partner's copy of the hub tables takes every change of a device on a yoked port (R27, R265). -/
def mirrorDevs (before e : Engine) : Engine :=
  let yokes (v : Dev) : Bool := bitOf e.yoke.yokedPorts v.root.val
  if before.commons.devs = e.commons.devs || !e.yoke.yoked then e
  else
    let e := forAll (before.commons.devs.filter fun x => yokes x.2 && !mhas e.commons.devs x.1)
      (fun x => mirror (.unbind (BitVec.ofNat 20 x.1))) e
    forAll (e.commons.devs.filter fun x => yokes x.2 && mget before.commons.devs x.1 != some x.2)
      (fun x => mirror (.device (BitVec.ofNat 20 x.1) x.2)) e

/-- A command that may change the hub tables, with what the groups and the partner make of it. -/
def treeWork (f : Engine → Engine) (e : Engine) : Engine := mirrorDevs e (rebuildGroups e (sweepPlants (f e)))

end Sys2Proof.Machine
end

