-- ==== Sys2Proof/Machine/HoldOps.lean ====
section
/-! DEFINITION. Operations on holdings (08_holdings.md): slices (R233), the reset point of a holding (R241 to
R243), its end (R244), destruction (R246). -/

namespace Sys2Proof.Machine

/-! ## Plots and slices -/

/-- The slice of plot `k` of `n` for a table of `entries` contexts (R233): base and count. -/
def sliceOf (k n entries : Nat) : Nat × Nat :=
  let at_ (k : Nat) := 4096 * (k * (entries / 4096) / n)
  (at_ k, at_ (k + 1) - at_ k)

/-- A plot carries work: items started in it, or descriptors staged in it (R17). -/
def Engine.plotBusy (e : Engine) (p : PlotId) : Bool :=
  (e.items.any fun i => i.active && i.plot == p.val) || (e.staged.any fun d => d.plot == p.val)
    || !(e.plot p).walks.isEmpty

/-- Recompute the slices of a holding over its plots in plot-number order, with its port set (R15, R233). What a plot has
begun under an earlier slice ends in it. -/
def reslice (h : Fn) (e : Engine) : Engine :=
  let ps := e.slicePlots h
  let n := ps.length
  forAll ps.zipIdx (fun x e =>
    let (b, c) := sliceOf x.2 n (e.hold h).ctxEntries
    let busy := e.plotBusy x.1
    let keep (q : Plot) : List (Nat × Nat) :=
      if !busy then [] else if (q.base, q.count) == (b, c) then q.former else q.former ++ [(q.base, q.count)]
    modPlot x.1 (fun q => { q with base := b, count := c, former := keep q, ports := (e.hold h).portSet }) e) e

/-- Begin to zero-fill a plot, for a holding or to become free (R16). -/
def clearPlot (p : PlotId) (h : Option Fn) : Engine → Engine :=
  modPlot p fun q => { q with clearing := true, clearFor := h, allotted := false, removing := false, removed := false,
                              former := [], cache := [], walks := [] }

/-- Take free plots for a holding, lowest number first (R232): each is cleared before it changes holding (R16). -/
def takePlots (h : Fn) (n : Nat) (e : Engine) : Engine :=
  forAll (e.freePlots.take n) (fun p => clearPlot p (some h)) e

/-- The plots that count toward a holding's allotment: allotted and not being removed, or being cleared for it. -/
def Engine.allotment (e : Engine) (h : Fn) : List PlotId :=
  (allFin 272).filter fun p =>
    let q := e.plot p
    (q.allotted && q.holding == h && !q.retired && !q.removing && !q.removed) || q.clearFor == some h

/-- A change of a holding's plots is still under way (R218). -/
def Engine.plotsMoving (e : Engine) (h : Fn) : Bool :=
  e.plots.toList.any fun q =>
    q.clearFor == some h || (q.holding == h && (q.removing || q.removed || (q.clearing && q.clearFor.isNone)))

/-- HOLDING CREATE and ALLOT PLOTS complete once every plot concerned is assigned or cleared (R218). -/
def sweepPlots (h : Fn) (e : Engine) : Engine :=
  if e.plotsMoving h then e
  else
    let n := (e.allotment h).length
    finishWaiting (fun r => match r.wait with | .plots g _ => g == h | _ => false) 0x80
      (dword2 := BitVec.ofNat 32 n) (e := e)

/-! ## Isolation and the fate of a failed plot's items (R19, R258, R259) -/

/-- Every outstanding transaction that a plot's items and descriptors hold at the ports is dropped. -/
def dropPlotTx (p : PlotId) (e : Engine) : Engine :=
  let mine (o : TxOwner) : Bool :=
    match o with
    | .item id => (match e.item? id with | some i => i.plot == p.val && !i.visiting | none => false)
    | .staged id => (match e.staged? id with | some d => d.plot == p.val && !d.relayed | none => false)
    | _ => false
  { e with ports := e.ports.map fun t => { t with arb := { t.arb with
      outstanding := t.arb.outstanding.filter fun x => !mine x.owner
      grant := match t.arb.grant with | some o => if mine o then none else some o | none => none } } }

/-- The host reads of a failed plot are forgotten. -/
def dropPlotReads (p : PlotId) (e : Engine) : Engine :=
  let ids := (e.staged.filter fun d => d.plot == p.val && !d.relayed).map (·.id)
  let items := (e.items.filter fun i => i.plot == p.val && !i.visiting).map (·.id)
  forgetReads (fun r =>
    match r with
    | .rows q _ _ => q == p
    | .outSlot id | .soloContext id | .reapImage id => ids.contains id
    | .context id | .outData id => items.contains id
    | _ => false) e

/-- ISOLATE (R19, R258): the plot's requests, host reads and outputs stop and its transactions are dropped; it waits for SPARE
in order of detection (R20). An item that a reset or a change of owner awaits ends with its transaction. -/
def isolatePlot (p : PlotId) (e : Engine) : Engine :=
  -- its cached contexts are lost: of an idle endpoint whose changes were not written back, the item record has them (R259)
  let lost (i : Item) : Bool := !i.active && !i.visiting && i.jr.holding == (e.plot p).holding &&
    (e.plot p).cache.any fun l => l.2.dirty && ctxDev l.2.raw == i.jr.dev && ctxEp l.2.raw == i.jr.ep
  let e := { e with items := lmod lost (fun i => { i with spared := true }) e.items }
  let e := dropPlotReads p (dropPlotTx p (modPlot p (fun q => { q with isolated := true, cache := [] }) e))
  let e := forAll (e.items.filter fun i => i.active && i.plot == p.val && !i.visiting && i.phase == .outstanding) (fun i e =>
    match i.abort with
    | some st => endItem i.id st e
    | none => modItem i.id (fun i => { i with phase := .ready }) e) e
  { e with toSpare := e.toSpare ++ [p] }

/-- A plot's request that the holding isolation unit refuses (R15): counted, logged, and a logic fault of the plot. -/
def isolationReject (p : PlotId) (e : Engine) : Engine :=
  let e := attn pf 0x32 (index := BitVec.ofNat 32 p.val) (argument := BitVec.ofNat 32 (e.plot p).holding.val)
    (e := countDev 0 e)
  if (e.plot p).isolated then e else pulse (64 + p.val / 16) (isolatePlot p e)

/-- Re-issue an item in another plot from its journal record (R259): its context is read anew. -/
def moveItem (p : PlotId) (id : Nat) (e : Engine) : Engine :=
  match e.item? id with
  | none => e
  | some i =>
    if !i.active || i.visiting || i.phase == .relayed || i.phase == .waitEntry then modItem id (fun i => { i with plot := p.val }) e
    else
      let begun := i.phase != .waitContext && i.phase != .waitTurn
      let e := forgetReads (fun r => r == .context id || r == .outData id) e
      let e := modItem id (fun i => { i with
        plot := p.val, spared := i.spared || begun, phase := .waitTurn, data := [] }) e
      turns i.jr.holding i.jr.dev i.jr.ep e

/-- The items of a plot run on in another. -/
def moveItems (old new : PlotId) (e : Engine) : Engine :=
  forAll (e.items.filter fun i => i.plot == old.val) (fun i => moveItem new i.id) e

/-- Items of a plot that was retired without replacement run on in the plot that has come to cover their slice (R20). -/
def rehome (e : Engine) : Engine :=
  forAll (e.items.filter fun i => i.active && (e.plot (finOf 272 i.plot)).retired) (fun i e =>
    match ((e.hold i.jr.holding).ctxIndex i.jr.dev i.jr.ep).bind (e.plotOf i.jr.holding) with
    | some p => moveItem p i.id e
    | none => e) e

/-! ## The reset point -/

/-- A command that a reset ended no longer has its transfers report to it. -/
def orphanSrc (src : AdminSrc) (e : Engine) : Engine :=
  let cut (p : Purpose) : Purpose :=
    match p with
    | .portOrder hub q o s => if s == some src then .portOrder hub q o none else p
    | _ => p
  let e := modCommons (fun c => { c with xfers := c.xfers.map fun x =>
    { x with purpose := cut x.purpose, orphan := if cut x.purpose == x.purpose then x.orphan else some src.fn } }) e
  { e with
    ports := e.ports.map fun t => { t with
      powerOrders := t.powerOrders.map fun x => if x.2.2 == some src then (x.1, x.2.1, none) else x }
    yoke := { e.yoke with
      handovers := e.yoke.handovers.map fun x => if x.src == some src then { x with src := none } else x
      configuring := match e.yoke.configuring with
        | some x => if x.1 == src then none else some x
        | none => none }
    pwr := match e.pwr.prep with
      | some x => if x.1 == src then { e.pwr with prep := none, prepDrain := false, held := none, sleep := false } else e.pwr
      | none => e.pwr }

/-- The commands that complete later than at their start (R218); the others run to their end. -/
def Defer.deferred : Defer → Bool
  | .sqDisabled _ _ | .retired _ | .enumeration _ | .portOrder _ _ | .devReset _ _ | .plots _ _ | .reset _
  | .freeze _ _ | .take _ | .power => true
  | .portRecord _ | .plant | .assign _ _ _ | .group _ _ | .yoke => false

/-- End a started command with 0x87: a deferred one at a reset point (R242). -/
def endRunning (r : Running) (e : Engine) : Engine :=
  let e := orphanSrc r.src e
  let e := whenE (r.wait == .power) resumeSlept e
  let e := match r.wait with
    | .enumeration id => modCommons (fun c => { c with
        enums := c.enums.filter fun n => n.id != id
        xfers := lmod (·.purpose == .enumStep id) (fun x => { x with orphan := some r.src.fn }) c.xfers }) e
    | _ => e
  endCommand r 0x87 0 [] false e

/-- The response of a mailbox command in progress is discarded by an FLR and by PE_PERST_N, which keeps the mailbox (R203,
R206, R243). -/
def discardResponse (h : Fn) (kind : ResetKind) (e : Engine) : Engine :=
  { e with fw := { e.fw with
    running := lmod (·.src == .mailbox h) (fun r => { r with discard := some (kind != .flr) }) e.fw.running } }

/-- Deferred commands of the holding (R242), and those that wait for an event of the holding that a reset prevents. -/
def Running.endsWith (r : Running) (h : Fn) : Bool :=
  r.due.isNone && ((r.wait.deferred && r.src.fn == h) || (match r.wait with | .freeze g _ => g == h | _ => false))

/-- Formed completions that have not been written become outcomes of the account (R243). -/
def accountFormed (h : Fn) (e : Engine) : Engine :=
  let recs := (e.hold h).cqs.flatMap fun q => q.2.queue.flatMap (·.recs)
  let e := forAll recs (account h) e
  modHold h (fun x => { x with cqs := x.cqs.map fun q => (q.1, { q.2 with queue := [] }) }) e

/-- The taken, unstarted entries of one SQ end with 0x21, its reads are forgotten, and its open batch closes (R189, R197,
R242). -/
def abortCached (h : Fn) (n : Nat) (e : Engine) : Engine :=
  match mget (e.hold h).sqs n with
  | none => e
  | some q =>
    let e := forgetReads (fun t => t == .poll h n || t == .fetch h n) e
    let live := q.cached.filterMap fun c => (c.units.head?).bind fun u => if eOpcode u = 0 then none else some (c, u)
    let rest (b : List BatchRec) : List BatchRec :=
      match b.getLast? with
      | none => []
      | some l => b.dropLast ++ [{ l with complete := true }]
    if n = 0 then
      forAll live (fun x =>
        reply (.queue h x.1.unit) (BitVec.ofNat 512 x.2.toNat) 0x21 0 [] false)
        (modSq h n (fun q => { q with cached := [], seen := [], polling := [], fetching := none }) e)
    else
      let more := live.zipIdx.map fun x =>
        ({ unit := x.1.1.unit, order := q.started + BitVec.ofNat 32 x.2, tag := eTag x.1.2, complete := false
           interrupt := eInterrupt x.1.2, status := some 0x21, bytes := 0 } : BatchRec)
      sweepBatches h n (modSq h n (fun q => { q with
        cached := [], seen := [], polling := [], fetching := none, batch := rest (q.batch ++ more) }) e)

/-- The fates of R242 at the reset point, the reset being recorded. -/
def resetFates (h : Fn) (kind : ResetKind) (e : Engine) : Engine :=
  let e := whenE (kind != .command) (discardResponse h kind ∘ accountFormed h) e
  let e := forAll ((e.hold h).sqs.map (·.1)) (abortCached h) e
  let e := forAll (e.items.filter fun i => i.active && i.jr.holding == h) (fun i e =>
    if i.phase == .outstanding || i.phase == .relayed then
      modItem i.id (fun i => { i with abort := some 0x21, resetting := true }) e
    else decideItem i.id 0x21 e) e
  let e := forAll (e.fw.running.filter (·.endsWith h)) endRunning e
  if kind == .perst then
    { e with staged := lmod (fun d => d.holding == h) (fun d => { d with dropped := true }) e.staged }
  else
    let queued := ((e.hold h).rings.map fun r => (r.2.queue.map (·.count)).sum).sum
    let e := forAll (List.range queued) (fun _ => countH h 3) e
    let e := modHold h (fun x => { x with
      rings := x.rings.map fun r => (r.1, { r.2 with queue := [] }), latched := [] }) e
    sweepAssign { e with
      staged := (lmod (fun d => d.holding == h) (fun d => { d with dropped := true }) e.staged).filter fun d =>
        d.holding != h || d.phase == .started
      plots := e.plots.map fun q => if q.holding == h then { q with walks := [] } else q
      frameLogs := e.frameLogs.filter fun l => l.holding != h }

/-- The kind of the reset that goes on when a further reset comes (R243, R369): the wider one. -/
def ResetKind.join (old new : ResetKind) : ResetKind :=
  match old, new with
  | .gone, _ => .gone
  | _, .gone => .gone
  | .perst, .perst => .perst
  | .command, .command => .command
  | _, _ => .flr

/-- The reset point of a holding (R241, R242). -/
def resetPoint (h : Fn) (kind : ResetKind) (src : Option AdminSrc) (destroy : Bool) (e : Engine) : Engine :=
  match (e.fn h).reset with
  | some r =>
    let k := r.kind.join kind
    let e := modFn h (fun x => { x with reset := some { r with kind := k, destroy := r.destroy || destroy } }) e
    resetFates h kind e
  | none =>
    resetFates h kind (modFn h (fun x => { x with reset := some { kind, src, destroy } }) e)

/-! ## The end of a reset -/

/-- Every outcome of a holding in reset is placed (R244). -/
def Engine.placed (e : Engine) (h : Fn) (r : ResetInfo) : Bool :=
  !(e.items.any fun i => i.active && i.jr.holding == h)
    && !(r.kind != .perst && e.staged.any fun d => d.holding == h && d.phase == .started)
    && !(e.fw.running.any fun x => x.src.fn == h && (match x.wait with | .reset g => g != h | _ => true))

/-- Tell the partner that a holding's queues, and with `all` its rings, map and table, are gone (R265). -/
def shadowGone (h : Fn) (all : Bool) (e : Engine) : Engine :=
  let x := e.hold h
  let e := forAll x.ownSqs (fun q => shadow (.sq h q.1 none)) e
  let e := forAll x.ownCqs (fun q => shadow (.cq h q.1 none)) e
  if !all then e
  else
    let e := forAll x.ownRings (fun q => shadow (.sheafRing h q.1 none)) e
    let e := whenE x.alarmRing.isSome (shadow (.alarmRing h none)) e
    let e := whenE x.fieldMap.isSome (shadow (.rowrate h 0) ∘ shadow (.fieldMap h none)) e
    whenE (x.ctxEntries != 0) (shadow (.contextTable h 0 0)) e

/-- What a reset leaves of a holding (R244, R366, R367). -/
def resetLosses (h : Fn) (kind : ResetKind) (e : Engine) : Engine :=
  let all := kind != .perst
  let e := shadowGone h all e
  let e := modHold h (fun x => { x with sqs := [], cqs := [], freeze := none }) e
  if !all then e
  else
    let e := whenE (kind == .command) (writeBackAll h) e
    let e := dropCache h e
    let e := clearLists (fun l => l.holding == h) e.nextG e
    modHold h (fun x => { x with
      rings := [], alarmRing := none, alarmAdopted := none, fieldMap := none, fieldMapNext := none, adoptedMap := none, scheduled := []
      groups := [], work := [], rowrateHost := 0, latched := [], ctxBase := 0, ctxEntries := 0, ctxOf := [] }) e

/-- Every port of an owner goes to holding 0, and the devices on them (R246). -/
def givePorts (h : Fn) (e : Engine) : Engine :=
  let roots := ((allFin 32).filter fun p => (e.port p).rh.owner == h).map fun p => Position.root p
  let hubs := e.commons.devs.flatMap fun x =>
    match x.2.hub with
    | some u => (u.down.filter fun y => y.2.owner == h).map fun y => Position.hubPort (BitVec.ofNat 20 x.1) y.1
    | none => []
  let e := forAll (roots ++ hubs) (fun p e => mirror (.owner p pf) (setOwner p pf e)) e
  modCommons (fun c => { c with
    devs := c.devs.map fun x => if x.2.owner == h then (x.1, { x.2 with owner := pf }) else x
    tracks := c.tracks.filter fun t => t.holding != h }) e

/-- The rest of a destruction, after the holding's reset (R246, R395). -/
def destroyHolding (h : Fn) (e : Engine) : Engine :=
  let e := { e with plots := e.plots.map fun q =>
    if q.isolated && q.holding == h then { q with allotted := false, removing := false, removed := false }
    else if q.clearFor == some h then { q with clearFor := none } else q }
  let e := forAll ((allFin 272).filter fun p => (e.plot p).allotted && (e.plot p).holding == h && !(e.plot p).retired)
    (fun p => clearPlot p none) e
  let e := givePorts h e
  let e := mirror (.gleaning h 0) (mirror (.reserve h 0xFFFFFFFF#32 200 0 0 16) e)
  let e := { e with holdings := vmod e.holdings h fun _ => {} }
  modFn h (fun x => { x with
    log := [], logLost := 0, applied := [], account := {}, counters := {}, degraded := false, note := none
    condDue := false, arbLatch := [] }) e

/-- Write every formed completion of a holding's CQs. -/
def flushHolding (h : Fn) (e : Engine) : Engine := forAll ((e.hold h).cqs.map (·.1)) (flushCq h) e

/-- End a holding reset (R243 to R246): completions are written before a queue is deleted, the command's own
last. -/
def resetEnd (h : Fn) (e : Engine) : Engine :=
  match (e.fn h).reset with
  | none => e
  | some r =>
    if !e.placed h r then e
    else
      let e := flushHolding h e
      -- the command of the holding itself completes into its CQ 0 before CQ 0 is deleted
      let own (x : Running) : Bool := x.wait == .reset h && x.src.fn == h
      let e := flushHolding h (finishWaiting own 0x80 (e := e))
      let e := resetLosses h r.kind e
      let e := modFn h (fun x => { x with reset := none }) e
      let e := whenE (r.kind == .flr) (modPfn h fun x => { x with crs := !e.fw.ready || e.pcie.perst }) e
      let e := whenE ((r.kind == .flr || r.kind == .perst) && (e.hold h).created)
        (attn h 0x21 (index := BitVec.ofNat 32 r.added)) e
      let e := whenE r.destroy (destroyHolding h) e
      finishWaiting (fun x => x.wait == .reset h) 0x80 (e := e)

end Sys2Proof.Machine
end

