-- ==== Sys2Proof/Machine/AdminHold.lean ====
section
/-! DEFINITION. The holding commands (R216): HOLDING CREATE, DESTROY, RESET, FREEZE, SAVE, RESTORE and THAW, ALLOT
PLOTS and SET GLEANING. -/

namespace Sys2Proof.Machine

/-- The holding that a command names. -/
def cHold (c : BitVec 512) : Fn := finOf 64 (cf c 32 0 8)

/-- The checks of R202, R216, R229 and R241 on the holding named: another holding from a VF, not created, in
reset. -/
def holdChecks (zero : Bool) (f : Fn) (c : BitVec 512) (e : Engine) : List Check :=
  let n := cf c 32 0 8
  [{ bad := f != pf && n != f.val, status := 0x83 },
   { bad := decide (63 < n) || (!zero && n == 0) || (decide (n ≤ 63) && !(e.hold (cHold c)).created), status := 0x82 },
   { bad := decide (n ≤ 63) && (e.fn (cHold c)).reset.isSome, status := 0x186 }]

/-- HOLDING_CREATE (R230, R231, R232, R395): completes once its plots are cleared and assigned. -/
def execHoldingCreate (src : AdminSrc) (s : State) : Answer :=
  onEng s <| runAdmin
    { op := 0x30, pfOnly := true,
      used := fun _ => [(32, 0, 8), (33, 0, 8), (34, 0, 16), (36, 0, 16), (38, 0, 32), (42, 0, 16), (44, 0, 32),
                        (48, 0, 32), (52, 0, 16)] } src
    (fun _ c e =>
      let n := cf c 32 0 8
      let h := cHold c
      let zero := e.hold pf
      let past (total given used more : Nat) : Bool := decide (total < given + used + more)
      [{ bad := n == 0 || decide (63 < n) || cf c 33 0 8 == 0 || cf c 44 0 12 != 0 || decide (256 < cf c 52 0 16)
         status := 0x82 },
       resetCheck e h,
       { bad := !e.fnEnabled h || (e.hold h).created, status := 0x87 },
       { bad := decide (e.freePlots.length < cf c 33 0 8), status := 0x84 },
       { bad := past 4096 (e.given (·.sqQuota)) zero.ownSqs.length (cf c 34 0 16)
           || past 4096 (e.given (·.cqQuota)) zero.ownCqs.length (cf c 36 0 16)
           || past 1024 (e.given (·.ringQuota)) zero.ownRings.length (cf c 52 0 16)
         status := 0x84 },
       { bad := past 4194304 (e.given (·.pollCredits)) zero.charged (cf c 38 0 32)
           || past 4096 (e.given (·.rowrateQuota)) zero.rowrateUsed (cf c 42 0 16)
           || past 8388608 (e.given (·.ctxQuota)) zero.ctxEntries (cf c 44 0 32)
         status := 0x85 }])
    (fun _ c e =>
      let h := cHold c
      let x : Holding :=
        { created := true, sqQuota := cf c 34 0 16, cqQuota := cf c 36 0 16, pollCredits := cf c 38 0 32,
          rowrateQuota := cf c 42 0 16, ctxQuota := cf c 44 0 32, ringQuota := cf c 52 0 16, portSet := fld c 384 32 }
      let e := modFn h (fun x => { x with counters := {} }) { e with holdings := vmod e.holdings h fun _ => x }
      .wait (takePlots h (cf c 33 0 8) e) (.plots h 0))

/-- HOLDING_DESTROY (R246): a holding reset first; completes when that has ended. -/
def execHoldingDestroy (src : AdminSrc) (s : State) : Answer :=
  onEng s <| runAdmin { op := 0x31, pfOnly := true, used := fun _ => [(32, 0, 8)] } src (holdChecks false)
    (fun _ c e => .wait (resetPoint (cHold c) .command (some src) true e) (.reset (cHold c)))

/-- ALLOT_PLOTS (R17, R232). -/
def execAllotPlots (src : AdminSrc) (s : State) : Answer :=
  onEng s <| runAdmin { op := 0x32, pfOnly := true, used := fun _ => [(32, 0, 8), (33, 0, 8)] } src
    (fun f c e =>
      let cur := (e.allotment (cHold c)).length
      holdChecks true f c e ++
      [{ bad := cf c 33 0 8 == 0, status := 0x82 },
       { bad := decide (cur + e.freePlots.length < cf c 33 0 8), status := 0x84 }])
    (fun _ c e =>
      let h := cHold c
      let now := e.allotment h
      let n := cf c 33 0 8
      if n = now.length then .ok e (BitVec.ofNat 32 n) []
      else if now.length < n then .wait (takePlots h (n - now.length) e) (.plots h now.length)
      else
        .wait (forAll (now.drop n) (fun p => modPlot p fun q => { q with removing := true }) e) (.plots h now.length))

/-- HOLDING_RESET (R241 to R244). -/
def execHoldingReset (src : AdminSrc) (s : State) : Answer :=
  onEng s <| runAdmin { op := 0x33, used := fun _ => [(32, 0, 8)] } src (holdChecks true)
    (fun _ c e => .wait (resetPoint (cHold c) .command (some src) false e) (.reset (cHold c)))

/-- HOLDING_FREEZE (R247): completes at the row-0 boundary of G. -/
def execHoldingFreeze (src : AdminSrc) (s : State) : Answer :=
  onEng s <| runAdmin { op := 0x34, used := fun _ => [(32, 0, 8)] } src (holdChecks false)
    (fun _ c e =>
      let h := cHold c
      match (e.hold h).freeze with
      | some z => .ok e (z.frame.setWidth 32) []
      | none =>
        let g := e.nextG
        .wait (modHold h (fun x => { x with freeze := some { frame := g, reached := false, seed := e.free } })
          { e with free := e.free + 1 }) (.freeze h g))

/-! ## Save and restore -/

/-- The key of a holding's save images: that of its freeze. -/
def Holding.seed (x : Holding) : Nat := match x.freeze with | some z => z.seed | none => 0

/-- Section 8's record of a context, if its kind is other than 0: as cached, else as host memory has it, a free value of the
freeze (R28, R249). -/
def Engine.savedSeq (e : Engine) (h : Fn) (i : Nat) : Option SavedSeq :=
  let raw := match e.ctxLine h i with
    | some l => l.raw
    | none => Config.hostContext (e.hold h).seed i
  if ctxKind raw = 0 then none
  else some { index := i, dev := ctxDev raw, ep := ctxEp raw, e := ctxE raw, halted := ctxHalted raw }

/-- Section 8 of a holding's image: what an image of this freeze recorded before (R248), else one record for each context of
the table of kind other than 0 (R249). -/
def Engine.savedSeqs (e : Engine) (h : Fn) : List SavedSeq :=
  match (e.hold h).freeze.bind (·.seqs) with
  | some l => l
  | none => (List.range (e.hold h).ctxEntries).filterMap (e.savedSeq h)

/-- Type, record size and record count of the eight sections (R249). -/
def imageSections (m : SaveImage) : List (Nat × Nat × Nat) :=
  [(1, 64, m.sqs.length), (2, 48, m.cqs.length), (3, 48, m.rings.length), (4, 32, m.alarm.toList.length),
   (5, 64, m.fieldMap.toList.length), (6, 32, m.lists.length), (7, 32, m.groups.length + m.scheduled.length),
   (8, 8, m.seqs.length)]

/-- Bytes of an image, digest included (R249). -/
def imageLength (m : SaveImage) : Nat :=
  64 + ((imageSections m).map fun s => 16 + s.2.1 * s.2.2).sum + 32

/-- The 64 bytes of the header (R249). -/
def imageHeader (m : SaveImage) : List Byte :=
  leBytes 4 0x53484751 ++ leBytes 2 m.version ++ leBytes 1 m.holding ++ leBytes 1 (b2n m.managed)
    ++ leBytes 8 (imageLength m) ++ wordBytes m.epoch ++ leBytes 4 0 ++ wordBytes m.etc ++ leBytes 8 m.frame.toNat
    ++ leBytes 4 8 ++ wordBytes m.serial ++ leBytes 12 0

/-- The bytes of an image before its digest: header and sections (R249). The records of sections 1 to 7 are free values of
what they record: neither ETC nor the digest is part of it (R248). -/
def imageBody (m : SaveImage) : List Byte :=
  imageHeader m ++ (imageSections m).flatMap fun s =>
    leBytes 2 s.1 ++ leBytes 2 0 ++ leBytes 4 s.2.1 ++ leBytes 4 s.2.2 ++ leBytes 4 0 ++
      (if s.1 = 8 then m.seqs.flatMap fun q => leBytes 8 (q.index + 2 ^ 32 * q.e.toNat + 2 ^ 48 * b2n q.halted)
      else (List.range (s.2.1 / 4 * s.2.2)).flatMap fun k =>
        wordBytes (Config.savedWord { m with etc := 0, digest := 0 } s.1 k))

/-- The SHA-256 digest of every byte of an image before it (R249). -/
def imageDigest (m : SaveImage) : BitVec 256 := sha256 (imageBody m)

/-- The bytes of an image: header, sections, digest, the digest's first byte first (R249). -/
def imageBytesOf (m : SaveImage) : List Byte := imageBody m ++ (wordBytes m.digest).reverse

/-- The image of a holding (R249). -/
def saveImage (h : Fn) (e : Engine) : SaveImage :=
  let x := e.hold h
  { version := 1, holding := h.val, managed := match x.fieldMap with | some m => m.managed | none => false,
    epoch := e.clk.epoch, etc := e.clk.etc, frame := match x.freeze with | some z => z.frame | none => 0,
    serial := Config.serialNumber,
    sqs := x.ownSqs.map fun q =>
      { num := q.1, par := q.2.par, head := q.2.head, started := q.2.started, enabled := q.2.state == .enabled },
    cqs := x.ownCqs.map fun q => { num := q.1, par := q.2.par, write := q.2.write, release := q.2.release },
    rings := x.ownRings.map fun r => { num := r.1, par := r.2.par, write := r.2.write, sequence := r.2.sequence },
    alarm := x.alarmRing.map fun r => (r.par, r.write), fieldMap := x.fieldMap, ctxBase := x.ctxBase,
    ctxEntries := x.ctxEntries, lists := e.commons.lists.filter fun l => l.holding == h && l.gone.isNone,
    groups := x.groups, scheduled := x.scheduled, seqs := e.savedSeqs h, digest := 0 }

/-- A started entry of the holding has not written its completion (R248). -/
def Engine.unfinished (e : Engine) (h : Fn) : Bool :=
  (e.items.any fun i => i.active && i.jr.holding == h)
    || ((e.hold h).sqs.any fun q => !q.2.batch.isEmpty)
    || ((e.hold h).cqs.any fun q => q.2.queue.any fun c => c.sq != 0)

/-- HOLDING_SAVE (R248, R249). -/
def execHoldingSave (src : AdminSrc) (s : State) : Answer :=
  onEng s <| runAdmin { op := 0x35, used := fun _ => [(32, 0, 8), (40, 0, 64), (48, 0, 32)] } src
    (fun f c e =>
      let h := cHold c
      let n := imageLength (saveImage h e)
      holdChecks false f c e ++
      [{ bad := !e.frozen h, status := 0x87 },
       { bad := decide (cf c 48 0 32 < n), status := 0x84, dword2 := BitVec.ofNat 32 n },
       { bad := e.unfinished h, status := 0x86 }])
    (fun _ c e =>
      let h := cHold c
      let m := saveImage h e
      let e := hostWrite h (fld c 320 64) (imageBytesOf { m with digest := imageDigest m }) false (writeBackAll h e)
      .ok (modHold h (fun x => { x with
        freeze := x.freeze.map fun z => { z with saved := true, seqs := some m.seqs } }) e)
        (BitVec.ofNat 32 (imageLength m)) [])

/-- The devices that an image names are the target's, and its hubs are bound (R250). -/
def Engine.imageOwned (e : Engine) (h : Fn) (m : SaveImage) : Bool :=
  let hub (d : DevNum) : Bool := match (e.dev? d).bind (·.hub) with | some _ => true | none => false
  let mine (d : DevNum) : Bool := match e.dev? d with | some v => v.owner == h && v.hub.isNone | none => false
  (m.lists.all fun l => hub l.hub) && (m.groups.all fun g => g.2.rootPort.isSome || hub g.2.root)
    && (m.scheduled.all fun x => mine x.dev) && (m.seqs.all fun x => mine x.dev)

/-- The target has queues, rings or a field map, or is frozen (R202, R250). -/
def Engine.occupied (e : Engine) (h : Fn) : Bool :=
  let x := e.hold h
  !x.ownSqs.isEmpty || !x.ownCqs.isEmpty || !x.ownRings.isEmpty || x.alarmRing.isSome || (x.mapFor e.nextG).isSome
    || e.frozen h

/-- An image beyond the target's quotas (R250). -/
def Engine.imageOver (e : Engine) (h : Fn) (m : SaveImage) : Bool :=
  decide (e.sqQuota h < m.sqs.length) || decide (e.cqQuota h < m.cqs.length)
    || decide (e.ringQuota h < m.rings.length) || decide (e.pollShare h < (m.sqs.map fun q => sqCost q.par.kb).sum)
    || decide (e.ctxQuota h < m.ctxEntries)
    || decide (e.rowrateQuota h < (m.scheduled.filter (·.interval == 0)).length)

/-- Install E and HALTED of a context from section 8 (R250). -/
def restoreSeq (h : Fn) (x : SavedSeq) (e : Engine) : Engine :=
  let a := (e.hold h).ctxAddr x.index
  hostWrite h (a + 8) (leBytes 1 (b2n x.halted)) false (hostWrite h (a + 6) (wordBytes x.e) false e)

/-- The effect of a restore (R250): queues and rings at their saved positions, contexts, lists, map; frozen. A ring is full
until its release word is read. -/
def restoreImage (h : Fn) (m : SaveImage) (e : Engine) : Engine :=
  let g := e.nextG
  let e := modHold h (fun x => { x with
    sqs := m.sqs.foldl (fun a q => mput a q.num
      { par := q.par, state := if q.enabled then .enabled else .disabled, head := q.head, next := q.head, k := q.par.kb
        started := q.started, mirror := q.head }) x.sqs
    cqs := m.cqs.foldl (fun a q => mput a q.num { par := q.par, write := q.write, release := q.release, settled := q.write }) x.cqs
    rings := m.rings.foldl (fun a r => mput a r.num
      { par := r.par, write := r.write, release := { r.write with phase := !r.write.phase }, sequence := r.sequence
        first := g, settled := r.write }) x.rings
    alarmRing := m.alarm.map fun r =>
      { par := r.1, write := r.2, release := { r.2 with phase := !r.2.phase }, settled := r.2 }
    fieldMap := m.fieldMap, fieldMapNext := none, ctxBase := m.ctxBase, ctxEntries := m.ctxEntries
    ctxOf := m.seqs.map fun q => ((q.dev, q.ep), q.index)
    scheduled := m.scheduled, groups := m.groups
    freeze := some { frame := m.frame, reached := true, seed := e.free } }) { e with free := e.free + 1 }
  let e := forAll m.seqs (restoreSeq h) e
  let mine (l : PlantedList) : Bool := m.lists.any fun y => y.hub == l.hub && y.listId == l.listId
  let e := modCommons (fun c => Commons.markNested { c with
    lists := (c.lists.filter fun l => !mine l) ++ m.lists.map fun l => { l with holding := h } }) e
  let e := forAll m.sqs (fun q => shadow (.sq h q.num (some q.par))) e
  let e := forAll m.cqs (fun q => shadow (.cq h q.num (some q.par))) e
  let e := forAll m.rings (fun r => shadow (.sheafRing h r.num (some r.par))) e
  let e := shadowRowrate h (shadow (.fieldMap h m.fieldMap) (shadow (.contextTable h m.ctxBase m.ctxEntries) e))
  attn h 0x43 (index := m.frame.setWidth 32) (argument := 1) (e := e)

/-- HOLDING_RESTORE (R250): its image checks run in the order of R250, after those of R201 that read no image. -/
def execHoldingRestore (src : AdminSrc) (image : Option SaveImage) (s : State) : Answer :=
  onEng s <| runAdmin
    { op := 0x36, used := fun _ => [(32, 0, 8), (40, 0, 64), (48, 0, 32)]
      reads := fun f c e => whenE (verdict (holdChecks false f c e)).isNone
        (readNow (cHold c) (fld c 320 64) (cf c 48 0 32) (.save (cHold c))) e } src (holdChecks false)
    (fun _ c e =>
      let h := cHold c
      match brought e h image with
      | none => .fail e 0x88 0
      | some m =>
        if m.version != 1 || m.digest != imageDigest m then .fail e 0x88 0
        else if !e.imageOwned h m then .fail e 0x83 0
        else if e.occupied h then .fail e 0x87 0
        else if e.imageOver h m then .fail e 0x84 0
        else .ok (restoreImage h m e) 0 [])

/-- HOLDING_THAW (R251): polling resumes at once, periodic service at the next headland. -/
def execHoldingThaw (src : AdminSrc) (s : State) : Answer :=
  onEng s <| runAdmin { op := 0x37, used := fun _ => [(32, 0, 8)] } src
    (fun f c e => holdChecks true f c e ++ [{ bad := !e.frozen (cHold c), status := 0x87 }])
    (fun _ c e =>
      let h := cHold c
      let g := e.nextG.setWidth 32
      let e := modHold h (fun x => { x with freeze := none }) e
      .ok (attn h 0x43 (index := g) (argument := 0) (e := e)) g [])

/-- SET_GLEANING (R125): the mask holds from frame G on. -/
def execSetGleaning (src : AdminSrc) (s : State) : Answer :=
  onEng s <| runAdmin { op := 0x38, pfOnly := true, used := fun _ => [(32, 0, 8), (36, 0, 32)] } src (holdChecks true)
    (fun _ c e =>
      let h := cHold c
      let g := e.nextG
      let mask : Dword := fld c 288 32
      let e := modHold h (fun x => { x with gleanNext := x.gleanNext ++ [(mask, g)] }) e
      .ok (mirror (.gleaning h mask) e) (g.setWidth 32) [])

end Sys2Proof.Machine
end

