-- ==== Sys2Proof/Machine/AdminQueues.lean ====
section
/-! DEFINITION. The identify and queue commands of 07_commands.md (R210), undefined opcodes (R1) and the
mailbox start (R204). -/

namespace Sys2Proof.Machine

/-- Text as bytes, cut or padded with a byte to a width. -/
def text (w : Nat) (fill : Nat) (t : String) : List Byte :=
  let b := t.toList.map fun ch => BitVec.ofNat 8 ch.toNat
  (b ++ List.replicate (w - b.length) (BitVec.ofNat 8 fill)).take w

/-- The time-base statement of R220. -/
def timeBase : String :=
  "Timestamps are pairs (EPOCH, ETC). EPOCH counts power-ons of the always-on supply. " ++
  "ETC counts nanoseconds since the last such power-on and never goes backward. " ++
  "This controller keeps no calendar time."

/-- IDENTIFY CNS 0 (R219). -/
def identifyController (e : Engine) : List Byte :=
  let flags := b2n e.senior + 2 * b2n e.yoke.yoked + 4 * b2n e.partnerPresent + 8 * b2n Config.extendedTemp
    + 16 * b2n e.unlocked
  text 8 32 "UAMEN" ++ text 8 32 "QG9208" ++ text 2 32 "B1" ++ leBytes 2 0x0302 ++ wordBytes Config.firmwareBuild
    ++ wordBytes Config.serialNumber ++ leBytes 1 32 ++ leBytes 1 64 ++ leBytes 2 63 ++ leBytes 2 272
    ++ leBytes 2 e.inService ++ leBytes 2 e.sparePlots.length ++ leBytes 2 4096 ++ leBytes 2 4096
    ++ leBytes 2 (e.sqQuota pf) ++ leBytes 2 (e.cqQuota pf) ++ leBytes 4 4194304 ++ leBytes 4 (e.pollShare pf)
    ++ leBytes 4 8388608 ++ leBytes 2 4096 ++ leBytes 4 16777216 ++ wordBytes e.clk.epoch ++ wordBytes e.clk.etc
    ++ leBytes 1 flags ++ leBytes 3 0 ++ leBytes 2 1024 ++ leBytes 2 256 ++ leBytes 2 64 ++ leBytes 2 0
    ++ leBytes 4 65536 ++ text 16 32 (if Config.extendedTemp then "QG9208-FE" else "QG9208-FB") ++ leBytes 16 0
    ++ text 256 0 timeBase ++ leBytes 128 0

/-- Ports of the holding's port set on which any holding gleans (R221, R239). -/
def gleanPorts (h : Fn) (e : Engine) : Dword :=
  (e.hold h).portSet &&& (e.holdings.toList.foldl (fun m x => m ||| x.glean) 0)

/-- IDENTIFY CNS 1 (R221). -/
def identifyFunction (h : Fn) (e : Engine) : List Byte :=
  let x := e.hold h
  let y := e.fn h
  let managed := match x.fieldMap with | some m => m.managed | none => false
  let acc := y.account.kept.length + (if y.account.folded = 0 then 0 else 1)
  leBytes 1 h.val
    ++ leBytes 1 (b2n (h == pf) + 2 * b2n x.created + 4 * b2n (e.frozen h) + 8 * b2n managed + 16 * b2n y.reset.isSome)
    ++ leBytes 1 (e.slicePlots h).length ++ leBytes 1 0
    ++ leBytes 2 (e.sqQuota h) ++ leBytes 2 x.ownSqs.length ++ leBytes 2 (e.cqQuota h) ++ leBytes 2 x.ownCqs.length
    ++ leBytes 4 (e.pollShare h) ++ leBytes 4 x.charged ++ leBytes 2 (e.rowrateQuota h) ++ leBytes 2 x.rowrateUsed
    ++ leBytes 4 (e.ctxQuota h) ++ leBytes 4 x.ctxEntries ++ wordBytes x.portSet ++ wordBytes (gleanPorts h e)
    ++ leBytes 2 x.ownRings.length ++ leBytes 1 (b2n x.alarmRing.isSome) ++ leBytes 1 0
    ++ wordBytes ((e.conds h).setWidth 32) ++ leBytes 4 y.log.length ++ leBytes 4 acc
    ++ leBytes 2 (e.quota h 1024 (·.ringQuota)) ++ leBytes 2 0 ++ wordBytes x.glean ++ leBytes 64 0

/-- IDENTIFY (R219, R221). -/
def execIdentify (src : AdminSrc) (s : State) : Answer :=
  onEng s <| runAdmin { op := 0x01, used := fun _ => [(32, 0, 8)], inReset := true } src
    (fun _ c _ => [{ bad := decide (1 < cf c 32 0 8), status := 0x82 }])
    (fun f c e =>
      let d := if cf c 32 0 8 = 0 then identifyController e else identifyFunction f e
      .ok e (BitVec.ofNat 32 d.length) d)

/-- SQ parameters in range (R168). -/
def sqParamsBad (p : SqParams) : Bool :=
  p.base.toNat % 4096 != 0 || !(isPow2 p.size && decide (64 ≤ p.size) && decide (p.size ≤ 1048576))
    || p.headMirror.toNat % 8 != 0 || decide (18 < p.kb) || decide (p.kc < p.kb) || decide (18 < p.kc)

/-- CQ parameters in range (R169). -/
def cqParamsBad (p : CqParams) : Bool :=
  p.base.toNat % 4096 != 0 || !(isPow2 p.size && decide (64 ≤ p.size) && decide (p.size ≤ 1048576))
    || p.release.toNat % 8 != 0

/-- Add an SQ, ENABLED at unit 0 (R168). -/
def addSq (h : Fn) (n : Nat) (p : SqParams) (e : Engine) : Engine :=
  shadow (.sq h n (some p)) (modHold h (fun x => { x with sqs := mput x.sqs n { par := p, k := p.kb } }) e)

/-- Add a CQ. -/
def addCq (h : Fn) (n : Nat) (p : CqParams) (e : Engine) : Engine :=
  shadow (.cq h n (some p)) (modHold h (fun x => { x with cqs := mput x.cqs n { par := p } }) e)

/-- SQs are short: the holding's quota, or the limit of the controller or the pair (R167, R265). -/
def Engine.sqShort (e : Engine) (h : Fn) : Bool :=
  decide (e.sqQuota h ≤ (e.hold h).ownSqs.length)
    || decide (4096 ≤ e.pairCount (·.sqs.length) (·.sqs.length))

/-- CQs are short (R167, R265). -/
def Engine.cqShort (e : Engine) (h : Fn) : Bool :=
  decide (e.cqQuota h ≤ (e.hold h).ownCqs.length)
    || decide (4096 ≤ e.pairCount (·.cqs.length) (·.cqs.length))

/-- A change of an SQ's cost from `old` to `new` exceeds the holding's share or the pair's budget (R181,
R265). -/
def Engine.creditsShort (e : Engine) (h : Fn) (old new : Nat) : Bool :=
  let own (x : Holding) : Nat := (x.sqs.map fun q => sqCost q.2.par.kb).sum
  let theirs (s : Shadow) : Nat := (s.sqs.map fun q => sqCost q.2.kb).sum
  decide (e.pollShare h < (e.hold h).charged - old + new)
    || (e.yoke.yoked && decide (4194304 < e.pairCount own theirs - old + new))

/-- QUICK_START (R170). -/
def execQuickStart (src : AdminSrc) (s : State) : Answer :=
  onEng s <| runAdmin { op := 0x02, used := fun _ => [(32, 0, 64), (40, 0, 64)] } src
    (fun f c e =>
      [{ bad := !src.isMailbox, status := 0x81 },
       { bad := cf c 32 0 12 != 0 || decide (cf c 40 0 64 < 196624), status := 0x82 },
       frozenCheck e f,
       { bad := mhas (e.hold f).sqs 1 || mhas (e.hold f).cqs 1, status := 0x87 },
       { bad := e.sqShort f || e.cqShort f, status := 0x84 },
       { bad := e.creditsShort f 0 (sqCost 2), status := 0x85 }])
    (fun f c e =>
      let a := fld c 256 64
      let cq : CqParams := { base := a + 131072, size := 4096, release := a + 196616, ien := true, vector := 1,
                             modCount := 16, modTime := 50 }
      let sq : SqParams := { base := a, size := 4096, cq := 1, headMirror := a + 196608, kb := 2, kc := 12 }
      .ok (addSq f 1 sq (addCq f 1 cq e)) 0 [])

/-- The parameters of a CREATE SQ command (R210). -/
def cSqParams (c : BitVec 512) : SqParams :=
  { base := fld c 256 64, size := cf c 40 0 32, cq := cf c 46 0 16, headMirror := fld c 384 64,
    kb := cf c 56 0 5, kc := cf c 57 0 5 }

/-- CREATE_SQ (R168, R181, R207). -/
def execCreateSq (src : AdminSrc) (s : State) : Answer :=
  onEng s <| runAdmin
    { op := 0x04,
      used := fun _ => [(32, 0, 64), (40, 0, 32), (44, 0, 16), (46, 0, 16), (48, 0, 64), (56, 0, 5), (57, 0, 5)] } src
    (fun f c e =>
      let n := cf c 44 0 16
      let p := cSqParams c
      [{ bad := sqParamsBad p || decide (4095 < n) || !mhas (e.hold f).ownCqs p.cq || (n == 0 && p.cq != 0)
         status := 0x82 },
       frozenCheck e f,
       { bad := n == 0 && !src.isMailbox, status := 0x87 },
       { bad := mhas (e.hold f).sqs n, status := 0x87 },
       { bad := e.sqShort f, status := 0x84 },
       { bad := e.creditsShort f 0 (sqCost p.kb), status := 0x85 }])
    (fun f c e =>
      let p := cSqParams c
      .ok (addSq f (cf c 44 0 16) p e) (BitVec.ofNat 32 (sqCost p.kb)) [])

/-- The SQ that a command names. -/
def cSq (f : Fn) (c : BitVec 512) (e : Engine) : Option Sq :=
  if cf c 44 0 16 < 4096 then mget (e.hold f).sqs (cf c 44 0 16) else none

/-- On SQ 0, a command on SQ 0 itself completes with 0x87 (R207). -/
def selfSq (src : AdminSrc) (c : BitVec 512) : Check :=
  { bad := cf c 44 0 16 == 0 && !src.isMailbox, status := 0x87 }

/-- DELETE_SQ (R169, R196). -/
def execDeleteSq (src : AdminSrc) (s : State) : Answer :=
  onEng s <| runAdmin { op := 0x05, used := fun _ => [(44, 0, 16)] } src
    (fun f c e =>
      let n := cf c 44 0 16
      [{ bad := (cSq f c e).isNone, status := 0x82 }, frozenCheck e f, selfSq src c,
       { bad := match cSq f c e with
                | some q => q.state != .disabled || e.sqBusy f n
                | none => false
         status := 0x87 }])
    (fun f c e =>
      let n := cf c 44 0 16
      let d := match cSq f c e with | some q => sqCost q.par.kb | none => 0
      .ok (shadow (.sq f n none) (modHold f (fun x => { x with sqs := mdel x.sqs n }) e)) (BitVec.ofNat 32 d) [])

/-- The parameters of a CREATE CQ command (R210). -/
def cCqParams (c : BitVec 512) : CqParams :=
  { base := fld c 256 64, size := cf c 40 0 32, release := fld c 384 64, ien := cf c 56 0 1 == 1,
    vector := cf c 57 0 8, modCount := cf c 58 0 8, modTime := cf c 60 0 10 }

/-- CREATE_CQ (R169, R207). -/
def execCreateCq (src : AdminSrc) (s : State) : Answer :=
  onEng s <| runAdmin
    { op := 0x06,
      used := fun _ => [(32, 0, 64), (40, 0, 32), (46, 0, 16), (48, 0, 64), (56, 0, 1), (57, 0, 8), (58, 0, 8),
                        (60, 0, 10)] } src
    (fun f c e =>
      let n := cf c 46 0 16
      [{ bad := cqParamsBad (cCqParams c) || decide (4095 < n), status := 0x82 },
       frozenCheck e f,
       { bad := n == 0 && !src.isMailbox, status := 0x87 },
       { bad := mhas (e.hold f).cqs n, status := 0x87 },
       { bad := e.cqShort f, status := 0x84 }])
    (fun f c e => .ok (addCq f (cf c 46 0 16) (cCqParams c) e) 0 [])

/-- DELETE_CQ (R169). -/
def execDeleteCq (src : AdminSrc) (s : State) : Answer :=
  onEng s <| runAdmin { op := 0x07, used := fun _ => [(46, 0, 16)] } src
    (fun f c e =>
      let n := cf c 46 0 16
      [{ bad := decide (4095 < n) || !mhas (e.hold f).cqs n, status := 0x82 }, frozenCheck e f,
       { bad := n == 0 && !src.isMailbox, status := 0x87 },
       { bad := (e.hold f).ownSqs.any fun q => q.2.par.cq == n, status := 0x87 }])
    (fun f c e =>
      let n := cf c 46 0 16
      .ok (shadow (.cq f n none) (modHold f (fun x => { x with cqs := mdel x.cqs n }) e)) 0 [])

/-- DISABLE_SQ (R196, R197): discards, writes the head mirror, and completes once the SQ is DISABLED. -/
def execDisableSq (src : AdminSrc) (s : State) : Answer :=
  onEng s <| runAdmin { op := 0x08, used := fun _ => [(44, 0, 16)] } src
    (fun f c e =>
      [{ bad := (cSq f c e).isNone, status := 0x82 }, frozenCheck e f, selfSq src c,
       { bad := match cSq f c e with | some q => q.state == .stopping | none => false, status := 0x87 }])
    (fun f c e =>
      let n := cf c 44 0 16
      let run : Bool := match cSq f c e with | some q => q.state == .enabled | none => false
      let e := if run then writeMirror f n (discard f n e) else e
      if e.sqBusy f n then .wait (modSq f n (fun q => { q with state := .stopping }) e) (.sqDisabled f n)
      else .ok (modSq f n (fun q => { q with state := .disabled }) e) 0 [])

/-- ENABLE_SQ (R196, R198). -/
def execEnableSq (src : AdminSrc) (s : State) : Answer :=
  onEng s <| runAdmin { op := 0x09, used := fun _ => [(44, 0, 16), (48, 0, 1)] } src
    (fun f c e =>
      let n := cf c 44 0 16
      [{ bad := (cSq f c e).isNone, status := 0x82 }, frozenCheck e f, selfSq src c,
       { bad := match cSq f c e with
                | some q => q.state == .stopping
                    || (q.state == .disabled && cf c 48 0 1 == 1 && e.sqBusy f n)
                | none => false
         status := 0x87 }])
    (fun f c e =>
      let n := cf c 44 0 16
      let off : Bool := match cSq f c e with | some q => q.state == .disabled | none => false
      let e := if !off then e
        else if cf c 48 0 1 = 1 then
          writeMirror f n (modSq f n (fun q => { q with
            state := .enabled, head := {}, next := {}, seen := [], k := q.par.kb }) e)
        else modSq f n (fun q => { q with state := .enabled, next := q.head, seen := [], k := q.par.kb }) e
      let d := match mget (e.hold f).sqs n with | some q => ringForm q.head | none => 0
      .ok e (BitVec.ofNat 32 d) [])

/-- RECALL_SQ (R196, R197). -/
def execRecallSq (src : AdminSrc) (s : State) : Answer :=
  onEng s <| runAdmin { op := 0x0A, used := fun _ => [(44, 0, 16)] } src
    (fun f c e => [{ bad := (cSq f c e).isNone, status := 0x82 }, frozenCheck e f, selfSq src c])
    (fun f c e =>
      let n := cf c 44 0 16
      match cSq f c e with
      | none => .ok e 0 []
      | some q =>
        if q.state == .enabled then
          let d := q.head.at_ + 1048576 * q.cached.length
          .ok (writeMirror f n (modSq f n (fun q => { q with state := .disabled }) (discard f n e)))
            (BitVec.ofNat 32 d) []
        else .ok e (BitVec.ofNat 32 q.head.at_) [])

/-- SET_POLL (R180, R181). -/
def execSetPoll (src : AdminSrc) (s : State) : Answer :=
  onEng s <| runAdmin { op := 0x0B, used := fun _ => [(44, 0, 16), (56, 0, 8), (57, 0, 8)] } src
    (fun f c e =>
      let kb := cf c 56 0 8
      let kc := cf c 57 0 8
      [{ bad := (cSq f c e).isNone || decide (18 < kb) || decide (kc < kb) || decide (18 < kc), status := 0x82 },
       frozenCheck e f,
       { bad := match cSq f c e with | some q => q.state == .stopping | none => false, status := 0x87 },
       { bad := match cSq f c e with
                | some q => e.creditsShort f (sqCost q.par.kb) (sqCost kb)
                | none => false
         status := 0x85 }])
    (fun f c e =>
      let n := cf c 44 0 16
      let kb := cf c 56 0 8
      let e := modSq f n (fun q => { q with par := { q.par with kb, kc := cf c 57 0 8 }, k := kb }) e
      let p := (mget (e.hold f).sqs n).map (·.par)
      .ok (shadow (.sq f n p) e) (BitVec.ofNat 32 (sqCost kb)) [])

/-- The opcodes that interface 3.2 defines (R210 to R217). -/
def definedOpcodes : List Nat :=
  [0x01, 0x02, 0x04, 0x05, 0x06, 0x07, 0x08, 0x09, 0x0A, 0x0B, 0x10, 0x11, 0x12, 0x13, 0x14, 0x18, 0x19, 0x1A,
   0x1B, 0x1C, 0x1D, 0x20, 0x21, 0x22, 0x23, 0x28, 0x29, 0x2A, 0x30, 0x31, 0x32, 0x33, 0x34, 0x35, 0x36, 0x37,
   0x38, 0x40, 0x41, 0x42, 0x48, 0x49, 0x50, 0x51, 0x58, 0x5F]

/-- UNDEFINED_ADMIN_OPCODE (R1): an opcode that interface 3.2 does not define completes with 0x81. -/
def execUndefinedAdminOpcode (src : AdminSrc) (s : State) : Answer :=
  onEng s fun e =>
    match e.command src with
    | none => e
    | some c =>
      if definedOpcodes.contains (cOp c) then e
      else match gate { op := cOp c } src e with
        | .ignored => e
        | .answered e => e
        | .run c e => finish src c 0x81 (e := e)

/-- The function's BAR0 can be reached: the link is up, PE_PERST_N released, the function enabled and in D0
(R351, R352). -/
def Engine.reachable (e : Engine) (f : Fn) : Bool :=
  !e.pcie.perst && e.pcie.link == .l0 && e.fnEnabled f && !(e.pfn f).d3 && !e.pins.inReset && !e.fw.fenced

/-- MBX_GO (R204): with BUSY 0 the request is latched, BUSY set, DONE cleared and CIC source 384 + f raised;
with BUSY 1 only OVERRUN is set. -/
def execMbxGo (f : Fn) (value : Dword) (be : BitVec 4) (s : State) : Answer :=
  onEng s fun e =>
    if !(bitOf value 0 && bitOf be 0) || !e.reachable f then e
    else if ((e.fn f).mbx).busy then modMbx f (fun m => { m with overrun := true }) e
    else
      let e := pulse (384 + f.val) (modMbx f (fun m => { m with
        latched := some m.req, taken := false, busy := true, done := false }) e)
      -- in FALLOW a GO of the PF wakes the chip (R333)
      whenE (f == pf && e.pwr.chip == .fallow) (startWake .mailbox) e

end Sys2Proof.Machine
end

