-- ==== Sys2Proof/Machine/AdminReap.lean ====
section
/-! DEFINITION. The reaping and alarm commands (R213): reap lists, groups, sheaf and alarm rings, trip rules. -/

namespace Sys2Proof.Machine

/-- LOAD_REAP_LIST (R154): checks the image, plants it as commons control, completes after the status stage. -/
def execLoadReapList (src : AdminSrc) (image : ReadData) (s : State) : Answer :=
  onEng s <| runAdmin
    { op := 0x18, used := fun _ => [(32, 0, 20), (36, 0, 8), (40, 0, 64), (48, 0, 16)],
      reads := fun f c => readNow f (fld c 320 64) (cf c 48 0 16) (.image f) } src
    (fun f c e =>
      let hub : DevNum := fld c 256 20
      match e.dev? hub with
      | none => [{ bad := true, status := 0x82 }]
      | some v =>
        match v.hub with
        | none => [{ bad := f != pf && v.owner != f, status := 0x83 }, { bad := true, status := 0x82 }]
        | some u =>
          { bad := !bitOf (e.hold f).portSet v.root.val, status := 0x83 } :: frozenCheck e f
            :: imageChecks f hub (cf c 36 0 8) u ((brought e f image).filter fun b => b.length == cf c 48 0 16) e)
    (fun f c e =>
      match parseImage (image.getD []) with
      | none => .fail e 0x82 0
      | some m =>
        let l : PlantedList :=
          { hub := fld c 256 20, listId := cf c 36 0 8, holding := f, image := fld c 320 64, entries := m.entries,
            deadline := m.deadline, nested := false, group := none }
        .wait (plantXfer l (.plant l (some src)) e) .plant)

/-- The lists that a CLEAR REAP LIST names: one, or the holding's on the hub. -/
def Engine.named (e : Engine) (f : Fn) (c : BitVec 512) : List PlantedList :=
  e.commons.lists.filter fun l => l.gone.isNone && l.hub == fld c 256 20 && l.holding == f
    && (cf c 37 0 1 == 1 || l.listId == cf c 36 0 8)

/-- CLEAR_REAP_LIST (R155). -/
def execClearReapList (src : AdminSrc) (s : State) : Answer :=
  onEng s <| runAdmin
    { op := 0x19, used := fun c => [(32, 0, 20), (37, 0, 1)] ++ if cf c 37 0 1 = 1 then [] else [(36, 0, 8)] } src
    (fun f c e =>
      let all := cf c 37 0 1 == 1
      let other := match e.commons.list? (fld c 256 20) (cf c 36 0 8) with | some l => l.holding != f | none => false
      let v := e.dev? (fld c 256 20)
      [{ bad := match v.bind (·.hub) with | some _ => false | none => true, status := 0x82 },
       { bad := f != pf && (match v with | some v => v.hub.isNone && v.owner != f | none => false), status := 0x83 },
       { bad := !all && other && f != pf, status := 0x83 },
       { bad := !all && (e.named f c).isEmpty, status := 0x82 },
       frozenCheck e f,
       { bad := (e.named f c).any fun l => l.nested || l.group.isSome, status := 0x87 }])
    (fun f c e =>
      let g := e.nextG
      let ids := (e.named f c).map (·.listId)
      .ok (clearLists (fun l => l.hub == fld c 256 20 && l.holding == f && ids.contains l.listId) g e) (g.setWidth 32) [])

/-- A group as a REAP GROUP command describes it. -/
def cGroup (c : BitVec 512) : ReapGroup :=
  { root := fld c 256 20, rootPort := if cf c 32 25 1 = 1 then some (finOf 32 (cf c 32 20 5)) else none,
    ep := fld c 288 4, limit := cf c 40 0 16, interval := cf c 38 0 16, ring := cf c 37 0 8 }

/-- REAP_GROUP's checks and the group that it makes or removes (R153). -/
def reapGroupAdmin (src : AdminSrc) : Engine → Engine :=
  runAdmin
    { op := 0x1A,
      used := fun c => [(38, 0, 16), (42, 0, 16)] ++
        if cf c 38 0 16 = 0 then []
        else positionFields c 32 ++ [(36, 0, 8), (37, 0, 8), (40, 0, 16)] } src
    (fun f c e =>
      let g := cGroup c
      let n := cf c 42 0 16
      let known := mhas (e.hold f).groups n
      let make := g.interval != 0
      let root := match g.rootPort with | some p => some p | none => e.rootOf g.root
      [{ bad := n != 0xFFFF && !known, status := 0x82 },
       { bad := !make && n == 0xFFFF, status := 0x82 },
       { bad := make && (!isPow2 g.interval || decide (1024 < g.interval) || decide (1024 < g.limit)
           || cf c 36 0 8 == 0 || decide (15 < cf c 36 0 8))
         status := 0x82 },
       { bad := make && g.rootPort.isNone && (match (e.dev? g.root).bind (·.hub) with | some _ => false | none => true)
         status := 0x82 },
       { bad := make && (match root with | some p => !bitOf (e.hold f).portSet p.val | none => false), status := 0x83 },
       { bad := make && f != pf && g.rootPort.isNone
           && (match e.dev? g.root with | some v => v.hub.isNone && v.owner != f | none => false)
         status := 0x83 },
       frozenCheck e f,
       { bad := !e.managed f, status := 0x87 },
       { bad := make && n != 0xFFFF, status := 0x87 }])
    (fun f c e =>
      let g := cGroup c
      let n := cf c 42 0 16
      if g.interval = 0 then
        let e := publish f 0 1 (modHold f (fun x => { x with groups := mdel x.groups n }) e)
        let e := clearLists (fun l => l.group == some n && l.holding == f) e.nextG e
        .ok e (BitVec.ofNat 32 n) (leBytes 8 e.nextG.toNat)
      else
        match (List.range 65535).find? fun k => !mhas (e.hold f).groups k with
        | none => .fail e 0x84 0
        | some k => .wait (modHold f (fun x => { x with groups := mput x.groups k g }) e) (.group f k))

/-- REAP_GROUP (R153): a new group is built once its command waits. -/
def execReapGroup (src : AdminSrc) (s : State) : Answer :=
  onEng s fun e =>
    let e' := reapGroupAdmin src e
    if e'.fw.running.length ≤ e.fw.running.length then e'
    else match e'.fw.running.getLast? with
      | some r => (match r.wait with | .group h n => startGroup h n e' | _ => e')
      | none => e'

/-- The parameters of CREATE SHEAF RING. -/
def cSheafParams (c : BitVec 512) : SheafParams :=
  { base := fld c 256 64, size := cf c 40 0 64, release := fld c 384 64, vector := cf c 57 0 8,
    threshold := cf c 58 0 16 }

/-- Sheaf rings are short: the holding's quota, or 1,024 in the pair (R148, R265). -/
def Engine.ringShort (e : Engine) (f : Fn) : Bool :=
  decide (e.ringQuota f ≤ (e.hold f).ownRings.length)
    || decide (1024 ≤ e.pairCount (·.rings.length) (·.rings.length))

/-- Delete a ring whose last frame has retired (R148). -/
def dropRing (h : Fn) (n : Nat) (e : Engine) : Engine := modHold h (fun x => { x with rings := mdel x.rings n }) e

/-- CREATE_SHEAF_RING (R148). -/
def execCreateSheafRing (src : AdminSrc) (s : State) : Answer :=
  onEng s <| runAdmin
    { op := 0x1B, used := fun c => [(40, 0, 64), (56, 0, 8)] ++
        if cf c 40 0 64 = 0 then [] else [(32, 0, 64), (48, 0, 64), (57, 0, 8), (58, 0, 16)] } src
    (fun f c e =>
      let p := cSheafParams c
      let r := mget (e.hold f).rings (cf c 56 0 8)
      let make := p.size != 0
      [{ bad := make && (cf c 32 0 12 != 0 || !isPow2 p.size || decide (p.size < 65536) || decide (1073741824 < p.size)
           || cf c 48 0 3 != 0 || p.threshold == 0 || decide (1024 < p.threshold))
         status := 0x82 },
       { bad := !make && r.isNone, status := 0x82 },
       frozenCheck e f,
       { bad := make && r.isSome, status := 0x87 },
       { bad := !make && (match r with | some r => r.removeAt.isSome | none => false), status := 0x87 },
       { bad := make && e.ringShort f, status := 0x84 }])
    (fun f c e =>
      let p := cSheafParams c
      let n := cf c 56 0 8
      let g := e.nextG
      if p.size = 0 then
        let e := shadow (.sheafRing f n none) e
        let e := if geMod (e.clk.retired + 1) (g.setWidth 32) then dropRing f n e
          else modRing f n (fun r => { r with removeAt := some g }) e
        .ok e (g.setWidth 32) []
      else
        let e := modHold f (fun x => { x with rings := mput x.rings n { par := p, first := g } }) e
        .ok (shadow (.sheafRing f n (some p)) e) (g.setWidth 32) [])

/-- The parameters of CREATE ALARM RING. -/
def cAlarmParams (c : BitVec 512) : AlarmParams :=
  { base := fld c 256 64, size := cf c 40 0 32, release := fld c 384 64, vector := cf c 57 0 8,
    all := cf c 58 0 1 == 1 }

/-- CREATE_ALARM_RING (R164). -/
def execCreateAlarmRing (src : AdminSrc) (s : State) : Answer :=
  onEng s <| runAdmin
    { op := 0x1C, used := fun c => [(40, 0, 32)] ++
        if cf c 40 0 32 = 0 then [] else [(32, 0, 64), (48, 0, 64), (57, 0, 8), (58, 0, 1)] } src
    (fun f c e =>
      let p := cAlarmParams c
      let r := (e.hold f).alarmRing
      let make := p.size != 0
      [{ bad := p.all && f != pf, status := 0x83 },
       { bad := make && (cf c 32 0 12 != 0 || !isPow2 p.size || decide (p.size < 64) || decide (1048576 < p.size)
           || cf c 48 0 3 != 0)
         status := 0x82 },
       { bad := !make && r.isNone, status := 0x82 },
       frozenCheck e f,
       { bad := make && r.isSome, status := 0x87 }])
    (fun f c e =>
      let p := cAlarmParams c
      if p.size = 0 then
        .ok (shadow (.alarmRing f none) (modHold f (fun x => { x with alarmRing := none }) e)) 0 []
      else .ok (shadow (.alarmRing f (some p)) (modHold f (fun x => { x with alarmRing := some { par := p } }) e)) 0 [])

/-- SET_TRIP_RULE (R160, R162, R213): loads, clears, disarms, arms, in this order. -/
def execSetTripRule (src : AdminSrc) (s : State) : Answer :=
  onEng s <| runAdmin
    { op := 0x1D, pfOnly := true,
      used := fun c => [(34, 0, 1), (35, 0, 8), (36, 0, 4)] ++
        if cf c 34 0 1 = 1 then [(32, 0, 10), (40, 0, 56), (48, 0, 32), (52, 0, 4)] else [] } src
    (fun _ c _ => [{ bad := cf c 35 0 4 &&& cf c 35 4 4 != 0, status := 0x82 }])
    (fun _ c e =>
      let n := finOf 1024 (cf c 32 0 10)
      let rule : BitVec 128 := fld c 320 128
      let e := if cf c 34 0 1 = 1 then
          mirror (.tripRule n rule) (modCommons (fun m => { m with rules := vmod m.rules n fun _ => rule }) e)
        else e
      let arm : BitVec 4 := fld c 280 4
      let disarm : BitVec 4 := fld c 284 4
      let clear : BitVec 4 := fld c 288 4
      let e := { e with pins := { e.pins with
        tripped := e.pins.tripped &&& ~~~clear, armed := (e.pins.armed &&& ~~~disarm) ||| arm } }
      .ok e e.tripStat [])

end Sys2Proof.Machine
end

