-- ==== Sys2Proof/Machine/CoreOps.lean ====
section
/-! DEFINITION. Operations of the core cluster (10_cores.md, 11_interrupts.md): core memory, access faults, the sources of
the CIC with their delivery, claim and EOI, and the dispatcher's threads, choice and switch. -/

namespace Sys2Proof.Machine

/-! ## Updates of one part -/

/-- The core with a number. -/
abbrev Cores.at (k : Cores) (c : CoreId) : Core := k.core[c.val]
/-- A thread. -/
abbrev Cores.th (k : Cores) (t : ThreadId) : Thread := k.threads[t.val]
/-- A CIC source. -/
abbrev Cores.s (k : Cores) (n : SrcId) : CicSrc := k.src[n.val]
/-- Update one core. -/
def modCore (c : CoreId) (f : Core → Core) (k : Cores) : Cores := { k with core := vmod k.core c f }
/-- Update one thread. -/
def modThread (t : ThreadId) (f : Thread → Thread) (k : Cores) : Cores := { k with threads := vmod k.threads t f }
/-- Update one source. -/
def modSrc (n : SrcId) (f : CicSrc → CicSrc) (k : Cores) : Cores := { k with src := vmod k.src n f }
/-- Update the registers of a core. -/
def modRegs (c : CoreId) (f : CoreRegs → CoreRegs) : Cores → Cores := modCore c fun x => { x with regs := f x.regs }
/-- Apply a step over the cores to every element of a list, in order. -/
def forCores {α : Type} (l : List α) (f : α → Cores → Cores) (k : Cores) : Cores := l.foldl (fun k x => f x k) k
/-- The step when a condition holds. -/
def whenC (c : Bool) (f : Cores → Cores) (k : Cores) : Cores := if c then f k else k

/-- Write a general register of a core; x0 is never written. -/
def setX (c : CoreId) (r : Fin 32) (v : Dword) (k : Cores) : Cores :=
  if r.val = 0 then k else modRegs c (fun g => { g with x := vmod g.x r fun _ => v }) k

/-- Cores 4 and 5 run images of the operator. -/
def userCore (c : CoreId) : Bool := decide (4 ≤ c.val)

/-! ## Core memory (R24, R286) -/

/-- The byte at a core address of TCM or L2; one that nothing has written reads 0 (log entry 20). -/
def memByte : List Host.Cell → Nat → Byte
  | [], _ => 0
  | (k, v) :: t, a => if k = a then v else memByte t a

/-- Write one byte, keeping addresses rising and listing no zero. -/
def memPut : List Host.Cell → Nat → Byte → List Host.Cell
  | [], a, b => if b = 0 then [] else [(a, b)]
  | (k, v) :: t, a, b =>
    if a < k then (if b = 0 then (k, v) :: t else (a, b) :: (k, v) :: t)
    else if a = k then (if b = 0 then t else (a, b) :: t)
    else (k, v) :: memPut t a b

/-- Write bytes from an address on. -/
def memPuts (m : List Host.Cell) (a : Nat) : List Byte → List Host.Cell
  | [] => m
  | b :: bs => memPuts (memPut m a b) (a + 1) bs

/-- Read bytes. -/
def memGet (m : List Host.Cell) (a n : Nat) : List Byte := (List.range n).map fun i => memByte m (a + i)

/-- Zero-fill a range. -/
def memZero (m : List Host.Cell) (a n : Nat) : List Host.Cell := m.filter fun c => !(decide (a ≤ c.1) && decide (c.1 < a + n))

/-- The canonical form: addresses strictly rising from a bound, no zero byte. -/
def memWf (m : List Host.Cell) (lo : Nat) : Bool :=
  match m with
  | [] => true
  | (k, v) :: t => decide (lo ≤ k) && v != 0 && memWf t (k + 1)

/-- The memory of the cores is in canonical form. -/
def Memory.wf (m : List Host.Cell) : Bool := memWf m 0

/-- Base of a core's TCM. -/
def tcmBase (c : CoreId) : Nat := 0x10000000 + c.val * 0x40000
/-- Base of L2. -/
def l2Base : Nat := 0x20000000
/-- Base of the user banks. -/
def userBanks : Nat := 0x20200000
/-- A range lies in a region. -/
def inRange (a n base size : Nat) : Bool := decide (base ≤ a) && decide (a + n ≤ base + size)
/-- TCM and L2 (R286). -/
def isMemory (a n : Nat) : Bool := inRange a n 0x10000000 0x180000 || inRange a n l2Base 0x280000

/-! ## Physical memory protection (R284 to R286) -/

/-- The kind of an access, with its bit of a PMP configuration. -/
inductive CoreAccess where
  | load | store | fetch
  deriving DecidableEq, Repr

/-- Bit of a PMP configuration byte that grants an access. -/
def CoreAccess.bit : CoreAccess → Nat
  | .load => 0 | .store => 1 | .fetch => 2

/-- The exception code of a refused access (R285). -/
def CoreAccess.cause : CoreAccess → Dword
  | .load => 5 | .store => 7 | .fetch => 1

/-- Base and size of what a PMP entry covers: off, top of range, four bytes, or a power of two (PRESUMED, log entry 34). -/
def CoreRegs.pmpRange (g : CoreRegs) (i : Fin 16) : Nat × Nat :=
  let a := (g.pmpAddr[i.val]).toNat
  match fldN g.pmpCfg[i.val] 3 2 with
  | 0 => (0, 0)
  | 1 =>
    let lo := if i.val = 0 then 0 else (g.pmpAddr[i.val - 1]).toNat
    (4 * lo, 4 * (a - lo))
  | 2 => (4 * a, 4)
  | _ =>
    let ones := ((List.range 32).find? fun k => !a.testBit k).getD 32
    (4 * (a / 2 ^ ones * 2 ^ ones), 8 * 2 ^ ones)

/-- The lowest PMP entry that covers a byte of an access decides, and grants it only when it covers all of it; without one
nothing grants it (R285). In machine mode only locked entries bind. -/
def CoreRegs.pmpGrants (g : CoreRegs) (w : CoreAccess) (a n : Nat) : Bool :=
  let covers (i : Fin 16) : Bool :=
    let r := g.pmpRange i
    decide (r.1 < a + n) && decide (a < r.1 + r.2) && (!g.machine || bitOf g.pmpCfg[i.val] 7)
  match (allFin 16).find? covers with
  | none => false
  | some i => inRange a n (g.pmpRange i).1 (g.pmpRange i).2 && bitOf g.pmpCfg[i.val] w.bit

/-- A locked PMP entry over a power of two from 8 bytes on: its configuration byte and its address register. -/
def pmpEntry (base size : Nat) (r w x : Bool) : Byte × Dword :=
  (BitVec.ofNat 8 (b2n r + 2 * b2n w + 4 * b2n x + 8 * 3 + 128), BitVec.ofNat 32 (base / 4 + size / 8 - 1))

/-- PMP entries 0 to 7 as firmware locks them for a user core: the rights of the table of R286, TRIP_SOFT being a word of its
own (DESIGN CHOICE of which entry grants what, log entry 34). -/
def lockedPmp (c : CoreId) : List (Byte × Dword) :=
  [pmpEntry (tcmBase c) 0x40000 true true true, pmpEntry userBanks 0x80000 true true true,
   pmpEntry 0x40000000 0x20000 true true false, pmpEntry 0x40020000 0x10000 true true false,
   pmpEntry 0x40030000 0x10000 true false false, pmpEntry 0x50000000 0x10000000 true false false,
   (0x93#8, 0x18000001#32), pmpEntry 0x60000000 0x10000 true false false]

/-- The registers of a user core at its start: the locked PMP entries, the others at reset (R285, R291). -/
def lockPmp (c : CoreId) (g : CoreRegs) : CoreRegs :=
  { g with
    pmpCfg := Vector.ofFn fun i => (((lockedPmp c)[i.val]?).map (·.1)).getD 0
    pmpAddr := Vector.ofFn fun i => (((lockedPmp c)[i.val]?).map (·.2)).getD 0 }

/-- The rights of cores 0 to 3 (R286). -/
def firmwareRights (w : CoreAccess) (a n : Nat) : Bool :=
  isMemory a n || (inRange a n 0 0x10000 && w != .store)
    || (w != .fetch && (inRange a n 0x40000000 0x40000 || inRange a n 0x60000000 0x10000))
    || (w == .load && inRange a n 0x50000000 0x10000000)

/-- The core has the right to an access (R285, R286): of cores 0 to 3 the table's, of cores 4 and 5 what PMP grants. -/
def Core.may (x : Core) (c : CoreId) (w : CoreAccess) (a n : Nat) : Bool :=
  if userCore c then x.regs.pmpGrants w a n else firmwareRights w a n

/-! ## Running cores and their faults -/

/-- The cluster is powered and clocked (R310, R322, R386). -/
def Engine.clusterOn (e : Engine) : Bool := e.pwr.chip == .active && !e.pins.inReset && !e.fw.fenced && !e.jtag.holds

/-- The core is halted or stopped: it runs nothing and takes no interrupt and no dispatch (R291, R364). -/
def stopped (e : Engine) (k : Cores) (c : CoreId) : Bool :=
  if userCore c then (k.at c).state != .running else bitOf e.fw.halted c.val || e.fw.restarting

/-- The core executes instructions. -/
def executes (e : Engine) (k : Cores) (c : CoreId) : Bool :=
  e.clusterOn && !stopped e k c && !(k.at c).wfi && !(k.at c).noThread

/-- A trap into machine mode (the standard RISC-V entry of R285): pc, mode and MIE are saved. -/
def takeTrap (c : CoreId) (cause tval : Dword) : Cores → Cores :=
  modRegs c fun g => { g with
    mepc := g.pc, mcause := cause, mtval := tval, pc := g.mtvec &&& 0xFFFFFFFC#32, machine := true
    mstatus := (g.mstatus &&& ~~~0x1888#32) ||| (if bitOf g.mstatus 3 then 0x80#32 else 0) |||
      (if g.machine then 0x1800#32 else 0) }

/-- The access fault of an access (R285). -/
def accessFault (w : CoreAccess) (c : CoreId) (a : Nat) : Cores → Cores := takeTrap c w.cause (BitVec.ofNat 32 a)
/-- A load access fault. -/
def loadFault (c : CoreId) (a : Nat) : Cores → Cores := accessFault .load c a
/-- A store or AMO access fault. -/
def storeFault (c : CoreId) (a : Nat) : Cores → Cores := accessFault .store c a

/-- The core fetches at its pc: an instruction access fault where it has no right to (R285, R295). -/
def fetchAt (c : CoreId) (k : Cores) : Cores :=
  let pc := (k.at c).regs.pc
  if (k.at c).may c .fetch pc.toNat 2 then k else accessFault .fetch c pc.toNat k

/-- A trap that Skelku handled and returned from (R293, R294): its cause stays readable as the last trap (R291), the pc goes
on at `next`, in the mode and with the interrupt enable of before. -/
def handledTrap (c : CoreId) (cause next : Dword) : Cores → Cores :=
  modRegs c fun g => { g with
    pc := next, mepc := next, mcause := cause, mtval := 0, mstatus := (g.mstatus &&& ~~~0x1800#32) ||| 0x80#32 }

/-! ## Sources (R303 to R308) -/

/-- Level sources. -/
def isLevel (n : SrcId) : Bool := (decide (8 ≤ n.val) && decide (n.val ≤ 43)) || n.val == 47
/-- Reserved sources. -/
def isReserved (n : SrcId) : Bool :=
  (decide (48 ≤ n.val) && decide (n.val ≤ 63)) || (decide (81 ≤ n.val) && decide (n.val ≤ 95))
    || (decide (224 ≤ n.val) && decide (n.val ≤ 383))
/-- The user set. -/
def isUser (n : SrcId) : Bool :=
  decide (n.val ≤ 7) || (decide (9 ≤ n.val) && decide (n.val ≤ 11)) || n.val == 47
    || (decide (96 ≤ n.val) && decide (n.val ≤ 160))
/-- What a core may see and write of a source (R306). -/
def seesSrc (c : CoreId) (n : SrcId) : Bool := !isReserved n && (!userCore c || isUser n)

/-- The live input of a source: the "LEVEL shows" column of R303. -/
def Engine.level (e : Engine) (n : SrcId) : Bool :=
  let i := n.val
  if i ≤ 7 then bitOf e.pins.alm i
  else if i = 8 then e.yoke.partnerLost
  else if i = 9 then e.pins.tripped != 0
  else if i = 10 then e.pwr.therm
  else if i = 11 then e.pwr.limitLow
  else if i ≤ 43 then (e.port (finOf 32 (i - 12))).rh.changes != 0
  else if i = 44 then e.pcie.perst
  else if i = 45 then e.pcie.link == .l0
  else if i = 46 then e.yoke.link == .up
  else if i = 47 then e.pwr.sleep
  else if 384 ≤ i && i ≤ 447 then ((e.fn (finOf 64 (i - 384))).mbx).busy
  else false

/-- An event of a source: pending, counted up to 255 (R307); the storm condition of R317 is noted. -/
def pend (now : Nat) : SrcId → Cores → Cores := fun n => modSrc n fun x =>
  let first := if x.count = 0 then some now else x.first
  let steady := if x.count = 0 then !x.masked else x.steady
  let count := if x.count = 255 then x.count else x.count + 1
  let soon := match first with | some f => decide (now ≤ f + 1000000) | none => false
  { x with pending := true, first, steady, count
           hot := x.hot || (count == 255 && x.count != 255 && soon && steady && !x.masked) }

/-- A level source's input rises: already pending, it is not counted again (R307). -/
def pendRise (now : Nat) (n : SrcId) (k : Cores) : Cores := if (k.s n).pending then k else pend now n k

/-- The watcher's hold of a source while the CIC is off (R319): its pending bit, its count, and whether the storm condition
of R317 is met. -/
def watchHold (now : Nat) (n : SrcId) (count : Bool) (k : Cores) : Cores :=
  let x := k.src[n.val]
  let i : Fin 64 := finOf 64 n.val
  let had := x.count.toNat + (k.wCount[i.val]).toNat
  let first := if had = 0 then some now else if x.count = 0 then k.wFirst[i.val] else x.first
  let soon := match first with | some f => decide (now ≤ f + 1000000) | none => false
  let steady := !x.masked && (x.count = 0 || x.steady)
  { k with
    wPend := k.wPend ||| (1#64 <<< n.val)
    wCount := vmod k.wCount i fun x => if count && x != 255 then x + 1 else x
    wFirst := vmod k.wFirst i fun f => if count && had == 0 then some now else f
    wHot := if count && had == 254 && soon && steady then k.wHot ||| (1#64 <<< n.val) else k.wHot }

/-- Whether the watcher, and not the CIC, holds the source now. -/
def Engine.watched (e : Engine) (n : SrcId) : Bool := e.pwr.chip != .active && decide (n.val < 64)

/-- The bits of a word that a core may write, as sources. -/
def wordSources (c : CoreId) (w : Fin 16) (v : Dword) : List SrcId :=
  ((List.range 32).filter (bitOf v ·)).map (fun b => finOf 512 (32 * w.val + b)) |>.filter (seesSrc c)

/-! ## Delivery (R309 to R312) -/

/-- Running priority of a core. -/
def Core.runPri (x : Core) : Nat := match x.stack with | [] => 0 | y :: _ => y.1

/-- The running priority that a claim of the source pushes. -/
def Cores.prioOf (k : Cores) (n : SrcId) : Nat := if n.val < 384 then 16 else (k.s n).prio.toNat

/-- A core's running priority admits the source. -/
def Cores.admits (k : Cores) (c : CoreId) (n : SrcId) : Bool :=
  decide ((k.at c).stack.length < 8) && decide ((k.at c).runPri < k.prioOf n)

/-- An eligible target of a source. -/
def Cores.eligible (k : Cores) (n : SrcId) (c : CoreId) : Bool :=
  bitOf (k.s n).targets c.val && (!userCore c || (k.at c).state == .running)

/-- The power mode in which a core waits: mode 2 or 3 of core 0 without a commit request acts as mode 0 (R324). -/
def Engine.coreMode (e : Engine) (c : CoreId) : Nat :=
  if c.val = 0 && e.pwr.request.isNone && decide (2 ≤ (e.pwr.mode[c.val]).toNat) then 0 else (e.pwr.mode[c.val]).toNat

/-- The core is awake: not in WFI with a power mode of 1 or more, and powered (R310). -/
def awake (e : Engine) (k : Cores) (c : CoreId) : Bool :=
  e.clusterOn && !((k.at c).wfi && decide (1 ≤ e.coreMode c))

/-- The present targets of a source (R311). -/
def targets (e : Engine) (k : Cores) (n : SrcId) : List CoreId :=
  let up := (allFin 6).filter fun c => k.eligible n c && awake e k c
  if (k.s n).lowest then
    (minBy (fun c => (k.at c).runPri) (up.filter fun c => k.admits c n)).toList
  else up

/-- The source is deliverable to the core (R310). -/
def deliverable (e : Engine) (k : Cores) (n : SrcId) (c : CoreId) : Bool :=
  let x := k.s n
  x.pending && !x.masked && !x.quar && x.active.isNone && (targets e k n).contains c && k.admits c n

/-- The highest-ranked source deliverable to a core (R309). -/
def bestSource (e : Engine) (k : Cores) (c : CoreId) : Option SrcId :=
  let l := (allFin 512).filter fun n => deliverable e k n c
  match l.find? (fun n => decide (n.val < 384)) with
  | some n => some n
  | none => minBy (fun n => 16 - k.prioOf n) l

/-- MEIP of a core (R310). -/
def meip (e : Engine) (k : Cores) (c : CoreId) : Bool := (bestSource e k c).isSome

/-! ## Claim and EOI (R313, R314) -/

/-- Claim a source for a core: its pending bit clears, it becomes ACTIVE, the priority is pushed, its counter is taken. -/
def claim (c : CoreId) (n : SrcId) (k : Cores) : Cores :=
  let p := k.prioOf n
  modCore c (fun x => { x with stack := (p, n.val) :: x.stack })
    (modSrc n (fun x => { x with pending := false, active := some c, count := 0, first := none, hot := false }) k)

/-- What CIC_CLAIM returns for a source (R321). -/
def claimWord (e : Engine) (k : Cores) (n : Option SrcId) : Dword :=
  match n with
  | none => 1023
  | some n => BitVec.ofNat 32 (n.val + 65536 * (k.s n).count.toNat + 2 ^ 24 * b2n (e.level n))

/-- A source's claim ends: it re-pends while its level is high (R307, R314). -/
def endActive (e : Engine) (n : SrcId) (k : Cores) : Cores :=
  let k := modSrc n (fun x => { x with active := none }) k
  whenC (isLevel n && e.level n) (pend e.now n) k

/-- EOI by a core: the number must be the source of its top entry. -/
def eoi (e : Engine) (c : CoreId) (v : Nat) (k : Cores) : Cores :=
  if v = 1023 then k
  else match (k.at c).stack with
  | (_, n) :: rest =>
    if n = v then endActive e (finOf 512 n) (modCore c (fun x => { x with stack := rest }) k)
    else modCore c (fun x => { x with eoiErr := true }) k
  | [] => modCore c (fun x => { x with eoiErr := true }) k

/-- Empty a core's stack; its ACTIVE sources become inactive and re-pend while their level is high (R320). -/
def dropStack (e : Engine) (c : CoreId) (k : Cores) : Cores :=
  let mine := (allFin 512).filter fun n => (k.s n).active == some c
  forCores mine (endActive e) (modCore c (fun x => { x with stack := [], eoiErr := x.eoiErr }) k)

/-- Route of a source (R306): the user set goes to cores 4 and 5 only, every other source to cores 0 to 3 only. -/
def setRoute (n : SrcId) (v : Dword) : Cores → Cores :=
  modSrc n fun x => { x with
    targets := if isUser n then fld v 0 6 &&& 0x30#6 else fld v 0 6 &&& 0x0F#6, lowest := bitOf v 8 }

/-- Mask or unmask a source; a quarantined one stays masked (R308, R317). -/
def setMask (m : Bool) : SrcId → Cores → Cores := fun n => modSrc n fun x =>
  if m then { x with masked := true, steady := false, hot := false }
  else if x.quar then x else { x with masked := false }

/-! ## Threads (R295 to R302) -/

/-- Mark an ignored command or wait. -/
def threadErr (t : ThreadId) : Cores → Cores := modThread t fun x => { x with err := true }

/-- A thread becomes READY now (R296). -/
def makeReady (t : ThreadId) (k : Cores) : Cores :=
  { modThread t (fun x => { x with state := .ready, age := k.ages, call := .none }) k with ages := k.ages + 1 }

/-- The wait condition of a thread (R297). -/
def Thread.met (x : Thread) : Bool :=
  if x.all then x.flags &&& x.mask == x.mask else x.flags &&& x.mask != 0

/-- Affinity of a thread as it can be set (R295). -/
def affinityOf (t : ThreadId) (v : Dword) : BitVec 6 := if 192 ≤ t.val then fld v 8 6 &&& 0x30#6 else fld v 8 6 &&& 0x0F#6

/-- The threads that an image of a user core owns (R295). -/
def ownedBy (c : CoreId) (t : ThreadId) : Bool :=
  if c.val = 4 then decide (192 ≤ t.val) && decide (t.val ≤ 223) else c.val == 5 && decide (224 ≤ t.val)

/-- Dispatching can give core `c` a thread (R298). -/
def canTake (e : Engine) (k : Cores) (c : CoreId) : Bool := e.clusterOn && (k.at c).enable && !stopped e k c

/-- Priority of what a core runs: 0 for an idle core, one above a thread's priority otherwise. -/
def Cores.level (k : Cores) (c : CoreId) : Nat :=
  match (k.at c).run with | none => 0 | some t => (k.th t).prio.toNat + 1

/-- Give READY threads to cores in order: highest priority first, then oldest; to the eligible core that is idle or runs
the lowest priority below the thread's own, the lower-numbered of equals (R298). -/
def assign (e : Engine) (k : Cores) : List ThreadId → List (CoreId × ThreadId) → List (CoreId × ThreadId)
  | [], got => got
  | t :: rest, got =>
    let x := k.th t
    let can := (allFin 6).filter fun c =>
      canTake e k c && bitOf x.affinity c.val && !(got.any fun g => g.1 == c) && decide (k.level c < x.prio.toNat + 1)
    match minBy k.level can with
    | none => assign e k rest got
    | some c => assign e k rest (got ++ [(c, t)])

/-- READY threads in the order of R298. -/
def Cores.readyOrder (k : Cores) : List ThreadId :=
  sortBy (fun t => 31 - (k.th t).prio.toNat) (sortBy (fun t => (k.th t).age)
    ((allFin 256).filter fun t => (k.th t).state == .ready))

/-- DSP_NEXT of a core (R298). -/
def dspNext (e : Engine) (k : Cores) (c : CoreId) : Option ThreadId :=
  ((assign e k k.readyOrder []).find? fun g => g.1 == c).map (·.2)

/-- The dispatch line of a core in INTERRUPT mode (R299). -/
def msip (e : Engine) (k : Cores) (c : CoreId) : Bool := !(k.at c).preempt && (dspNext e k c).isSome

/-- The 140 bytes of a context block lie in TCM of the cores that R301 gives for the thread. -/
def ctxOkFor (t : ThreadId) (a : Nat) : Bool :=
  decide (a % 4 = 0) &&
    ((allFin 6).any fun c => (userCore c == decide (192 ≤ t.val)) && inRange a 140 (tcmBase c) 0x40000)

/-- Save a core's registers to a thread's context block (R301). -/
def saveContext (c : CoreId) (t : ThreadId) (valid : Bool) (k : Cores) : Cores :=
  let g := (k.at c).regs
  let ms := (g.mstatus &&& ~~~0x1800#32) ||| (if g.machine then 0x1800#32 else 0)
  let xs := (List.range 31).flatMap fun i => wordBytes (g.x[(finOf 32 (i + 1)).val])
  let bs := wordBytes g.pc ++ wordBytes ms ++ xs ++ wordBytes (k.th t).got
    ++ leBytes 4 (t.val + 256 * c.val + 65536 * b2n valid)
  let a := (k.th t).ctx.toNat
  if ctxOkFor t a then { k with mem := memPuts k.mem a bs } else k

/-- VALID of a thread's context block. -/
def Cores.ctxValid (k : Cores) (t : ThreadId) : Bool :=
  let a := (k.th t).ctx.toNat
  ctxOkFor t a && bitOf (memByte k.mem (a + 138)) 0

/-- Restore a thread to a core (R295, R300, R301): x1 to x31 and pc, mstatus with MPP cleared, the mode that MPP named; the LR
reservation is lost. Its first instruction is fetched there. -/
def restoreContext (c : CoreId) (t : ThreadId) (k : Cores) : Cores :=
  let a := (k.th t).ctx.toNat
  let w (off : Nat) : Dword := BitVec.ofNat 32 (leNat (memGet k.mem (a + off) 4))
  let k := modCore c (fun x => { x with
    run := some t, noThread := false, wfi := false
    regs := { x.regs with
      pc := w 0, mstatus := w 4 &&& ~~~0x1800#32, machine := fldN (w 4) 11 2 == 3, lr := false
      x := Vector.ofFn fun i => if i.val = 0 then 0 else w (8 + 4 * (i.val - 1)) } }) k
  fetchAt c (modThread t (fun x => { x with state := .running, core := c.val }) k)

/-- The core of which the thread's registers are still to be saved, or that runs it. -/
def Cores.holder (k : Cores) (t : ThreadId) : Option CoreId :=
  (allFin 6).find? fun c => (k.at c).run == some t || (k.at c).unsaved == some t

/-- Write a result register of a thread that a Skelku service blocked: in its core's registers while it is not saved, else
in its context block. -/
def setThreadX (t : ThreadId) (r : Fin 32) (v : Dword) (k : Cores) : Cores :=
  match k.holder t with
  | some c => setX c r v k
  | none =>
    let a := (k.th t).ctx.toNat
    if ctxOkFor t a && r.val != 0 then { k with mem := memPuts k.mem (a + 8 + 4 * (r.val - 1)) (wordBytes v) } else k

/-- A met wait takes its flags: DSP_GOT, the context block's taken word, and the flags unless KEEP (R297). -/
def takeFlags (t : ThreadId) (k : Cores) : Cores :=
  let x := k.th t
  let got := x.flags &&& x.mask
  let k := modThread t (fun x => { x with got, flags := if x.keep then x.flags else x.flags &&& ~~~x.mask }) k
  let a := x.ctx.toNat
  let k := if ctxOkFor t a then { k with mem := memPuts k.mem (a + 132) (wordBytes got) } else k
  whenC (x.call == .wait) (setThreadX t 11 got) k

/-- A thread that waits and whose wait is met becomes READY; a timer of its wait is dropped (R296). -/
def checkWait (t : ThreadId) (k : Cores) : Cores :=
  if (k.th t).state == .waiting && (k.th t).met && (k.th t).call != .sleep && (k.th t).call != .copy then
    makeReady t { takeFlags t k with timers := k.timers.filter fun y => y.thread != t }
  else k

/-- Set flags of a thread (R297). -/
def setFlags (t : ThreadId) (v : Dword) (k : Cores) : Cores :=
  checkWait t (modThread t (fun x => { x with flags := x.flags ||| v }) k)

/-- A thread leaves its core. -/
def leaveCore (t : ThreadId) (save : Bool) (k : Cores) : Cores :=
  forCores (allFin 6) (fun c => modCore c fun x =>
    if x.run == some t then { x with run := none, unsaved := if save && x.preempt then some t else x.unsaved } else x) k

/-- START of a thread (R296). -/
def startThread (t : ThreadId) (k : Cores) : Cores :=
  if (k.th t).state == .dormant then makeReady t k else threadErr t k

/-- STOP of a thread (R296): flags kept; a running one in PRE-EMPT mode is saved with VALID clear. -/
def stopThread (t : ThreadId) (k : Cores) : Cores :=
  if (k.th t).state == .dormant then threadErr t k
  else
    let k := match (allFin 6).find? fun c => (k.at c).run == some t with
      | some c => whenC (k.at c).preempt (saveContext c t false) k
      | none => k
    let k := forCores (allFin 6) (fun c => modCore c fun x =>
      if x.unsaved == some t then { x with unsaved := none } else x) (leaveCore t false k)
    { modThread t (fun x => { x with state := .dormant, call := .none, copy := none }) k with
      timers := k.timers.filter fun y => y.thread != t }

/-- A wait of the running thread of a core (R296, R297). -/
def waitThread (c : CoreId) (t : ThreadId) (mask : Dword) (k : Cores) : Cores :=
  if (k.at c).run != some t || (k.th t).state != .running then threadErr t k
  else
    let k := modThread t (fun x => { x with mask }) k
    if (k.th t).met then takeFlags t k
    else leaveCore t true (modThread t (fun x => { x with state := .waiting }) k)

/-- The switch of R300 on one core: the thread that leaves is saved, the chosen one restored; a block with VALID clear
makes its thread DORMANT with ERR. With nothing to run the core stays in the no-thread state. -/
def switchCore (e : Engine) (c : CoreId) (k : Cores) : Cores :=
  let next := dspNext e k c
  let k := match (k.at c).unsaved with
    | some t => modCore c (fun x => { x with unsaved := none }) (saveContext c t true k)
    | none => k
  match next with
  | none => if (k.at c).run.isNone then modCore c (fun x => { x with noThread := true }) k else k
  | some t =>
    let k := match (k.at c).run with
      | some old =>
        makeReady old (modCore c (fun x => { x with run := none }) (saveContext c old true k))
      | none => k
    if k.ctxValid t then restoreContext c t k
    else modCore c (fun x => { x with noThread := x.run.isNone })
      (threadErr t (modThread t (fun x => { x with state := .dormant }) k))

/-- The switch may be taken: PRE-EMPT mode, running priority 0, user mode or MIE set, and something to do (R300). A thread
that another core has not yet saved is not restored. -/
def maySwitch (e : Engine) (k : Cores) (c : CoreId) : Bool :=
  let x := k.at c
  e.clusterOn && !stopped e k c && x.preempt && x.runPri == 0 && (!x.regs.machine || bitOf x.regs.mstatus 3) &&
    (match dspNext e k c with
     | some t => (match k.holder t with | some d => d == c | none => true)
     | none => x.unsaved.isSome)

/-! ## What follows a change -/

/-- Skelku's handling of a source that is attached (R294), on the user core that takes it: claim, flag, mask, EOI. -/
def serveAttached (e : Engine) (n : SrcId) (k : Cores) : Cores :=
  match mget k.attach n.val with
  | none => k
  | some (t, flag) =>
    let takes (c : CoreId) : Bool :=
      userCore c && deliverable e k n c && !(k.at c).noThread && !stopped e k c
        && (!(k.at c).regs.machine || bitOf (k.at c).regs.mstatus 3)
    match (allFin 6).find? takes with
    | none => k
    | some c =>
      let k := handledTrap c 0x8000000B#32 (k.at c).regs.pc k
      let k := modCore c (fun x => { x with wfi := false }) (claim c n k)
      let k := setMask true n (setFlags t (1#32 <<< flag) k)
      eoi e c n.val k

/-- A core in WFI that is awake goes on when its MEIP or its dispatch line rises (R299, R310). -/
def endWfi (e : Engine) (c : CoreId) (k : Cores) : Cores :=
  if (k.at c).wfi && e.clusterOn && !stopped e k c && (meip e k c || msip e k c) then
    modCore c (fun x => { x with wfi := false }) k
  else k

/-- Skelku programs the nearest timer of its table on a core (R293). -/
def programTimer (c : CoreId) (k : Cores) : Cores :=
  match minBy (fun t => t) ((k.timers.filter (·.core == c)).map (·.due)) with
  | none => k
  | some due =>
    let t := Config.skelkuTarget c
    modCore c (fun x => { x with
      tmr := BitVec.ofNat 64 due, tmrThread := BitVec.ofNat 8 (192 + t.1 % 64), tmrFlag := t.2, tmrArm := true }) k

/-- What a change in the CIC or the dispatcher leads to at once. -/
def settleCores (e : Engine) (k : Cores) : Cores :=
  let k := forCores (k.attach.map fun a => finOf 512 a.1) (serveAttached e) k
  forCores ((allFin 6).filter userCore) programTimer (forCores (allFin 6) (endWfi e) k)

/-! ## Core states and resets -/

/-- A thread at its reset register values (R288, R302). -/
def resetThread (t : ThreadId) (k : Cores) : Cores :=
  { modThread t (fun _ => {}) (leaveCore t false k) with timers := k.timers.filter fun y => y.thread != t }

/-- A user core becomes STOPPED (R291, R302, R320): its threads at their reset values, its routes withdrawn. -/
def stopCore (e : Engine) (c : CoreId) (k : Cores) : Cores :=
  let k := match (k.at c).run with
    | some t => modThread t (fun x => { x with state := .dormant }) k
    | none => k
  let k := forCores ((allFin 256).filter (ownedBy c)) resetThread k
  let k := { k with
    timers := k.timers.filter fun y => y.core != c && !ownedBy c y.thread
    attach := k.attach.filter fun a => !ownedBy c a.2.1
    src := k.src.map fun x => { x with targets := x.targets &&& ~~~(1#6 <<< c.val) } }
  let k := dropStack e c k
  modCore c (fun x => { x with
    state := .stopped, run := none, unsaved := none, noThread := false, wfi := false
    regs := { x.regs with pmpCfg := Vector.replicate 16 0 } }) k

/-- A firmware restart empties the stacks of cores 0 to 3 (R320). -/
def restartCores (e : Engine) (k : Cores) : Cores :=
  forCores ((allFin 6).filter fun c => !userCore c) (dropStack e) k

/-- The cluster under POR_N and CONTROLLER RESET (R292, R302, R320): every register at its reset value, the firmware log in
L2 bank 7 cleared (R365); the other contents of TCM and L2 stay (log entry 20). -/
def resetCores (k : Cores) : Cores := { ({} : Cores) with mem := memZero k.mem (l2Base + 7 * 0x40000) 0x40000 }

/-- The CIC takes what the watcher held (R319): the pending bits, the counts with the time of their first event, and the
storms (R317). A count stays also where the level has fallen (R316). -/
def handOver (k : Cores) : Cores :=
  let k' := forCores ((allFin 512).filter fun n => decide (n.val < 64)) (fun n k =>
    modSrc n (fun x => { x with
      pending := x.pending || bitOf k.wPend n.val
      count := BitVec.ofNat 8 (min 255 (x.count.toNat + (k.wCount[n.val % 64]).toNat))
      first := if x.count = 0 then k.wFirst[n.val % 64] else x.first
      steady := if x.count = 0 then !x.masked else x.steady
      hot := x.hot || bitOf k.wHot n.val }) k) k
  { k' with wPend := 0, wCount := Vector.replicate 64 0, wFirst := Vector.replicate 64 none, wHot := 0 }

end Sys2Proof.Machine
end

