-- ==== Sys2Proof/Machine/YokeOps.lean ====
section
/-! DEFINITION. Operations of the yoke (09_faults.md): positions of leadership, the settling of writes (R262), what a
change of runner does to items (R266, R267), TAKE and its outcomes (R269, R270). -/

namespace Sys2Proof.Machine

/-! ## Positions -/

/-- A device lies at or below a position of leadership. -/
def Engine.under (e : Engine) (pos : LeadPos) (d : DevNum) : Bool :=
  match pos with
  | .port p => e.rootOf d == some p
  | .hub n => match e.dev? n with | some v => e.commons.below v.pos 7 d | none => false

/-- This controller leads the position (R267). -/
def Engine.leadsPos (e : Engine) : LeadPos → Bool
  | .port p => (e.port p).leads
  | .hub n => match (e.dev? n).bind (·.hub) with | some u => u.leads | none => false

/-- The dual-upstream hubs at or below a position, top tier first (R267). -/
def Engine.duals (e : Engine) (pos : LeadPos) : List DevNum :=
  let l := e.commons.devs.filter fun x =>
    (match x.2.hub with | some u => u.dual | none => false) && e.under pos (BitVec.ofNat 20 x.1)
  (sortBy (fun x => x.2.depth) l).map fun x => BitVec.ofNat 20 x.1

/-- Set the leadership of one port or one dual-upstream hub. -/
def setLead (pos : LeadPos) (b : Bool) : Engine → Engine :=
  match pos with
  | .port p => modPort p fun t => { t with leads := b }
  | .hub n => modHub n fun u => { u with leads := b }

/-- A position has passed to the partner, with every dual-upstream hub below it (R267, R278). -/
def loseLead (pos : LeadPos) (e : Engine) : Engine :=
  forAll (e.duals pos) (fun d => setLead (.hub d) false) (setLead pos false e)

/-- Root port through which a position is reached. -/
def Engine.leadPort (e : Engine) : LeadPos → PortId
  | .port p => p
  | .hub n => (e.rootOf n).getD 0

/-- The yoked ports that the senior leads, as this controller knows it (R265). -/
def Engine.seniorMask (e : Engine) : Dword :=
  (allFin 32).foldl (fun m p =>
    if bitOf e.yoke.yokedPorts p.val && (e.port p).leads == e.senior then m ||| (1#32 <<< p.val) else m) 0

/-- Tell the partner the yoke configuration as it stands, with which controller leads which port (R27, R265). -/
def tellLead (e : Engine) : Engine := mirror (.yokeConfig e.yoke.yoked e.yoke.yokedPorts e.seniorMask) e

/-- The holder of a position that drains for the partner starts nothing below it (R267). -/
def Engine.draining (e : Engine) (d : DevNum) : Bool :=
  e.yoke.handovers.any fun x => !x.asking && e.under x.pos d

/-- A transaction is outstanding, or its grant made, below a position. -/
def Engine.busyBelow (e : Engine) (pos : LeadPos) : Bool :=
  let p := e.leadPort pos
  ((e.port p).arb.outstanding.any fun t => t.kind != .take && (t.dev == 0 || e.under pos t.dev))
    || (e.port p).arb.grant.isSome

/-! ## Settling (R262) -/

/-- Some written position has not settled. -/
def Engine.unsettled (e : Engine) : Bool :=
  e.created.any fun h =>
    let x := e.hold h
    (x.cqs.any fun q => q.2.settled != q.2.write) || (x.rings.any fun r => r.2.settled != r.2.write)
      || (match x.alarmRing with | some r => r.settled != r.write | none => false)
      || (match x.alarmAdopted with | some r => r.settled != r.write | none => false)
      || (e.items.any fun i => i.jr.holding == h && (i.comp == .written || i.wb == .written))

/-- Every write issued so far is behind the settling read that goes out now. -/
def askSettle (e : Engine) : Engine :=
  let ask (s : Settle) : Settle := if s == .written then .asked else s
  let ring (r : AlarmRing) : AlarmRing := { r with asked := r.write }
  { e with
    items := e.items.map fun i => { i with comp := ask i.comp, wb := ask i.wb }
    holdings := e.holdings.map fun x => { x with
      cqs := x.cqs.map fun q => (q.1, { q.2 with asked := q.2.write })
      rings := x.rings.map fun r => (r.1, { r.2 with
        asked := r.2.write, unsettled := r.2.unsettled.map fun y => (y.1, y.2.1, y.2.2.1, true) })
      alarmRing := x.alarmRing.map ring
      alarmAdopted := x.alarmAdopted.map ring } }

/-- The settling read of the tally word, at most 1 us after a position has become unsettled (R262). -/
def settleDue (e : Engine) : Engine :=
  if e.yoke.yoked && e.unsettled && !e.asked .settle then
    hostRead pf e.yoke.tallyAddr 8 .settle (askSettle e)
  else e

/-- A position record for the partner (R260). -/
def journalPos (kind : PosKind) (h : Fn) (num : Nat) (issued settled : RingPos) (sequence : Dword) : Engine → Engine :=
  journal (.position { kind, holding := h, num, issued, settled, sequence })

/-- The partner is told of every settled position that has moved (R260). -/
def journalMoved (before e : Engine) : Engine :=
  forAll e.created (fun h e =>
    let x := e.hold h
    let old := before.hold h
    let e := forAll (x.cqs.filter fun q => (mget old.cqs q.1).map (·.settled) != some q.2.settled)
      (fun q => journalPos .cq h q.1 q.2.write q.2.settled 0) e
    let e := forAll (x.rings.filter fun r => (mget old.rings r.1).map (·.settled) != some r.2.settled)
      (fun r => journalPos .sheafRing h r.1 r.2.write r.2.settled r.2.sequence) e
    match x.alarmRing with
    | some r => if old.alarmRing.map (·.settled) != some r.settled then journalPos .alarmRing h 0 r.write r.settled 0 e else e
    | none => e) e

/-- A settling read has completed: positions and writes that it followed are settled (R262). -/
def settle (e : Engine) : Engine :=
  let before := e
  let done (s : Settle) : Settle := if s == .asked then .settled else s
  let freed := e.created.flatMap fun h => (e.hold h).rings.flatMap fun r =>
    (r.2.unsettled.filter (·.2.2.2)).map fun y => (h, y.1, y.2.1, y.2.2.1)
  let ring (r : AlarmRing) : AlarmRing := { r with settled := r.asked }
  let e := { e with
    items := e.items.map fun i => { i with comp := done i.comp, wb := done i.wb }
    holdings := e.holdings.map fun x => { x with
      cqs := x.cqs.map fun q => (q.1, { q.2 with settled := q.2.asked })
      rings := x.rings.map fun r => (r.1, { r.2 with
        settled := r.2.asked, unsettled := r.2.unsettled.filter fun y => !y.2.2.2 })
      alarmRing := x.alarmRing.map ring
      alarmAdopted := x.alarmAdopted.map ring } }
  let e := forAll freed (fun y =>
    journal (.periodicFree y.1 y.2.1 (y.2.2.1.setWidth 32) y.2.2.2)) e
  journalMoved before (freeRecords e)

/-- Write-backs of contexts below a position are settled (R267). -/
def Engine.settledBelow (e : Engine) (pos : LeadPos) : Bool :=
  !e.items.any fun i => e.under pos i.jr.dev && i.wb != .settled

/-- Write back every cached context of an endpoint below a position (R266, R267). -/
def writeBackBelow (pos : LeadPos) (e : Engine) : Engine :=
  forAll e.created (fun h e =>
    forAll (e.cachedOf h) (fun i e =>
      match e.ctxLine h i with
      | some l => if e.under pos (ctxDev l.raw) then writeBack h i e else e
      | none => e) e) e

/-- Drop every cached context of an endpoint below a position: only the runner caches them (R266). -/
def dropBelow (pos : LeadPos) (e : Engine) : Engine :=
  { e with plots := e.plots.map fun q => { q with cache := q.cache.filter fun l => !e.under pos (ctxDev l.2.raw) } }

/-! ## Items at a change of runner -/

/-- Bring an own item to its next transaction with the runner that it now has, with what it has done so far (R266); data
read for the other runner is not taken. -/
def sendItem (id : Nat) (e : Engine) : Engine :=
  match e.item? id with
  | none => e
  | some i =>
    if !i.active || i.phase == .relayed then e
    else armItem id (modItem id (fun i => { i with data := [] }) (forgetReads (· == .outData id) e))

/-- Take an item back that the partner has run, from the journal record that the partner keeps of it where there is
one: its bytes, stage and sequence (R261, R276). -/
def resumeItem (id : Nat) (e : Engine) : Engine :=
  match e.item? id with
  | none => e
  | some i =>
    if !i.active then e
    else
      let r := e.yoke.itemRecs.find? fun r =>
        r.relayed && r.holding == i.jr.holding && r.sq % 4096 == i.jr.sq % 4096 && r.unit == i.jr.unit
      let i' : Item := match r with
        | some r => { i with jr := { i.jr with bytes := max i.jr.bytes r.bytes, stage := r.stage, seq := r.seq } }
        | none => i
      let i' := { i' with phase := .waitTurn, attempts := 0, data := [] }
      let first := match (e.itemsFor i.jr.holding i.jr.dev i.jr.ep).head? with | some x => x.id == id | none => false
      let e := modItem id (fun _ => i') e
      if first then turns i.jr.holding i.jr.dev i.jr.ep (beginItem id e) else e

/-- Entries of the partner's that a predicate selects leave this controller; replies to them are orphans (R60). -/
def dropVisiting (q : Item → Bool) (e : Engine) : Engine :=
  let gone := e.items.filter fun i => i.visiting && i.active && q i
  { forAll gone (fun i => dropItemTx i.id) e with
    items := e.items.filter fun i => !(i.visiting && i.active && q i) }

/-- What becomes of the work below a position when this controller stops running it: the partner's entries and descriptors
go back to their home with the journal, its own go to the new runner. -/
def loseItems (pos : LeadPos) (e : Engine) : Engine :=
  let e := dropVisiting (fun i => e.under pos i.jr.dev) e
  let e := forAll (e.items.filter fun i => i.active && !i.visiting && e.under pos i.jr.dev)
    (fun i e => sendItem i.id (dropItemTx i.id e)) e
  let unstarted (d : Staged) : Bool := d.phase != .started && d.phase != .away && e.under pos (dDev d.raw)
  forAll (e.staged.filter unstarted) (fun d e =>
    let e := forgetReads (fun r => r == .soloContext d.id || r == .outSlot d.id || r == .reapImage d.id) (unstage d.id e)
    if d.relayed then e
    else settleFrame d.holding d.frame (relayStaged { d with toRead := [], expect := [], data := [] } e)) e

/-- What becomes of this controller's own relayed work below a position where it has come to run it: items go on from what
is known of them, descriptors are served if their latest start has not passed (R276). -/
def gainItems (pos : LeadPos) (e : Engine) : Engine :=
  let here (d : DevNum) : Bool := e.under pos d && e.runsDev d
  let e := forAll (e.staged.filter fun d => d.phase == .away && here (dDev d.raw)) (fun d e =>
    if e.rowPast d.frame d.row then doneStaged d (lostRelay d e) else restage d.plot d e) e
  let e := forAll (e.items.filter fun i => i.active && !i.visiting && i.phase == .waitData && here i.jr.dev)
    (fun i => sendItem i.id) e
  forAll (e.items.filter fun i => i.active && !i.visiting && i.phase == .relayed && here i.jr.dev)
    (fun i => resumeItem i.id) e

/-! ## TAKE (R269, R270) -/

/-- A mask of ports. -/
def portMask (ps : List PortId) : Dword := ps.foldl (fun m p => m ||| (1#32 <<< p.val)) 0

/-- The takeover's decision has been made (R274). -/
def Takeover.decided (t : Takeover) : Bool :=
  match t with
  | .adopted => true
  | .split => true
  | _ => false

/-- Own relayed work below positions that the lost partner led and that no TAKE has brought, or is to bring, ends (R276,
R278). -/
def settleTaken (e : Engine) : Engine :=
  let open_ (p : PortId) : Bool := e.yoke.takes.any fun t => t.port == p
  let ds := e.staged.filter fun d => d.phase == .away && !open_ d.port && !e.runsDev (dDev d.raw)
  let e := forAll ds (fun d e => doneStaged d (lostRelay d e)) e
  endItems (fun i => i.phase == .relayed && !e.runsDev i.jr.dev
    && (match e.rootOf i.jr.dev with | some p => !open_ p | none => true)) 0x23 e

/-- Put the TAKEs of a position in the port's queue, in the order of the hubs given. -/
def addTakes (hubs : List DevNum) (port : PortId) (subtree senior : Bool) (why : TakeWhy) (e : Engine) : Engine :=
  forAll hubs (fun d e =>
    let (id, e) := newId e
    modYoke (fun y => { y with
      takes := y.takes ++ [{ id, port, hub := d, subtree, senior, attempts := 0, serial := 0, busy := false, why }] }) e) e

/-- The hub at the top of a root port's tree. -/
def Engine.topHub (e : Engine) (p : PortId) : Option DevNum :=
  match e.deviceAt (.root p) with
  | some (k, v) => if v.hub.isSome then some (BitVec.ofNat 20 k) else none
  | none => none

/-- The dual-upstream hubs of a port that this controller does not lead, top tier first (R274). -/
def Engine.lowerDuals (e : Engine) (p : PortId) : List DevNum :=
  (e.duals (.port p)).filter fun d => !e.leadsPos (.hub d)

/-- What a planned handover ends with at the requester (R267): it leads the position and every dual-upstream hub below it,
and reports done. -/
def takeDone (pos : LeadPos) (e : Engine) : Engine :=
  let mine (x : Handover) : Bool := x.pos == pos && x.asking
  let src := (e.yoke.handovers.find? mine).bind (·.src)
  let e := modYoke (fun y => { y with handovers := y.handovers.filter fun x => !mine x }) e
  let e := forAll (e.duals pos) (fun d => setLead (.hub d) true) (setLead pos true e)
  let e := gainItems pos (tellLead (mirror (.lead pos) e))
  match src with
  | none => e
  | some s => finishWaiting (fun r => r.src == s && r.wait == .take pos) 0x80 (e := e)

/-- A TAKE has failed (R270): leadership stays, the counter of failed TAKEs logs it (R400; no kind of R223 does), the command
ends with 0x87 and the STALL flags. -/
def takeFailed (t : Take) (flags : Nat) (e : Engine) : Engine :=
  let e := countPort t.port 7 e
  match t.why with
  | .planned pos =>
    let mine (x : Handover) : Bool := x.pos == pos && x.asking
    let src := (e.yoke.handovers.find? mine).bind (·.src)
    let e := modYoke (fun y => { y with
      handovers := y.handovers.filter fun x => !mine x
      takes := y.takes.filter fun x => x.why != .planned pos }) e
    let e := tellLead (mirror (.withdrawn pos) e)
    match src with
    | none => e
    | some s => finishWaiting (fun r => r.src == s && r.wait == .take pos) 0x87 (dword2 := BitVec.ofNat 32 flags) (e := e)
  | .probe =>
    -- the senior still holds the hub: the junior backs off, and its items there end (R278)
    let pos : LeadPos := .port t.port
    let e := loseLead pos e
    let e := forAll (e.staged.filter fun d => d.port == t.port && d.phase != .started) (fun d e => doneStaged d (lostRelay d e)) e
    endItems (fun i => e.under pos i.jr.dev && !i.visiting) 0x23 e
  | .takeover => if e.yoke.takeover.decided then settleTaken e else e

/-- A TAKE was ACKed (R269). -/
def takeOk (t : Take) (e : Engine) : Engine :=
  let dual := match (e.dev? t.hub).bind (·.hub) with | some u => u.dual | none => false
  let mine := whenE (dual && t.subtree) (setLead (.hub t.hub) true)
  match t.why with
  | .planned pos => if e.yoke.takes.any fun x => x.why == .planned pos then e else takeDone pos e
  | .takeover =>
    let e := mine e
    let e := whenE (t.hub == (e.topHub t.port).getD t.hub) (setLead (.port t.port) true) e
    let e := whenE (t.hub == (e.topHub t.port).getD t.hub && e.yoke.takeover == .adopted)
      (fun e => addTakes (e.lowerDuals t.port) t.port true e.senior .takeover e) e
    if e.yoke.takeover.decided then gainItems (.port t.port) e else e
  | .probe =>
    -- the senior no longer holds it: the junior takes the port (R278)
    addTakes [t.hub] t.port true e.senior .takeover e

/-- A TAKE has ended: ACKed, STALLed with its flags, or with its attempts spent. -/
def takeEnd (id : Nat) (ok : Bool) (flags : Nat) (e : Engine) : Engine :=
  match e.yoke.takes.find? (·.id == id) with
  | none => e
  | some t =>
    let e := modYoke (fun y => { y with takes := y.takes.filter fun x => x.id != id }) e
    if ok then takeOk t e else takeFailed t flags e

/-- An attempt of a TAKE brought no reply: up to 3 more follow, each with a new serial (R270). -/
def takeRetry (id : Nat) (e : Engine) : Engine :=
  match e.yoke.takes.find? (·.id == id) with
  | none => e
  | some t =>
    if 3 ≤ t.attempts then takeEnd id false 0 e
    else modYoke (fun y => { y with
      takes := lmod (·.id == id) (fun x => { x with attempts := x.attempts + 1, busy := false }) y.takes }) e

/-! ## Losing the partner (R274) -/

/-- The survivor's first steps: the tally word of the partner is read, and TAKE goes to the tier-1 hub of every port that
the partner led. Own requests to the partner end without an answer. -/
def startTakeover (e : Engine) : Engine :=
  let theirs := (allFin 32).filter fun p => bitOf e.yoke.yokedPorts p.val && !(e.port p).leads
  let asked := (e.yoke.handovers.filter (·.asking)).filterMap (·.src)
  let e := modYoke (fun y => { y with
    takeover := .firstTally none, taken := portMask theirs, handovers := []
    takes := y.takes.filter fun t => match t.why with | .planned _ => false | _ => true }) e
  let e := forAll asked (fun s e =>
    finishWaiting (fun r => r.src == s && (match r.wait with | .take _ => true | _ => false)) 0x89 (e := e)) e
  let e := hostRead pf e.yoke.partnerTally 8 .tally e
  forAll theirs (fun p e =>
    match e.topHub p with
    | some d => addTakes [d] p true e.senior .takeover e
    | none => setLead (.port p) true e) e

end Sys2Proof.Machine
end

