-- ==== Sys2Proof/Machine/BusOps.lean ====
section
/-! DEFINITION. Transactions of the root ports (02_cammir_bus.md): the packet test controls, tokens and their
sending, the matching of replies (R60), and what each outcome does to an item, a commons-control transfer, a
periodic descriptor or a TAKE (R66 to R68, R108, R144, R145). -/

namespace Sys2Proof.Machine

/-! ## Packet test controls (R403) -/

/-- Count a packet at an every-n-th control, and whether it is hit. -/
def testEvery (k : Nat) (p : PortId) (type : Nat) (e : Engine) : Bool × Engine :=
  let c := e.test.ctls[(finOf 19 k).val]
  let want := fldN c.p1 16 8
  if !c.on || !bitOf c.p2 p.val || (want != 0 && want != type) then (false, e)
  else
    let n := c.seen[p.val] + 1
    let hit := decide (fldN c.p1 0 16 ≤ n)
    (hit, { e with test := { e.test with
      ctls := vmod e.test.ctls (finOf 19 k) fun c => { c with seen := vmod c.seen p fun _ => if hit then 0 else n } } })

/-- Invert bit 0 of the last byte of a packet (R403 controls 13 and 14). -/
def corrupt (bs : List Byte) : List Byte :=
  match bs.getLast? with
  | none => []
  | some b => bs.dropLast ++ [b ^^^ 1]

/-- Send a packet, under controls 11 and 13. -/
def sendPacket (p : PortId) (bs : List Byte) (e : Engine) : Engine :=
  let (drop, e) := testEvery 11 p (leAt 0 1 bs) e
  if drop then countPort p 8 e
  else
    let (bad, e) := testEvery 13 p (leAt 0 1 bs) e
    if bad then emitWire (.packet p (corrupt bs)) (countPort p 9 e) else emitWire (.packet p bs) e

/-- Discard a packet under R41. -/
def discardPacket (p : PortId) (e : Engine) : Engine :=
  countPort p 0 (modRh p (fun r => { r with discards := r.discards + 1 }) e)

/-- Receive a packet of a row's type on a link in LUP: none when the link carries none or R41 discards it. -/
def receivePacket (p : PortId) (type : Nat) (valid : Bool) (bs : List Byte) (e : Engine) : Option Packet × Engine :=
  if !e.live || (e.port p).link.state != .lup || (e.port p).link.scrub then (none, e)
  else
    let (drop, e) := testEvery 12 p (leAt 0 1 bs) e
    if drop then (none, discardPacket p (countPort p 8 e))
    else
      let (bad, e) := testEvery 14 p (leAt 0 1 bs) e
      let e := whenE bad (countPort p 9) e
      match if !valid || bad || leAt 0 1 bs != type then none else parsePacket bs with
      | none => (none, discardPacket p e)
      | some k => (some k, e)

/-! ## ATTN and CHG (R76, R77) -/

/-- A read or clear of the hub's changes is under way. -/
def Engine.asking (e : Engine) (hub : DevNum) : Bool :=
  e.commons.xfers.any fun x => match x.purpose with
    | .portState h _ _ => h == hub
    | .hubStatus h => h == hub
    | .clearChange h _ _ => h == hub
    | _ => false

/-- ATTN of a device: the change is read with GET_STATUS, or, of a hub that has sent no CHG record, with GET_HUB_STATUS
(R50, R77, R88). -/
def sawAttn (dev : DevNum) (e : Engine) : Engine :=
  match e.dev? dev with
  | none => e
  | some v =>
    if v.hub.isSome then
      (if e.asking dev then e else addXferTo dev (setupPacket 0x0107 0 0 true 0 16) [] (.hubStatus dev) e)
    else if e.commons.xfers.any fun x => x.purpose == .devStatus dev then e
    else addXferTo dev (setupPacket 0x0004 0 0 true 0 8) [] (.devStatus dev) e

/-- A CHG record of a hub's port (R52, R77): its state is read, unless that read is already under way. -/
def sawChg (p : PortId) (hub : DevNum) (port : Nat) (e : Engine) : Engine :=
  let known := match e.dev? hub with | some v => v.hub.isSome && v.root == p | none => false
  let under := e.commons.xfers.any fun x => match x.purpose with
    | .portState h q _ => h == hub && q == port && x.result.isNone
    | .clearChange h q _ => h == hub && q == port && x.result.isNone
    | _ => false
  if !known || under then e else readPort hub port false e

/-! ## Requests -/

/-- A transaction as a requester presents it. -/
structure Req where
  owner : TxOwner
  holding : Fn
  kind : TxKind
  dev : DevNum
  ep : EpNum
  route : Dword
  seq : BitVec 16
  listId : Nat := 0
  len : Nat
  data : List Byte := []
  path : Path
  extra : Nat := 1000
  deriving DecidableEq, Repr

/-- Request symbols of a request, with the payload that it sends. -/
def Req.q (r : Req) : Nat := reqSymbols r.kind r.len
/-- Symbols of its largest reply. -/
def Req.p (r : Req) : Nat := repSymbols r.kind r.len
/-- Its span (R58). -/
def Req.span (r : Req) : Nat := spanOf r.path r.q r.p r.extra
/-- Its charge (R117). -/
def Req.charge (r : Req) : Nat := chargeOf ((r.path.head?.map (·.1)).getD 2) r.q r.p
/-- The time it holds the root transmitter (R35, R45). -/
def Req.occ (r : Req) : Nat := txSymbols r.kind r.len * (r.path.head?.map (·.1)).getD 2

/-- OUT payload of an item: for an entry of the partner's the home has sent all of its data (R266). -/
def Item.outData (i : Item) (n : Nat) : List Byte := if i.visiting then slice i.jr.bytes n i.data else i.data.take n

/-- The request of an item that is ready. -/
def Engine.itemReq (e : Engine) (i : Item) : Option Req :=
  (e.dev? i.jr.dev).map fun v =>
    let (k, n) := i.next (e.itemMax i)
    { owner := .item i.id, holding := i.jr.holding, kind := k, dev := i.jr.dev, ep := i.jr.ep, route := v.route
      seq := i.jr.seq, len := n
      data := if k == .setup then wordBytes i.setup else if k == .out then i.outData n else []
      path := e.commons.path i.jr.dev }

/-- The path to the device that a transfer addresses. -/
def Engine.xferPath (e : Engine) (x : Xfer) : Path :=
  if x.dev != 0 && (e.dev? x.dev).isSome then e.commons.path x.dev
  else match x.purpose with
    | .enumStep id =>
      (match e.enum? id with
       | none => []
       | some n =>
         let (rate, rtt) := e.linkAt n.pos
         (match n.pos with | .root _ => [] | .hubPort hub _ => e.commons.path hub) ++ [(rate.tau, rtt)])
    | _ => []

/-- The request of a commons-control transfer. -/
def Engine.xferReq (e : Engine) (x : Xfer) : Req :=
  let (k, n) := x.next
  -- the tag names the owner of a numbered function; hubs and unnumbered devices take 0 (R45, R81)
  let tag := match if x.dev = 0 then none else e.dev? x.dev with
    | some v => if v.hub.isSome then pf else v.owner
    | none => pf
  { owner := .xfer x.id, holding := tag, kind := k, dev := x.dev, ep := 0, route := x.route
    seq := e.xferE x, len := n
    data := if k == .setup then wordBytes x.setup else if k == .out then slice x.got.length n x.out else []
    path := e.xferPath x }

/-- The request of a TAKE. -/
def Engine.takeReq (e : Engine) (t : Take) : Option Req :=
  (e.dev? t.hub).map fun v =>
    { owner := .take t.id, holding := pf, kind := .take, dev := t.hub, ep := 0, route := v.route, seq := 0, len := 0
      path := e.commons.path t.hub }

/-- The request of a staged descriptor that is ready. -/
def Engine.stagedReq (e : Engine) (d : Staged) : Option Req :=
  (e.dev? (dDev d.raw)).map fun v =>
    { owner := .staged d.id, holding := d.holding, kind := dTx d.raw, dev := dDev d.raw
      ep := if dKind d.raw = 1 then 0 else dEp d.raw, route := v.route, seq := d.frame.setWidth 16
      listId := if dKind d.raw = 1 then dList d.raw else 0
      len := if dKind d.raw = 3 then d.data.length else dLen d.raw, data := d.data
      path := e.commons.path (dDev d.raw), extra := if dKind d.raw = 1 then 10 * dDeadline d.raw else 1000 }

/-- Every port on the way to a device, from the device upward, satisfies a condition on its state's code. -/
def Engine.portsTo (e : Engine) (q : Nat → Bool) : Nat → DevNum → Bool
  | 0, _ => false
  | n + 1, d =>
    match e.dev? d with
    | none => true
    | some v =>
      match v.pos with
      | .root p => q (e.port p).rh.state.code
      | .hubPort hub port =>
        (match (e.dev? hub).bind (·.hub) with
         | some u => q (fldN (u.port port).record 0 3)
         | none => false) && Engine.portsTo e q n hub

/-- Some port on the way to a device is SUSPENDED, or RESUMING (R92). -/
def Engine.asleepTo (e : Engine) (d : DevNum) : Bool := !e.portsTo (fun k => k != 4 && k != 6) 7 d

/-- A position, or some port on the way to it, is SUSPENDED or RESUMING (R92). -/
def Engine.asleepAt (e : Engine) (pos : Position) : Bool :=
  match pos with
  | .root p => let k := (e.port p).rh.state.code; k == 4 || k == 6
  | .hubPort hub port =>
    e.asleepTo hub || (match (e.dev? hub).bind (·.hub) with
      | some u => let k := fldN (u.port port).record 0 3; k == 4 || k == 6
      | none => false)

/-- Some port on the way to a device is not ENABLED (R92, R111, R145). -/
def Engine.shutTo (e : Engine) (d : DevNum) : Bool := !e.portsTo (· == 3) 7 d

/-! ## Sending -/

/-- The type byte of a transaction's token (R44). -/
def tokenType : TxKind → Nat
  | .setup => 2
  | .in_ => 3
  | .soloIn => 3
  | .out => 4
  | .soloOut => 4
  | .ping => 5
  | .reap => 6
  | .take => 8

/-- Transactions that take a periodic place (R116); bulk, control, commons control and TAKE take none. -/
def TxKind.periodic : TxKind → Bool
  | .soloIn => true
  | .soloOut => true
  | .reap => true
  | _ => false

/-- The next REAP or TAKE serial that no outstanding transaction of the hub's endpoint 0 carries in its low byte
(R45). -/
def nextSerial (l : List Tx) (hub : DevNum) : Nat → BitVec 16 → BitVec 16
  | 0, s => s
  | n + 1, s =>
    if l.any fun t => t.dev == hub && t.ep == 0 && t.seq.setWidth 8 == (s.setWidth 8 : Byte) then
      nextSerial l hub n (s + 1)
    else s

/-- The places of a port whose sheaf assembly buffer holds a formed sheaf, with the holding of the sheaf (R116, R282). -/
def Engine.buffers (e : Engine) (p : PortId) : List (Fn × Nat) :=
  (allFin 64).flatMap fun h => (e.hold h).rings.flatMap fun r => r.2.queue.filterMap fun x =>
    match x.buf with
    | some b => if b.1 = p then some (h, b.2) else none
    | none => none

/-- The lowest place of a port that is not retired, and in no use that a predicate excludes. -/
def PortArb.lowest (a : PortArb) (taken : Nat → Bool) : Option Nat :=
  (List.range 8).find? fun k => !a.retiredPlaces.getLsbD k && !taken k

/-- The place that a periodic transaction of a holding takes on a port, if the holding has one left (R116): a REAP or
SOLO-IN needs a place whose buffer is free (R24), a SOLO-OUT needs none. Which one is left open: the lowest (DESIGN CHOICE,
log entry 45). -/
def Engine.placeFor (e : Engine) (p : PortId) (h : Fn) (kind : TxKind) : Option Nat :=
  let a := (e.port p).arb
  let mine := a.outstanding.filterMap fun t => if t.holding = h then t.place else none
  let any := a.outstanding.filterMap (·.place)
  let held := (e.buffers p).map (·.2)
  let own := ((e.buffers p).filter (·.1 == h)).map (·.2)
  let limit := (e.hold h).reserve[p.val].p
  let free := a.lowest fun k => any.contains k || held.contains k
  let room := decide ((mine ++ own.filter fun k => !mine.contains k).length < limit)
  if kind == .soloOut then
    if limit ≤ mine.length then none
    else match a.lowest fun k => any.contains k || !own.contains k with
      | some k => some k
      | none => if room then free else none
  else if room then free else none

/-- Send a granted request: the token and its DATA leave, and the transaction is outstanding, in its place (R44, R45, R59,
R60); at least one IDLE set follows the last EOP (R35). -/
def sendReq (p : PortId) (r : Req) (flags : Nat) (half : Bool) (place : Option Nat) (e : Engine) : Engine :=
  let a := (e.port p).arb
  let seq := match r.kind with
    | .reap => nextSerial a.outstanding r.dev 70 a.reapSerial
    | .take => nextSerial a.outstanding r.dev 70 a.takeSerial
    | _ => r.seq
  let fl := match r.kind with
    | .soloIn => 1
    | .soloOut => 1
    | .reap => r.listId
    | _ => flags
  let tok : Token :=
    { type := tokenType r.kind, flags := fl, route := r.route, dev := r.dev, ep := r.ep, tag := r.holding.val, seq,
      len := r.len }
  let (id, e) := newId e
  let h := if half then 2 else 0
  let tx : Tx :=
    { id, kind := r.kind, owner := r.owner, holding := r.holding, dev := r.dev, ep := r.ep, seq, listId := r.listId,
      len := r.len, start := e.now + h, rowEnd := e.now + 62500 - e.t, span := r.span, place }
  let e := sendPacket p tok.bytes e
  let e := match r.kind with
    | .setup => sendPacket p (dataPacket r.dev r.ep seq r.data) e
    | .out => sendPacket p (dataPacket r.dev r.ep seq r.data) e
    | .soloOut => sendPacket p (dataPacket r.dev r.ep seq r.data) e
    | _ => e
  modArb p (fun a => { a with
    outstanding := a.outstanding ++ [tx], txFree := e.t + h + r.occ + 4 * (r.path.head?.map (·.1)).getD 2
    reapSerial := if r.kind == .reap then seq + 1 else a.reapSerial
    takeSerial := if r.kind == .take then seq + 1 else a.takeSerial }) e

/-! ## Matching (R60) -/

/-- The outstanding transaction that a DATA or handshake matches. -/
def PortArb.matches (a : PortArb) (dev : DevNum) (ep : EpNum) (seq : Byte) : Option Tx :=
  a.outstanding.find? fun t => t.dev == dev && t.ep == ep && t.seq.setWidth 8 == seq

/-- The REAP that a SHEAF matches. -/
def PortArb.reapOf (a : PortArb) (hub : DevNum) (ep : EpNum) (listId : Nat) (serial : Byte) : Option Tx :=
  a.outstanding.find? fun t =>
    t.kind == .reap && t.dev == hub && t.ep == ep && t.listId == listId && t.seq.setWidth 8 == serial

/-- How a transaction ended. -/
inductive TxEnd where
  | ack
  | data (payload : List Byte)
  | nak
  | stall (flags : Nat)
  | sheaf (payload : List Byte)
  | babble
  /-- No reply in time. -/
  | timeout
  /-- A reply of a type that R59 does not list. -/
  | unlisted
  deriving DecidableEq, Repr

/-- The status with which a STALL ends a bulk or control item, if it does (R68). -/
def stallStatus (flags : Nat) : Option Byte :=
  if flags.testBit stallNoDev then some 0x12
  else if flags.testBit stallBabl then some 0x13
  else if flags.testBit stallHalt then some 0x10
  else if flags.testBit stallSeq then some 0x14
  else none

/-! ## Items -/

/-- E of an item's endpoint advances (R62), in the item's record and in the cached context. -/
def bumpItem (i : Item) (e : Engine) : Engine :=
  let seq := i.jr.seq + 1
  let e := modItem i.id (fun i => { i with attempts := 0, jr := { i.jr with seq } }) e
  match (e.hold i.jr.holding).ctxIndex i.jr.dev i.jr.ep with
  | none => e
  | some x => setCtx i.jr.holding x (fun c => ctxSetE c seq) e

/-- An item goes on to its next transaction, unless it is to end now (R236, R242). -/
def goOn (id : Nat) (e : Engine) : Engine :=
  match e.item? id with
  | none => e
  | some i =>
    match i.abort with
    | some st => endItem id st e
    | none => turns i.jr.holding i.jr.dev i.jr.ep (armItem id (journalItem i e))

/-- An item's end by its own outcome; a reset or change of owner that awaits it decides in its place. -/
def endBy (i : Item) (status : Byte) (e : Engine) : Engine := endItem i.id (i.abort.getD status) e

/-- The transaction of an item failed (R66): up to 3 retries, none after a reset point. -/
def itemFail (i : Item) (e : Engine) : Engine :=
  if i.resetting then endBy i 0x11 e
  else if 3 ≤ i.attempts then endBy i 0x11 e
  else modItem i.id (fun i => { i with attempts := i.attempts + 1, phase := .ready }) e

/-- The writes of an item's IN data carry the Relaxed Ordering attribute: only those of bulk IN data may (R350). -/
def Item.relaxed (i : Item) : Bool := i.jr.opcode == 1 && Config.relaxedOrdering i.jr.holding

/-- IN data of an item goes to host memory, or to its home (R191, R266). -/
def storeIn (i : Item) (d : List Byte) (e : Engine) : Engine :=
  if i.visiting then
    toPartner (.result (.entryData i.jr.holding (i.jr.sq - relayedSq) i.jr.unit d)) e
  else forAll (spread i.scatter i.jr.bytes d) (fun x => hostWrite i.jr.holding x.1 x.2 i.relaxed) e

/-- The outcome of an item's transaction (R63, R64, R66, R68). -/
def itemEnd (id : Nat) (t : Tx) (out : TxEnd) (e : Engine) : Engine :=
  match e.item? id with
  | none => e
  | some i =>
    if !i.active then e
    else
      let upd (f : Item → Item) : Engine → Engine := modItem id f
      let total := i.jr.length
      let final : Byte := if setupIn i.setup && decide (i.jr.bytes < total) then 1 else 0
      match t.kind, out with
      | .ping, .ack => goOn id (upd (fun i => { i with ping := false, attempts := 0 }) e)
      | .setup, .ack =>
        goOn id (upd (fun i => { i with jr := { i.jr with stage := if total = 0 then .status else .data } })
          (bumpItem i e))
      | .out, .ack =>
        let e := bumpItem i e
        if i.jr.opcode = 3 && i.jr.stage == .status then endBy i final e
        else
          let n := i.jr.bytes + t.len
          let e := upd (fun i => { i with
            data := if i.visiting then i.data else []
            jr := { i.jr with bytes := n, stage := if i.jr.opcode = 3 && decide (total ≤ n) then .status else i.jr.stage } }) e
          if i.jr.opcode = 2 && decide (total ≤ n) then endBy i 0 e else goOn id e
      | .in_, .data d =>
        let e := bumpItem i e
        if i.jr.opcode = 3 && i.jr.stage == .status then endBy i 0 e
        else
          let e := storeIn i d e
          let n := i.jr.bytes + d.length
          let past := decide (total ≤ n) || decide (d.length < t.len)
          let e := upd (fun i => { i with
            jr := { i.jr with bytes := n, stage := if i.jr.opcode = 3 && past then .status else i.jr.stage } }) e
          if i.jr.opcode = 1 && past then endBy i (if total ≤ n then 0 else 1) e else goOn id e
      | _, .nak =>
        match i.abort with
        | some st => endItem id st e
        | none => upd (fun i => { i with phase := .nakWait, ping := i.ping || t.kind == .out }) e
      | _, .stall f => (match stallStatus f with | some st => endBy i st e | none => itemFail i e)
      | _, .babble => endBy i 0x13 e
      | _, _ => itemFail i e

/-! ## Commons-control transfers -/

/-- The command of a port order completes at an event; a STALL by the hub refuses it (R72, R214). -/
def orderEnd (x : Xfer) (hub : DevNum) (port order : Nat) (src : Option AdminSrc) (status : Byte) (e : Engine) :
    Engine :=
  let pos : Position := .hubPort hub port
  let good := status == 0 || status == 1
  let e := dropXfer x.id e
  if !good then
    match src with
    | some s => finishWaiting (fun r => r.src == s) 0x87 (e := e)
    | none => e
  else
    -- the hub has taken the reset: the holdings that use the port are told (R240), and its subtree goes
    let told := order == 3 && (match src with
      | some s => e.fw.running.any fun r => r.src == s && cOp r.cmd == 0x22
      | none => false)
    let e := whenE told (attnPorts (1#32 <<< x.port.val) (BitVec.ofNat 32 hub.toNat) (BitVec.ofNat 32 port)) e
    let e := if order = 3 then resetSubtree pos e else e
    let e := if order = 2 then endOrders (· == pos) (detach pos 0x12 e) else e
    match src with
    | none => e
    | some s =>
      if order = 3 then e
      else addXferTo hub (setupPacket 0x0101 port 2 true 0 16) [] (.portRead hub port s) e

/-- The 16 bytes of a port state record as a word. -/
def recordOf (bs : List Byte) : BitVec 128 := BitVec.ofNat 128 (leNat (bs.take 16))

/-- The record that completes a PORT CONTROL (R93, R214): an ordered resume waits for its RESUME_CHG. -/
def portReadEnd (x : Xfer) (hub : DevNum) (port : Nat) (src : AdminSrc) (status : Byte) (e : Engine) : Engine :=
  let good := (status == 0 || status == 1) && decide (16 ≤ x.got.length)
  let e := dropXfer x.id e
  let r := recordOf x.got
  if !good then finishWaiting (fun y => y.src == src) 0x87 (e := e)
  else
    let e := modHubPort hub port (fun y => { y with record := r }) e
    match e.waiting fun y => y.src == src with
    | none => e
    | some y =>
      let resume := y.wait == .portOrder (.hubPort hub port) false
      if resume && (fldN r 0 3 != 3 || bitOf r 34) then e
      else finishWaiting (fun z => z.src == src) 0x80 (data := x.got.take 16) (e := e)

/-- A LOAD REAP LIST's plant has ended (R154). -/
def plantEnd (x : Xfer) (l : PlantedList) (src : AdminSrc) (status : Byte) (flags : Nat) (e : Engine) : Engine :=
  let e := dropXfer x.id e
  let mine (r : Running) : Bool := r.src == src && r.wait == .plant
  if status == 0 then finishWaiting mine 0x80 (e := recordList l e)
  else if flags != 0 then finishWaiting mine 0x87 (dword2 := BitVec.ofNat 32 flags) (e := e)
  else
    finishWaiting mine 0x87 (dword2 := BitVec.ofNat 32 (256 * status.toNat)) (e := clearXfer l.hub l.listId e)

/-- A transfer ends with a transfer status (R68) and the flags of a STALL: what was waiting for it goes on, or its
result stands until the row that acts on it. -/
def xferEnd (x : Xfer) (status : Byte) (flags : Nat) (e : Engine) : Engine :=
  let stand := modXfer x.id fun y => { y with result := some (status, BitVec.ofNat 8 flags), busy := false }
  match x.purpose with
  | .enumStep id => if (e.enum? id).isSome then stand e else dropXfer x.id e
  | .portState _ _ _ => stand e
  | .hubStatus _ => stand e
  | .devStatus _ => dropXfer x.id e
  | .epTable dev => dropXfer x.id (tableRead x dev (status == 0 || status == 1) e)
  | .clearChange _ _ _ => stand e
  | .replant _ _ => stand e
  | .portOrder hub port order src => orderEnd x hub port order src status e
  | .portRead hub port src => portReadEnd x hub port src status e
  | .plant l (some src) => plantEnd x l src status flags e
  | .plant l none =>
    let e := dropXfer x.id e
    if l.group.isSome then groupPlant l (status == 0) status e
    else if status == 0 then clearXfer l.hub l.listId e
    else e
  | .clearList _ _ _ => dropXfer x.id e

/-- A failed attempt of a transfer's transaction (R66). -/
def xferFail (x : Xfer) (e : Engine) : Engine :=
  if 3 ≤ x.attempts then xferEnd x 0x11 0 e
  else modXfer x.id (fun x => { x with attempts := x.attempts + 1, busy := false }) e

/-- The outcome of a transfer's transaction (R63, R64, R66, R68). -/
def xferStep (id : Nat) (t : Tx) (out : TxEnd) (e : Engine) : Engine :=
  match e.xfer? id with
  | none => e
  | some x =>
    if x.result.isSome then e
    else
      let total := setupLen x.setup
      let next (f : Xfer → Xfer) : Engine → Engine :=
        modXfer id fun x => f { x with busy := false, attempts := 0 }
      let final : Byte := if setupIn x.setup && decide (x.got.length < total) then 1 else 0
      match t.kind, out with
      | .ping, .ack => next (fun x => { x with ping := false }) e
      | .setup, .ack => next (fun x => { x with stage := if total = 0 then .status else .data }) (bumpE x e)
      | .out, .ack =>
        let e := bumpE x e
        if x.stage == .status then xferEnd x final 0 e
        else
          let got := x.got ++ slice x.got.length t.len x.out
          next (fun x => { x with got, stage := if total ≤ got.length then .status else .data }) e
      | .in_, .data d =>
        let e := bumpE x e
        if x.stage == .status then xferEnd x 0 0 e
        else
          let got := x.got ++ d
          next (fun x => { x with
            got, stage := if decide (total ≤ got.length) || decide (d.length < t.len) then .status else .data }) e
      | _, .nak => modXfer id (fun x => { x with busy := false, nakWait := true, ping := x.ping || t.kind == .out }) e
      | _, .stall f => (match stallStatus f with | some st => xferEnd x st f e | none => xferFail x e)
      | _, .babble => xferEnd x 0x13 0 e
      | _, _ => xferFail x e

/-! ## Periodic results -/

/-- The parsed records of a SHEAF payload: device, endpoint, status, payload (R51); none when they do not end with
it. -/
def parseRecords : Nat → List Byte → Option (List (DevNum × EpNum × Nat × List Byte))
  | 0, l => if l.isEmpty then some [] else none
  | n + 1, l =>
    if l.isEmpty then some []
    else
      let w := leAt 0 4 l
      let len := leAt 4 2 l % 2048
      let whole := 8 + roundUp len 8
      if l.length < whole then none
      else (parseRecords n (l.drop whole)).map fun rest =>
        (BitVec.ofNat 20 w, BitVec.ofNat 4 (w / 2 ^ 20), w / 2 ^ 24 % 16, slice 8 len l) :: rest

/-- Walk the records of a SHEAF against the expected list (R144): the expected records left over, if each record
fits its place. -/
def checkRecords : List Expect → List (DevNum × EpNum × Nat × List Byte) → Option (List Expect)
  | left, [] => some left
  | [], _ :: _ => none
  | y :: ys, (dev, ep, st, d) :: rest =>
    if decide (4 < st) || ((st == 1 || st == 2 || st == 3) && !d.isEmpty) || decide (1024 < d.length) then none
    else if dev == y.dev && ep == y.ep && decide (d.length ≤ y.limit) then checkRecords ys rest
    else if ep == 0 && (st == 2 || st == 3) then
      match y.heads.find? fun x => x.1 == dev with
      | some x => checkRecords ((y :: ys).drop x.2) rest
      | none => none
    else none

/-- The records that a passing SHEAF gives in host memory, their number, and whether it was filled in (R144 to
R146); and how many were foreign. -/
def Engine.sheafRecords (e : Engine) (d : Staged) (payload : List Byte) : Option (List Byte × Nat × Bool × Nat) :=
  match parseRecords 2049 payload with
  | none => none
  | some rs =>
    match checkRecords d.expect rs with
    | none => none
    | some left =>
      -- ended under R141: its last record stands for one that could pass the REAP's length, or no header fits any more
      let limit := match d.expect[d.expect.length - left.length - 1]? with | some y => y.limit | none => 0
      let cut := match rs.getLast? with
        | some (_, _, st, x) =>
          (st == 4 && x.isEmpty && decide (dLen d.raw < payload.length - 8 + leafBound limit))
            || decide (dLen d.raw < payload.length + 8)
        | none => false
      if rs.isEmpty || (!left.isEmpty && !cut) then none
      else
        let foreign (dev : DevNum) : Bool :=
          match e.dev? dev with | some v => v.hub.isNone && v.owner != d.holding | none => false
        let own := rs.flatMap fun (dev, ep, st, x) =>
          if foreign dev then recordBytes dev ep 2 d.frame [] else recordBytes dev ep st d.frame x
        let fill := left.flatMap fun y => recordBytes y.dev y.ep 4 d.frame []
        some (own ++ fill, rs.length + left.length, !left.isEmpty, (rs.filter fun r => foreign r.1).length)

/-- STALL with NOLIST on a list that the hub table records (R145): it is replanted, or the PF is told. -/
def noList (d : Staged) (e : Engine) : Engine :=
  match e.commons.list? (dDev d.raw) (dList d.raw) with
  | none => e
  | some l =>
    if l.holding != d.holding then e
    else if e.commons.pfDriven then replantFailed l.hub l.listId e
    else if e.commons.xfers.any fun x => x.purpose == .replant l.hub l.listId then e
    else replant l e

/-- The cause of a STALL to a REAP, by the first of NODEV, TAG, NOLIST and BABL (R145). -/
def reapCause (flags : Nat) : Nat :=
  if flags.testBit stallNoDev then 7 else if flags.testBit stallTag then 1
  else if flags.testBit stallNoList then 2 else if flags.testBit stallBabl then 3 else 5

/-- Tell the partner of a periodic record (R260, R261). -/
def journalPeriodic (d : Staged) (serial : BitVec 16) (replied : Bool) : Engine → Engine :=
  whenE (!d.relayed) <| journal (.periodic
    { holding := d.holding, ring := dRing d.raw, listId := if dKind d.raw = 1 then dList d.raw else 0, dev := dDev d.raw,
      ep := if dKind d.raw = 1 then 0 else dEp d.raw, row := d.row, kind := dKind d.raw, frame := d.frame.setWidth 32,
      serial := if dKind d.raw = 1 then serial else 0, replied })

/-- A reply that comes after its holding's reset point is dropped and counted (R242); after PE_PERST_N the ring's lost
count shows it (R367). -/
def dropReply (d : Staged) (e : Engine) : Engine :=
  let e := countFor d false 6 e
  if !(e.fn d.holding).perstHold || d.relayed || dKind d.raw = 3 then e
  else modRing d.holding d.ring (fun r => { r with sequence := r.sequence + 1, lost := r.lost + 1 }) e

/-- The outcome of a periodic transaction (R108, R127, R145). -/
def stagedEnd (id : Nat) (t : Tx) (out : TxEnd) (e : Engine) : Engine :=
  match e.staged? id with
  | none => e
  | some d =>
    let reply := match out with | .timeout => false | _ => true
    let e := whenE reply (journalPeriodic d t.seq true) e
    if d.dropped && reply then doneStaged d (dropReply d e)
    else
    let e := whenE (reply && decide (t.rowEnd < e.now)) (countFor d false 1) e
    let late := reply && decide (t.start + t.span < e.now)
    let solo (st : Nat) (x : List Byte) : Engine → Engine := fun e =>
      deliver d { d.sheaf e.clk.etc with late, records := recordBytes (dDev d.raw) (dEp d.raw) st d.frame x } 0 e
    let serial := t.seq.toNat
    let e := match dKind d.raw, out with
      | 2, .data x => solo 0 x e
      | 2, .nak => solo 1 [] e
      | 2, _ => solo 3 [] e
      | 3, .ack => outResult d false 2 e
      | 3, .nak => outResult d false 3 e
      | 3, _ => outResult d false 4 e
      | _, .sheaf x =>
        (match e.sheafRecords d x with
         | some (records, n, short, foreign) =>
           let e := forAll (List.range foreign) (fun _ => countFor d true 4) e
           deliver d { d.sheaf e.clk.etc with late, short, serial, count := n, records } 0 e
         | none => failReap d 3 5 serial e)
      | _, .stall f =>
        let c := reapCause f
        let e := failReap d (if c = 7 then 2 else 3) c serial e
        if c = 2 then noList d e else e
      | _, .babble => failReap d 3 3 serial e
      | _, .timeout => failReap d 3 4 serial e
      | _, _ => failReap d 3 5 serial e
    doneStaged d e

/-! ## The end of a transaction -/

/-- End an outstanding transaction (R60): it leaves the port, and its requester goes on. -/
def endTx (p : PortId) (t : Tx) (out : TxEnd) (e : Engine) : Engine :=
  let e := dropTx p (fun x => x.id == t.id) e
  match t.owner with
  | .item id => itemEnd id t out e
  | .xfer id => xferStep id t out e
  | .staged id => stagedEnd id t out e
  | .take id =>
    match out with
    | .ack => takeEnd id true 0 e
    | .stall f => takeEnd id false f e
    | .timeout => takeRetry id e
    | _ => takeRetry id e

/-- Whether R59 lists a reply for a kind of transaction. A STALL to a SETUP counts as listed whatever flags it carries, and
R68 decides it, though R59 names only NODEV and BABL there (DESIGN CHOICE, log entry 45). -/
def listed (k : TxKind) (out : TxEnd) : Bool :=
  match k, out with
  | .setup, .ack | .setup, .stall _ => true
  | .in_, .data _ | .in_, .nak | .in_, .stall _ => true
  | .out, .ack | .out, .nak | .out, .stall _ => true
  | .ping, .ack | .ping, .nak | .ping, .stall _ => true
  | .soloIn, .data _ | .soloIn, .nak | .soloIn, .stall _ => true
  | .soloOut, .ack | .soloOut, .nak | .soloOut, .stall _ => true
  | .reap, .sheaf _ | .reap, .stall _ => true
  | .take, .ack | .take, .stall _ => true
  | _, _ => false

/-- A matched reply: an unlisted type (R60), babble (R67), or what it says. One that is both, such as DATA of over 1,024
bytes to an OUT, is taken as unlisted, which is retried (DESIGN CHOICE, log entry 45). -/
def reply_ (p : PortId) (t : Tx) (out : TxEnd) (e : Engine) : Engine :=
  let long := match out with
    | .data x => decide (t.len < x.length) || decide (1024 < x.length)
    | .sheaf x => decide (t.len < x.length) || decide (16384 < x.length)
    | _ => false
  if !listed t.kind out then endTx p t .unlisted e
  else if long then endTx p t .babble e
  else endTx p t out e

/-- A DATA or handshake has arrived: its match goes on, or it is an orphan (R60). -/
def handleReply (p : PortId) (dev : DevNum) (ep : EpNum) (seq : Byte) (attn : Bool) (out : TxEnd) (e : Engine) : Engine :=
  let e := whenE attn (sawAttn dev) e
  match (e.port p).arb.matches dev ep seq with
  | none => countPort p 1 e
  | some t => reply_ p t out e

end Sys2Proof.Machine
end

