-- ==== Sys2Proof/Machine/Bus.lean ====
section
/-! DEFINITION. The commands of the Cammir bus: the port arbiter (R122 to R125), replies (R59, R60), timeouts (R65,
R143), re-offers (R64) and descriptors that were not started (R126). -/

namespace Sys2Proof.Machine

/-! ## Regions (R121, R122) -/

/-- Staged descriptors of a holding's region in the present row. -/
def Engine.inRow (e : Engine) (p : PortId) (h : Fn) : List Staged :=
  e.staged.filter fun d => d.port == p && d.holding == h && d.frame == e.clk.frame && d.row == e.clk.row
    && d.phase != .away

/-- Those that have not started. -/
def Engine.unstarted (e : Engine) (p : PortId) (h : Fn) : List Staged := (e.inRow p h).filter (·.phase != .started)

/-- Close the regions of a port that are due at `t`: early with the unused part credited (R121), or at their end with
what has not started an overrun (R126). -/
def closeRegions (p : PortId) (t : Nat) (e : Engine) : Engine :=
  forAll e.created (fun h e =>
    let a := (e.port p).arb
    let r := (e.hold h).reserve[p.val]
    let close : Engine → Engine := modArb p fun a => { a with closed := vmod a.closed h fun _ => true }
    if a.closed[h.val] || decide (t < 10 * r.s) then e
    else if (e.unstarted p h).isEmpty then
      modArb p (fun a => { a with credit := vmod a.credit h fun c => c + r.c - a.used[h.val] }) (close e)
    else if 10 * (r.s + r.c) ≤ t then close (forAll (e.unstarted p h) (fun d e => doneStaged d (overrun d e)) e)
    else e) e

/-- The holding whose region is open at `t`. -/
def Engine.openRegion (e : Engine) (p : PortId) (t : Nat) : Option Fn :=
  e.created.find? fun h =>
    let r := (e.hold h).reserve[p.val]
    !(e.port p).arb.closed[h.val] && decide (10 * r.s ≤ t) && decide (t < 10 * (r.s + r.c))

/-- The start of the next region that is not yet closed. -/
def Engine.nextRegion (e : Engine) (p : PortId) (t : Nat) : Nat :=
  (e.created.filterMap fun h =>
    let s := 10 * (e.hold h).reserve[p.val].s
    if !(e.port p).arb.closed[h.val] && decide (t < s) then some s else none).foldl min 62500

/-! ## Eligibility -/

/-- No outstanding transaction stands in the way of a request: one for each device and endpoint, one REAP for each hub
and list, and no equal sequence byte toward a hub's endpoint 0 (R45, R60). -/
def PortArb.free (a : PortArb) (r : Req) : Bool :=
  !(a.outstanding.any fun t =>
    if r.kind == .reap then t.kind == .reap && t.dev == r.dev && t.listId == r.listId
    else (t.kind != .reap && t.kind != .take && r.kind != .take && t.dev == r.dev && t.ep == r.ep)
      || (r.kind == .take && t.kind == .take && t.dev == r.dev)
      || ((t.kind == .reap || t.kind == .take) && r.kind != .take && r.ep == 0 && t.dev == r.dev
          && (t.seq.setWidth 8 : Byte) == r.seq.setWidth 8))

/-- A request of a class without places may start at `t` (R58, R60, R116, R122). -/
def Engine.fitsRow (e : Engine) (p : PortId) (t limit : Nat) (r : Req) : Bool :=
  let a := (e.port p).arb
  decide (t + r.span ≤ 62500) && decide (t + r.occ ≤ limit) && a.free r
    && decide ((a.outstanding.filter (·.place.isNone)).length < 56) && decide (a.outstanding.length < 64)

/-- A plot issues requests: it is neither isolated nor stalled (R19, R403 control 16). -/
def Engine.plotRuns (e : Engine) (n : Nat) : Bool :=
  !(e.plot (finOf 272 n)).isolated && !(e.plot (finOf 272 n)).stalled

/-- An item presents a request on a port (R64, R92, R267). -/
def Engine.presents (e : Engine) (p : PortId) (i : Item) : Bool :=
  i.active && (i.visiting || e.plotRuns i.plot) && i.phase == .ready && e.rootOf i.jr.dev == some p && e.runsDev i.jr.dev && !e.draining i.jr.dev
    && !e.asleepTo i.jr.dev
    -- a control transfer of the commons on the same endpoint 0 ends first (R63)
    && !(i.jr.ep == 0 && i.jr.stage == .setup
      && e.commons.xfers.any fun x => x.dev == i.jr.dev && x.result.isNone && x.stage != .setup)

/-- The position of the device that a transfer to an unnumbered device addresses. -/
def Engine.xferPos (e : Engine) (x : Xfer) : Option Position :=
  match x.purpose with
  | .enumStep id => (e.enum? id).map (·.pos)
  | _ => none

/-- A transfer may go out: this controller runs the device or position, which neither drains nor sleeps (R92, R267), and
no control entry of its endpoint 0 is under way (R63). -/
def Engine.xferMay (e : Engine) (p : PortId) (x : Xfer) : Bool :=
  if x.dev != 0 then
    e.runsDev x.dev && !e.draining x.dev && !e.asleepTo x.dev
      && !e.items.any fun i => i.active && i.jr.dev == x.dev && i.jr.ep == 0 && i.jr.stage != .setup
  else
    let lead := !(e.yoke.yoked && bitOf e.yoke.yokedPorts p.val) || (e.port p).leads
    match e.xferPos x with
    | some (.hubPort hub k) => e.runsDev hub && !e.draining hub && !e.asleepAt (.hubPort hub k)
    | some (.root q) => lead && !e.asleepAt (.root q)
    | none => lead

/-- The transfers that present a request on a port: for each device the oldest. -/
def Engine.xfersOn (e : Engine) (p : PortId) : List Xfer :=
  let mine := e.commons.xfers.filter fun x => x.port == p && x.result.isNone
  let first (x : Xfer) : Bool := match mine.find? fun y => y.dev == x.dev && y.route == x.route with
    | some y => y.id == x.id
    | none => false
  mine.filter fun x => !x.busy && !x.nakWait && first x && e.xferMay p x

/-- The TAKE that presents a request on a port: the oldest, one at a time (R267). -/
def Engine.takeOn (e : Engine) (p : PortId) : Option Take :=
  match e.yoke.takes.find? fun t => t.port == p with
  | some t => if t.busy then none else some t
  | none => none

/-- Order of the ready descriptors of a row: earliest latest start, that is longest span; ties as R118 gives. -/
def rankKey (d : Staged) : Nat :=
  10000 * (1000000000 - d.span) + (if 4096 ≤ d.listIndex then d.listIndex - 4096 else d.listIndex + 4096)

/-- An active item of a SOLO descriptor's endpoint runs on in another plot: the descriptor waits for its end (R17, R233). -/
def Engine.runsElsewhere (e : Engine) (d : Staged) : Bool :=
  dKind d.raw != 1 && e.items.any fun i =>
    i.active && !i.visiting && i.begun && i.jr.holding == d.holding && i.jr.dev == dDev d.raw && i.jr.ep == dEp d.raw
      && i.plot != d.plot

/-- A staged descriptor is ready for the arbiter (R116): a place is left for it, and nothing that is outstanding stands in
its way (R60). One whose device is no longer bound is, since it has its result at the grant (R85, R145). -/
def Engine.readyNow (e : Engine) (p : PortId) (d : Staged) : Bool :=
  d.phase == .ready && (d.relayed || e.plotRuns d.plot) && (e.placeFor p d.holding (dTx d.raw)).isSome
    && !e.runsElsewhere d
    && match e.stagedReq d with
      | none => true
      | some r => (e.port p).arb.free r && decide ((e.port p).arb.outstanding.length < 64)
          && e.runsDev (dDev d.raw) && !e.draining (dDev d.raw)

/-- The periodic descriptor that rank 1 takes for a token at `t` (R116, R122). -/
def Engine.rank1 (e : Engine) (p : PortId) (h : Fn) (t : Nat) : Option Staged :=
  minBy rankKey ((e.inRow p h).filter fun d => decide (t + d.span ≤ 62500) && e.readyNow p d)

/-- Holdings in round-robin order from the one after the last granted (R122). -/
def roundRobin (last : Fn) : List Fn := (List.range 64).map fun k => finOf 64 (last.val + 1 + k)

/-- The item that a rank takes: of the first holding in its order that has one (R120, R122, R125). -/
def Engine.rankItem (e : Engine) (p : PortId) (t limit : Nat) (last : Fn) (ok : Fn → Bool) : Option (Item × Req) :=
  (roundRobin last).findSome? fun h =>
    if (e.hold h).created && decide (0 < (e.hold h).reserve[p.val].w) && ok h then
      e.items.findSome? fun i =>
        if i.jr.holding == h && e.presents p i then
          (e.itemReq i).bind fun r => if e.fitsRow p t limit r then some (i, r) else none
        else none
    else none

/-! ## Results without a token -/

/-- The result of a descriptor whose device cannot be reached at the grant (R83, R85, R92, R111, R145). -/
def absent (d : Staged) (cause : Nat) (e : Engine) : Engine :=
  let e := match dKind d.raw with
    | 1 => failReap d 2 cause 0 e
    | 2 => deliver d { d.sheaf e.clk.etc with records := d.single 2 } 0 e
    | _ => outResult d false 4 e
  doneStaged d e

/-- The device of a descriptor cannot be reached: not bound, not configured, or below a port that is not ENABLED. -/
def Engine.unreachable (e : Engine) (d : Staged) : Bool :=
  match e.dev? (dDev d.raw) with
  | none => true
  | some v => !v.present || !v.configured || e.shutTo (dDev d.raw)

/-! ## Arbiter counters (R124, R396) -/

/-- A request has waited one more cycle. -/
def ArbSet.waited (a : ArbSet) : ArbSet :=
  let n := a.current + 1
  { a with wait := if a.wait = BitVec.allOnes 48 then a.wait else a.wait + 1, current := n
           longest := if a.longest.toNat < n then BitVec.ofNat 32 (min n 0xFFFFFFFF) else a.longest }

/-- A grant whose token has left. -/
def ArbSet.granted (a : ArbSet) : ArbSet :=
  { a with grants := if a.grants = BitVec.allOnes 48 then a.grants else a.grants + 1, current := 0 }

/-- The arbiter set of a requester on a port: a holding's periodic or bulk class, or the commons. -/
def modArbSet (p : PortId) (who : Option (Fn × Bool)) (f : ArbSet → ArbSet) : Engine → Engine :=
  match who with
  | none => modArb p fun a => { a with commons := f a.commons }
  | some (h, periodic) => modFn h fun x => { x with counters :=
      if periodic then { x.counters with arbP := vmod x.counters.arbP p f }
      else { x.counters with arbB := vmod x.counters.arbB p f } }

/-- The requester of a grant: a holding's periodic or bulk class, or the commons; none when it has gone. -/
def Engine.requester (e : Engine) : TxOwner → Option (Option (Fn × Bool))
  | .item id => (e.item? id).map fun i => some (i.jr.holding, false)
  | .staged id => (e.staged? id).map fun d => some (d.holding, true)
  | .xfer _ => some none
  | .take _ => some none

/-- Wait cycles of every requester that presents a request and was not granted in this cycle; the wait of one that was
granted ends when its token leaves. -/
def countWaits (p : PortId) (e : Engine) : Engine :=
  let got := (e.port p).arb.grant.bind e.requester
  let step (who : Option (Fn × Bool)) (on : Bool) (e : Engine) : Engine :=
    if got == some who then e
    else modArbSet p who (if on then ArbSet.waited else fun a => { a with current := 0 }) e
  let e := step none (!(e.xfersOn p).isEmpty || (e.takeOn p).isSome) e
  forAll e.created (fun h e =>
    let e := step (some (h, true)) ((e.inRow p h).any (e.readyNow p)) e
    step (some (h, false)) (e.items.any fun i => i.jr.holding == h && e.presents p i) e) e

/-- A grant is void (R124): it is neither charged nor counted, and the requester's wait runs on through its cycle. -/
def voidGrant (p : PortId) (e : Engine) : Engine :=
  let who := (e.port p).arb.grant.bind e.requester
  let e := modArb p (fun a => { a with grant := none }) e
  match who with
  | some w => modArbSet p w ArbSet.waited e
  | none => e

/-! ## The decision -/

/-- The token of the last cycle's grant leaves (R122, R123); a grant whose requester is gone is void (R124). -/
def sendGrant (p : PortId) (half : Bool) (e : Engine) : Engine :=
  let a := (e.port p).arb
  let void := voidGrant p e
  let gone : Engine → Engine := modArb p fun a => { a with grant := none }
  match a.grant with
  | none => e
  | some o =>
    if (e.port p).link.state != .lup then void
    else
      match o with
      | .item id =>
        match e.item? id with
        | none => void
        | some i =>
          -- an item that is to end has sent its last token, unless that one's attempts go on (R66, R236)
          if !e.presents p i || (i.abort.isSome && i.attempts = 0) then void
          else match e.itemReq i with
          | none => void
          | some r =>
            let e := modArb p (fun a => { a with
              credit := if a.grantRank = 2 then vmod a.credit i.jr.holding fun c => c - r.charge else a.credit
              rr := if a.grantRank = 2 then i.jr.holding else a.rr }) (gone e)
            let e := modItem id (fun i => { i with phase := .outstanding, sent := true }) e
            modArbSet p (some (i.jr.holding, false)) ArbSet.granted
              (sendReq p r 0 half none (journalItem { i with phase := .outstanding } e))
      | .xfer id =>
        match e.xfer? id with
        | none => void
        | some x =>
          if x.busy || x.result.isSome || !e.xferMay p x then void
          else modArbSet p none ArbSet.granted
            (sendReq p (e.xferReq x) 0 half none (modXfer id (fun x => { x with busy := true }) (gone e)))
      | .staged id =>
        match e.staged? id with
        | none => void
        | some d =>
          if !e.readyNow p d then void
          else match e.stagedReq d with
          | none => void
          | some r =>
            let place := e.placeFor p d.holding r.kind
            let e := modArb p (fun a => { a with used := vmod a.used d.holding fun u => u + d.charge }) (gone e)
            let buf := if r.kind == .soloOut then none else place.map fun k => (p, k)
            let e := modStaged id (fun d => { d with phase := .started, buf }) e
            let e := sendReq p r 0 half place e
            -- the span of R117 is that of the descriptor's own length
            let e := modArb p (fun a => { a with
              outstanding := lmod (fun t => t.owner == .staged id) (fun t => { t with span := d.span }) a.outstanding }) e
            let serial := match (e.port p).arb.outstanding.find? fun t => t.owner == .staged id with
              | some t => t.seq
              | none => 0
            modArbSet p (some (d.holding, true)) ArbSet.granted (journalPeriodic d serial false e)
      | .take id =>
        match e.yoke.takes.find? (·.id == id) with
        | none => void
        | some t =>
          match e.takeReq t with
          | none => takeEnd id false 0 (gone e)
          | some r =>
            modArbSet p none ArbSet.granted
              (sendReq p r (b2n t.subtree + 2 * b2n t.senior) half none (modYoke (fun y => { y with
                takes := lmod (·.id == id) (fun x => { x with busy := true }) y.takes }) (gone e)))

/-- Note a grant for the next cycle. -/
def grantTo (p : PortId) (o : TxOwner) (rank : Nat) : Engine → Engine :=
  modArb p fun a => { a with grant := some o, grantRank := rank }

/-- The holding isolation unit lets a plot's request pass (R15): the plot's holding number is that of the request, its
endpoint lies in a slice that the plot serves, or has served and drains (R17), and its port mask has the port. -/
def Engine.passes (e : Engine) (p : PortId) (plot : Nat) (h : Fn) (ctx : Nat) : Bool :=
  let q := e.plot (finOf 272 plot)
  q.holding == h && bitOf q.ports p.val
    && ((q.base, q.count) :: q.former).any fun s => decide (s.1 ≤ ctx) && decide (ctx < s.1 + s.2)

/-- The isolation unit lets an item pass. -/
def Engine.passesItem (e : Engine) (p : PortId) (i : Item) : Bool :=
  i.visiting || (match (e.hold i.jr.holding).ctxIndex i.jr.dev i.jr.ep with
    | some x => e.passes p i.plot i.jr.holding x
    | none => false)

/-- Grant an item, unless the holding isolation unit refuses it (R15) or its port is not ENABLED. -/
def grantItem (p : PortId) (i : Item) (off : Bool) (rank : Nat) (e : Engine) : Engine :=
  if !e.passesItem p i then isolationReject (finOf 272 i.plot) e
  else if off then endItem i.id 0x12 e
  else grantTo p (.item i.id) rank e

/-- Make this cycle's grant for a token whose SOP leaves at `t`, by the ranks of R122 (log entry 29). At a root port that
is suspended the cause of a REAP's failure is 6, the port not being in LUP, and not 7 (DESIGN CHOICE, log entry 45). -/
def decideGrant (p : PortId) (t : Nat) (e : Engine) : Engine :=
  let pt := e.port p
  if t < 2000 || 62000 ≤ t || t < pt.arb.txFree then e
  else
    match e.openRegion p t with
    | some h =>
      match e.rank1 p h t with
      | none => e
      | some d =>
        if !d.relayed && !e.passes p d.plot d.holding (dCtx d.raw) then isolationReject (finOf 272 d.plot) e
        else if pt.link.state != .lup then absent d 6 e
        else if pt.link.scrub || pt.link.suspendWait then e
        else if e.unreachable d then absent d 7 e
        else grantTo p (.staged d.id) 1 e
    | none =>
      let limit := e.nextRegion p t
      let off := pt.rh.state != .enabled
      if pt.link.state != .lup || pt.link.scrub || pt.link.suspendWait then e
      else
        match e.rankItem p t limit pt.arb.rr (fun h => decide (0 < pt.arb.credit[h.val])) with
        | some (i, _) => grantItem p i off 2 e
        | none =>
          let take := (e.takeOn p).filter fun k => match e.takeReq k with
            | some r => e.fitsRow p t limit r
            | none => true
          match take with
          | some k => if (e.takeReq k).isSome then grantTo p (.take k.id) 3 e else takeEnd k.id false 0 e
          | none =>
            match (e.xfersOn p).find? fun x => e.fitsRow p t limit (e.xferReq x) with
            | some x => if off then xferEnd x 0x12 0 e else grantTo p (.xfer x.id) 3 e
            | none =>
              if e.pwr.throttled then e
              else
                match e.rankItem p t limit pt.arb.rr (fun h => bitOf (e.hold h).glean p.val) with
                | some (i, _) => grantItem p i off 4 e
                | none => e

/-- ARBITER_DECISION (R122): the token of the last grant leaves, regions close, and a grant is made for the next
cycle, 2 ns later; `half` says that it is the second LCLK cycle of the BCLK tick. -/
def execArbiterDecision (p : PortId) (half : Bool) (s : State) : Answer :=
  onEng s fun e =>
    if !e.live || !e.clk.timerOn || !e.clk.started then e
    else
      let t := e.t + (if half then 2 else 0) + 2
      treeWork (fun e => countWaits p (decideGrant p t (closeRegions p t (sendGrant p half e)))) e

/-- GRANT_WITHDRAW (R124): the grant of the last cycle is void. -/
def execGrantWithdraw (p : PortId) (s : State) : Answer := onEng s (voidGrant p)

/-- LATEST_START_PASSED (R126): a staged descriptor whose latest start or region has passed unstarted is an
overrun. -/
def execLatestStartPassed (id : Nat) (s : State) : Answer :=
  onEng s fun e =>
    match e.staged? id with
    | none => e
    | some d =>
      let r := (e.hold d.holding).reserve[d.port.val]
      let now := d.frame == e.clk.frame && d.row == e.clk.row && e.clk.started
      let past := e.rowPast d.frame d.row && !now
      if d.phase == .started || d.phase == .away then e
      else if past || (now && (decide (62500 < e.t + d.span) || decide (10 * (r.s + r.c) ≤ e.t))) then
        doneStaged d (overrun d e)
      else e

/-! ## Replies and timeouts -/

/-- RECEIVE_DATA (R41, R60, R67, R68). -/
def execReceiveData (p : PortId) (valid : Bool) (bytes : List Byte) (s : State) : Answer :=
  onEng s <| treeWork fun e =>
    match receivePacket p 0x10 valid bytes e with
    | (some (.data dev ep seq attn x), e) => handleReply p dev ep seq attn (.data x) e
    | (_, e) => e

/-- RECEIVE_ACK (R59, R60): DUP changes nothing at the controller. -/
def execReceiveAck (p : PortId) (valid : Bool) (bytes : List Byte) (s : State) : Answer :=
  onEng s <| treeWork fun e =>
    match receivePacket p 0x20 valid bytes e with
    | (some (.ack dev ep seq attn _), e) => handleReply p dev ep seq attn .ack e
    | (_, e) => e

/-- RECEIVE_NAK (R64). -/
def execReceiveNak (p : PortId) (valid : Bool) (bytes : List Byte) (s : State) : Answer :=
  onEng s <| treeWork fun e =>
    match receivePacket p 0x21 valid bytes e with
    | (some (.nak dev ep seq attn), e) => handleReply p dev ep seq attn .nak e
    | (_, e) => e

/-- RECEIVE_STALL (R53, R68, R145, R270). -/
def execReceiveStall (p : PortId) (valid : Bool) (bytes : List Byte) (s : State) : Answer :=
  onEng s <| treeWork fun e =>
    match receivePacket p 0x22 valid bytes e with
    | (some (.stall dev ep seq attn flags), e) => handleReply p dev ep seq attn (.stall flags.toNat) e
    | (_, e) => e

/-- RECEIVE_SHEAF (R60, R144, R145). -/
def execReceiveSheaf (p : PortId) (valid : Bool) (bytes : List Byte) (s : State) : Answer :=
  onEng s <| treeWork fun e =>
    match receivePacket p 0x11 valid bytes e with
    | (some (.sheaf listId hub ep serial attn x), e) =>
      let e := whenE attn (sawAttn hub) e
      match (e.port p).arb.reapOf hub ep listId serial with
      | none => countPort p 1 e
      | some t => reply_ p t (.sheaf x) e
    | (_, e) => e

/-- TRANSACTION_TIMEOUT (R65, R66). -/
def execTransactionTimeout (p : PortId) (tx : Nat) (s : State) : Answer :=
  onEng s <| treeWork fun e =>
    match (e.port p).arb.outstanding.find? (·.id == tx) with
    | some t => if t.kind == .reap then e else endTx p t .timeout e
    | none => e

/-- REAP_TIMEOUT (R143): start + span + TBASE has passed. -/
def execReapTimeout (p : PortId) (tx : Nat) (s : State) : Answer :=
  onEng s <| treeWork fun e =>
    match (e.port p).arb.outstanding.find? (·.id == tx) with
    | some t => if t.kind == .reap then endTx p t .timeout e else e
    | none => e

/-- NAK_REOFFER (R64): 2 us after a NAK the item or transfer offers its transaction again, or a PING. -/
def execNakReoffer (item : Nat) (s : State) : Answer :=
  onEng s fun e =>
    match e.item? item with
    | some i =>
      if i.active && i.phase == .nakWait then turns i.jr.holding i.jr.dev i.jr.ep (armItem item e) else e
    | none => modXfer item (fun x => { x with nakWait := false }) e

end Sys2Proof.Machine
end

