-- ==== Sys2Proof/Machine/Queues.lean ====
section
/-! DEFINITION. The commands of the work queues (06_queues.md): polls, fetches, entries, the head mirror,
completions, messages and condition notes, release words, and the reads that a started entry waits for. -/

namespace Sys2Proof.Machine

/-- PAD (R175): the PAD at the head of the cached entries is passed; no completion. -/
def execPad (f : Fn) (sq : Nat) (s : State) : Answer :=
  onEng s fun e =>
    match e.front f sq with
    | none => e
    | some (_, c, u) => if eOpcode u = 0 then popEntry f sq c false e else e

/-- BULK_IN (R172, R184): the BULK-IN at the head is started. -/
def execBulkIn (f : Fn) (sq : Nat) (s : State) : Answer := onEng s fun e => startItem f sq 1 (freeRecords e)

/-- BULK_OUT (R172, R184): the BULK-OUT at the head is started. -/
def execBulkOut (f : Fn) (sq : Nat) (s : State) : Answer := onEng s fun e => startItem f sq 2 (freeRecords e)

/-- CONTROL (R186): the CONTROL at the head is started. -/
def execControl (f : Fn) (sq : Nat) (s : State) : Answer := onEng s fun e => startItem f sq 3 (freeRecords e)

/-- MARK (R185): starts once every earlier entry has finished, and finishes when it starts. -/
def execMark (f : Fn) (sq : Nat) (s : State) : Answer :=
  onEng s fun e =>
    let e := freeRecords e
    match e.front f sq with
    | none => e
    | some (q, c, u) =>
      if eOpcode u != 4 || sq % 4096 = 0 || !q.finished || !e.itemRoom f then e
      else endAtStart f sq 4 q c u (if markCheck c.units then 0x00 else 0x30) (startEntry f sq c u e)

/-- RESERVED_TRANSFER_OPCODE (R172): the entry completes with status 0x30. -/
def execReservedTransferOpcode (f : Fn) (sq : Nat) (s : State) : Answer :=
  onEng s fun e =>
    let e := freeRecords e
    match e.front f sq with
    | none => e
    | some (q, c, u) =>
      if decide (eOpcode u < 5) || sq % 4096 = 0 || (eFence u && !q.finished) || !e.itemRoom f then e
      else endAtStart f sq (eOpcode u) q c u 0x30 (startEntry f sq c u e)

/-- POLL_DUE (R180, R182, R183): the header read of the next unseen unit; no read while the cache share is
full; the CQ release word in its place while the CQ has no free space. -/
def execPollDue (f : Fn) (sq : Nat) (s : State) : Answer :=
  onEng s fun e =>
    match mget (e.hold f).sqs sq with
    | none => e
    | some q =>
      if q.state != .enabled || !e.queueOn f || decide (16 ≤ q.cachedUnits) then e
      else if !e.cqRoom f sq q then
        match mget (e.hold f).cqs (cqKey sq q.par.cq) with
        | none => e
        | some c => readRelease f (.cq (cqKey sq q.par.cq)) c.par.release e
      else
        hostRead f (q.par.base + BitVec.ofNat 64 (32 * q.next.at_)) 32 (.poll f sq)
          (modSq f sq (fun q => { q with polling := q.polling ++ [q.next] }) e)

/-- POLL_READ_COMPLETE (R177, R180): a header with the phase expected at the unit polled sets k to kb, and makes its entry
seen where it is still the next unseen one; the fetch read follows. Else k rises toward kc; a failed read is a queue fault
(R196). -/
def execPollReadComplete (f : Fn) (sq : Nat) (unit : Option (BitVec 256)) (s : State) : Answer :=
  onEng s fun e =>
    match takeRead (.poll f sq) e with
    | none => staleRead (.poll f sq) e
    | some e =>
      match mget (e.hold f).sqs sq with
      | none => e
      | some q =>
        match q.polling with
        | [] => e
        | pos :: more =>
          let e := modSq f sq (fun q => { q with polling := more }) e
          if q.state != .enabled then e
          else match brought e f unit with
          | none => queueFault f sq pos.at_ e
          | some u =>
            if ePhase u == pos.phase then
              let n := q.clip pos.at_ (eUnits u)
              let e := modSq f sq (fun q => { q with k := q.par.kb }) e
              if pos != q.next then e
              else fetchIssue f sq (modSq f sq (fun q => { q with
                seen := q.seen ++ [(pos.at_, n, decide (eOpcode u = 0))], next := ringAdv pos n q.par.size }) e)
            else modSq f sq (fun q => { q with k := if q.par.kb < q.par.kc then min q.par.kc (q.k + 1) else q.k }) e

/-- Walk the units that a fetch read brought, from offset `off` of a read that began at unit `start`
(R177, R182): take each seen entry that lies whole in the read while the CQ has room, make each further header
with the expected phase seen, stop at the first that is not. `old` holds the seen entries not reached yet, as far as the
units read still put one there. Answers what is taken and what is then seen. -/
def walkFetch (q : Sq) (start : Nat) (us : List (BitVec 256)) (room : Int) :
    Nat → Nat → List (Nat × Nat × Bool) → List Cached → List (Nat × Nat × Bool) → List Cached × List (Nat × Nat × Bool)
  | 0, _, old, took, fresh => (took, fresh ++ old)
  | fuel + 1, off, old, took, fresh =>
    let u := start + off
    let old := match old with | x :: _ => if x.1 = u then old else [] | [] => []
    match us[off]? with
    | none => (took, fresh ++ old)
    | some h =>
      if ePhase h != q.phaseAt start then (took, fresh)
      else
        let pad := decide (eOpcode h = 0)
        let n := q.clip u (eUnits h)
        let units := (us.drop off).take n
        let need : Int := if pad then 0 else 1
        match old with
        | (_, c, _) :: rest =>
          if units.length = n && decide (need ≤ room) then
            walkFetch q start us (room - need) fuel (off + n) rest (took ++ [{ unit := u, units }]) fresh
          else (took, (u, n, pad) :: (if n = c then rest else []))
        | [] => walkFetch q start us room fuel (off + n) [] took (fresh ++ [(u, n, pad)])

/-- Read again the entry of the next adopted item that waits for it (R276). -/
def refetchIssue (h : Fn) (n : Nat) (e : Engine) : Engine :=
  match mget (e.hold h).sqs n with
  | none => e
  | some q =>
    match q.refetch with
    | [] => fetchIssue h n e
    | id :: _ =>
      match e.item? id with
      | none => e
      | some i =>
        hostRead h (q.par.base + BitVec.ofNat 64 (32 * i.jr.unit)) (32 * i.jr.units) (.fetch h n) e

/-- The entry of an adopted item has been read again: the item goes on from its record (R276). -/
def refetched (h : Fn) (n id : Nat) (units : Option (List (BitVec 256))) (e : Engine) : Engine :=
  let e := modSq h n (fun q => { q with refetch := q.refetch.drop 1 }) e
  let e := match e.item? id with
    | none => e
    | some i =>
      let us := (units.getD []).take i.jr.units
      match units.isSome, if i.jr.opcode = 3 then controlCheck us else bulkCheck us with
      | true, some l =>
        let e := modItem id (fun i => { i with
          scatter := l, setup := match us.head? with | some u => eSetup u | none => 0, phase := .waitTurn }) e
        turns h i.jr.dev i.jr.ep e
      | _, _ => endItem id 0x31 e
  refetchIssue h n e

/-- FETCH_READ_COMPLETE (R177, R182, R183): takes the seen entries the read holds whole, reserving a CQ slot
for each but a PAD; a failed read is a queue fault (R196); an SQ 0 entry raises CIC source 448 + f (R303). -/
def execFetchReadComplete (f : Fn) (sq : Nat) (units : Option (List (BitVec 256))) (s : State) : Answer :=
  onEng s fun e =>
    match takeRead (.fetch f sq) e with
    | none => staleRead (.fetch f sq) e
    | some e =>
      match mget (e.hold f).sqs sq with
      | none => e
      | some q =>
        match q.refetch with
        | id :: _ => refetched f sq id (brought e f units) e
        | [] =>
        match q.fetching with
        | none => e
        | some (start, len) =>
          let e := modSq f sq (fun q => { q with fetching := none }) e
          match brought e f units with
          | none => queueFault f sq start e
          | some us =>
            let room := match mget (e.hold f).cqs (cqKey sq q.par.cq) with
              | some c => c.free (cqKey sq q.par.cq)
              | none => 0
            let (took, seen) := walkFetch q start (us.take len) room 17 0 q.seen [] []
            -- what is taken and what is seen lie one behind the other, and the next unseen position behind them
            let span := (took.map fun c => c.units.length).sum + (seen.map fun x => x.2.1).sum
            let next := ringAdv { at_ := start, phase := q.phaseAt start } span q.par.size
            let slots := (took.filter fun c => (c.units.head?.map eOpcode) != some 0).length
            let e := modSq f sq (fun q => Sq.checkMirror { q with cached := q.cached ++ took, seen, next }) e
            let e := modCq f (cqKey sq q.par.cq) (fun c => { c with reserved := c.reserved + slots }) e
            let e := if sq = 0 then forAll took (fun _ => pulse (448 + f.val)) e else e
            fetchIssue f sq e

/-- HEAD_MIRROR_WRITE (R179): the head mirror that is due is written. -/
def execHeadMirrorWrite (f : Fn) (sq : Nat) (s : State) : Answer :=
  onEng s fun e =>
    match mget (e.hold f).sqs sq with
    | none => e
    | some q => if q.mirrorDue then freeRecords (writeMirror f sq e) else e

/-- COMPLETION_WRITE (R193): the completion writer writes the CQ's oldest formed completion. -/
def execCompletionWrite (f : Fn) (cq : Nat) (s : State) : Answer :=
  onEng s fun e => if e.fw.fenced || e.pins.inReset then e else freeRecords (writeCompletion f cq e)

/-- CQ_MODERATION_TIMEOUT (R194): the message follows the next dword0 write, or is sent at once if none is
pending. -/
def execCqModerationTimeout (f : Fn) (cq : Nat) (s : State) : Answer :=
  onEng s fun e =>
    match mget (e.hold f).cqs cq with
    | none => e
    | some q =>
      if !q.par.ien || q.par.modTime = 0 || q.sinceMsg = 0 then e
      else if q.queue.isEmpty then
        msix f q.par.vector (modCq f cq (fun q => { q with sinceMsg := 0, msgDue := false }) e)
      else modCq f cq (fun q => { q with msgDue := true }) e

/-- MSIX_UNMASK (R194): the vector is unmasked and a pending message is sent, once. -/
def execMsixUnmask (f : Fn) (vector : Fin 256) (s : State) : Answer :=
  onEng s fun e =>
    let v := (e.pfn f).vector vector.val
    let send := v.pending && !e.held f
    let e := modPfn f (fun x => { x with
      msix := mput x.msix vector.val { v with masked := false, pending := v.pending && !send } }) e
    whenE send (emitHost (.msix f vector.val)) e

/-- CONDITION_NOTE_WRITE (R228, R360): the note of a changed set of conditions on CQ 0, in its kept slot, and
vector 0 when COND_IEN is set. -/
def execConditionNoteWrite (f : Fn) (s : State) : Answer :=
  onEng s fun e =>
    let now := e.conds f
    let due := (e.fn f).condDue
    let e := modFn f (fun x => { x with condDue := false }) e
    if (e.fn f).note.isNone then whenE due (msix f 0) e
    else
      match mget (e.hold f).cqs 0 with
      | none => whenE due (msix f 0) (modFn f (fun x => { x with note := none }) e)
      | some q =>
        if ringFree q.par.size q.write q.release ≤ q.reserved then whenE due (msix f 0) e
        else
          let a := q.par.base + BitVec.ofNat 64 (16 * q.write.at_)
          let jw := e.justWritten
          let next := ringAdv q.write 1 q.par.size
          let e := hostWrite f (a + 4) (leBytes 4 0 ++ wordBytes (now.setWidth 32) ++ leBytes 4 0) false e
          let e := hostWrite f a (leBytes 4 (b2n q.write.phase + 2 * condCode now + 256 * 0x80)) false e
          -- its message restarts both moderation counts (R194)
          let q' := { q with
            write := next, settled := if jw == .settled then next else q.settled
            sinceMsg := if q.par.ien then 0 else q.sinceMsg + 1, msgDue := q.msgDue && !q.par.ien }
          let e := modCq f 0 (fun _ => q') (modFn f (fun x => { x with note := none }) e)
          let e := journal (.position { kind := .cq, holding := f, num := 0, issued := next,
                                                    settled := q'.settled, sequence := 0 }) e
          -- where both causes name vector 0 one message is sent (R360)
          let e := whenE q.par.ien (msix f q.par.vector) e
          whenE (due && !(q.par.ien && q.par.vector == 0)) (msix f 0) e

/-- Store a release word that is well formed; log kind 0x0019 for one that is not (R151, R165, R193). -/
def takeRelease (f : Fn) (kind num size unit : Nat) (w : Qword) (store : RingPos → Engine → Engine)
    (e : Engine) : Engine :=
  match releaseOf w size unit with
  | none => attn f 0x19 (index := BitVec.ofNat 32 kind) (argument := BitVec.ofNat 32 num) (e := e)
  | some r => store r e

/-- RELEASE_WORD_READ_COMPLETE (R151, R165, R193): the cached copy takes the word read; a failed read frees
nothing. -/
def execReleaseWordReadComplete (f : Fn) (ring : RingRef) (word : Option Qword) (s : State) : Answer :=
  onEng s fun e =>
    match takeRead (.release f ring) e with
    | none => staleRead (.release f ring) e
    | some e =>
      match ring with
      | .sheaf n =>
        match mget (e.hold f).rings n with
        | none => e
        | some r =>
          let e := modRing f n (fun r => { r with reread := r.reread.map fun _ => true }) e
          match brought e f word with
          | none => e
          | some w => takeRelease f 0 (n % 256) r.par.size 8 w
              (fun p => modRing f n fun r => { r with release := p }) e
      | .alarm adopted =>
        let upd (g : AlarmRing → AlarmRing) : Engine → Engine := modHold f fun x =>
          if adopted then { x with alarmAdopted := x.alarmAdopted.map g } else { x with alarmRing := x.alarmRing.map g }
        match if adopted then (e.hold f).alarmAdopted else (e.hold f).alarmRing with
        | none => e
        | some r =>
          let e := upd (fun r => { r with reread := r.reread.map fun _ => true }) e
          match brought e f word with
          | none => e
          | some w => takeRelease f 1 0 r.par.size 1 w (fun p => upd fun r => { r with release := p }) e
      | .cq n =>
        match mget (e.hold f).cqs n with
        | none => e
        | some q =>
          match brought e f word with
          | none => e
          | some w =>
            takeRelease f 2 (n % 4096) q.par.size 1 w (fun p e =>
              fetchCq f n (modCq f n (fun q => { q with release := p }) e)) e

/-- Put a context that was read into the cache of a plot. A plot whose cache is full writes one line of an idle endpoint
back and drops it, which one the spec leaves open (R28); with none idle there is no room (R14). -/
def admitCtx (p : PlotId) (h : Fn) (i : Nat) (c : CtxLine) (e : Engine) : Option Engine :=
  if decide ((e.plot p).cache.length < 4096) || mhas (e.plot p).cache i then some (cacheCtx p i c e)
  else
    let (v, e) := freshValue e
    let idle := (e.plot p).cache.filter fun l => (e.itemsFor h (ctxDev l.2.raw) (ctxEp l.2.raw)).isEmpty
    match idle[v.toNat % idle.length]? with
    | none => none
    | some (k, _) => some (cacheCtx p i c (modPlot p (fun x => { x with cache := mdel x.cache k }) (writeBack h k e)))

/-- The context of an endpoint whose cached one was lost in a fault (R259, R276): E from its item record, HALTED from the
last decided status of its records. -/
def recordCtx (i : Item) (e : Engine) (c : BitVec 256) : BitVec 256 :=
  let old := (e.items.filter fun x =>
    !x.active && x.jr.holding == i.jr.holding && x.jr.dev == i.jr.dev && x.jr.ep == i.jr.ep).getLast?
  match if i.spared then some i else old.filter (·.spared) with
  | none => c
  | some x =>
    let c := ctxSetE c x.jr.seq
    match old with
    | some y => ctxSetHalted c (y.jr.status == some 0x10)
    | none => c

/-- The context of an item has come: it enters the cache, and the item goes on with it, or ends with 0x33 where it does
not suit the item (R184, R212). While the cache has no line for it the item waits, and reads it again. -/
def itemContext (i : Item) (x : Nat) (c0 : BitVec 256) (e : Engine) : Engine :=
  let h := i.jr.holding
  let c := recordCtx i e c0
  let room := match e.plotOf h x with
    | some p => admitCtx p h x { raw := c, dirty := c != c0 } e
    | none => some e
  match room with
  | none => hostRead h ((e.hold h).ctxAddr x) 32 (.context i.id) e
  | some e =>
    let e := modItem i.id (fun i => { i with spared := false }) e
    if ctxSuits c i.jr.opcode && ctxDev c == i.jr.dev && ctxEp c == i.jr.ep then
      turns h i.jr.dev i.jr.ep (armItem i.id (modItem i.id (fun i => { i with jr := { i.jr with seq := ctxE c } }) e))
    else endItem i.id 0x33 e

/-- CONTEXT_READ_COMPLETE (R184, R212): the context enters the plot's cache and the item goes on; a failed
read ends it with 0x31, a context that does not suit it with 0x33. -/
def execContextReadComplete (item : Nat) (ctx : Option (BitVec 256)) (s : State) : Answer :=
  onEng s fun e =>
    match takeRead (.context item) e with
    | none => staleRead (.context item) e
    | some e =>
      match e.item? item with
      | none => e
      | some i =>
        if !i.active || i.phase != .waitContext then e
        else
          let h := i.jr.holding
          match brought e h ctx with
          | none => endItem item 0x31 e
          | some c0 =>
            match (e.hold h).ctxIndex i.jr.dev i.jr.ep with
            | none => endItem item 0x33 e
            | some x => itemContext i x c0 e

/-- OUT_DATA_READ_COMPLETE (R191, R266): the data of an OUT packet is there and the item is ready, or goes to
its runner; a failed read ends the item with 0x31. -/
def execOutDataReadComplete (item : Nat) (data : ReadData) (s : State) : Answer :=
  onEng s fun e =>
    match takeRead (.outData item) e with
    | none => staleRead (.outData item) e
    | some e =>
      match e.item? item with
      | none => e
      | some i =>
        if !i.active || i.phase != .waitData then e
        else match brought e i.jr.holding data with
          | none => endItem item 0x31 e
          | some d =>
            if i.visiting || e.runsDev i.jr.dev then modItem item (fun i => { i with phase := .ready, data := d }) e
            else if e.yoke.link != .up && !e.yoke.partnerLost then endItem item 0x23 e
            else toPartner (.work (.entry i.jr i.setup d)) (modItem item (fun i => { i with phase := .relayed }) e)

end Sys2Proof.Machine
end

