-- ==== Sys2Proof/Machine/Frames.lean ====
section
/-! DEFINITION. The commands of frame time (04_frames.md, 01_architecture.md): the headland and the walk's reads, row
boundaries, the retirement of frames, runs of APOLL misses. -/

namespace Sys2Proof.Machine

/-! ## The headland -/

/-- The plots that walk a holding's frames: those that are powered, in FALLOW the watch plots of holding 0 (R102, R329). -/
def Engine.walkers (e : Engine) (h : Fn) : List PlotId :=
  (e.plotsOf h).filter fun p => if e.pwr.chip == .fallow then (e.plot p).watch else (e.plot p).powered

/-- The isolated plots of a holding that wait for SPARE and walk its frames (R20): a spare takes their walks up (R258). -/
def Engine.waitingPlots (e : Engine) (h : Fn) : List PlotId :=
  e.toSpare.filter fun p =>
    let q := e.plot p
    q.allotted && q.holding == h && !q.removed && (e.pwr.chip != .fallow || q.watch)

/-- Walks of a frame in the plots of a holding that have none of it yet (R102). -/
def addWalks (h : Fn) (f : BitVec 48) (adopted : Bool) (since : Option Nat) (e : Engine) : Engine :=
  forAll ((e.walkers h ++ e.waitingPlots h).filter fun p => !e.hasWalk p f adopted)
    (fun p e => addWalk p (e.newWalk p f adopted since) e) e

/-- The field map accepted for a frame comes into force (R104); firmware-placed descriptors are dropped by a map that
is not managed (R134). -/
def commitMap (h : Fn) (f : BitVec 48) (e : Engine) : Engine :=
  match (e.hold h).fieldMapNext with
  | none => e
  | some (m, g) =>
    if f.toNat < g.toNat then e
    else
      let e := modHold h (fun x => { x with fieldMap := m, fieldMapNext := none }) e
      if (match m with | some m => m.managed | none => false) then e
      else
        let e := modHold h (fun x => { x with
          scheduled := [], groups := [], work := [], rowrateHost := if m.isNone then 0 else x.rowrateHost }) e
        shadowRowrate h (clearLists (fun l => l.holding == h && l.group.isSome) e.nextG e)

/-- The partner's field map of a holding is walked here: a takeover has adopted it (R277). -/
def Engine.adopts (e : Engine) (h : Fn) (adopted : Bool) : Bool := !adopted || (e.hold h).servesPartner

/-- A holding's periodic work has ended: it is in a reset that takes its field map (R244). -/
def Engine.mapGone (e : Engine) (h : Fn) : Bool :=
  match (e.fn h).reset with
  | some r => r.kind != .perst
  | none => false

/-- The holding is frozen for a frame: its slot is not read (R247). -/
def Holding.frozenFor (x : Holding) (f : BitVec 48) : Bool :=
  match x.freeze with
  | some z => decide (z.frame.toNat ≤ f.toNat)
  | none => false

/-- The headland of frame `f` for one holding (R102): its plots begin their walks, with one read of its slot entry, and of
the partner's on a yoked pair (R267). Under Bus Master Enable clear the frame fails; under the hold after PE_PERST_N only
the first is logged (R234, R367). -/
def headlandOf (f : BitVec 48) (h : Fn) (e : Engine) : Engine :=
  let e := commitMap h f e
  let x := e.hold h
  if e.mapGone h || x.frozenFor f || (e.walkers h).isEmpty then e
  else
    let ask (adopted : Bool) (m : Option FieldMap) (e : Engine) : Engine :=
      match m with
      | none => e
      | some m =>
        let e := whenE (e.adopts h adopted) (addWalks h f adopted none) e
        hostRead h (m.addr + BitVec.ofNat 64 (8 * (f.toNat % 1024))) 8 (.slot h adopted)
          (modHold h (fun x => { x with slotReads := x.slotReads ++ [(adopted, f)] }) e)
    if e.held h then
      if x.fieldMap.isNone || ((e.fn h).perstHold && (e.fn h).heldLogged) then e
      else
        attn h 0x10 (index := f.setWidth 32)
          (e := modFn h (fun y => { y with heldLogged := y.perstHold }) e)
    else
      let e := ask false x.fieldMap e
      match x.adoptedMap with
      | some m => ask true (some m) e
      | none => if e.yoke.yoked then ask true (e.yoke.shadow[h.val]).fieldMap e else e

/-- HEADLAND (R29, R102): 100 us before the row-0 boundary of the next frame. -/
def execHeadland (s : State) : Answer :=
  onEng s fun e =>
    if !e.live || !e.clk.timerOn || e.clk.headlandDone then e
    else
      let f := e.nextFrame
      let kept := e.headPaths.filter (·.1 != f)
      let e := { e with headPaths := kept.drop (kept.length - 1) ++ [(f, e.allPaths)] }
      let e := forAll e.created (headlandOf f) e
      { e with clk := { e.clk with headlandDone := true } }

/-! ## The walk's reads -/

/-- A latched slot entry is walked (R105): the walks of its headland read the row table. The partner's field map may have
been adopted since: its walks then begin now, at the present row. -/
def walkSlot (h : Fn) (f : BitVec 48) (adopted : Bool) (entry : Qword) (e : Engine) : Engine :=
  let now := e.clk.started && f == e.clk.frame
  let e := whenE adopted (addWalks h f adopted (if now then some e.clk.row else none)) e
  forAll ((allFin 272).filter fun p =>
      (e.plot p).holding == h && !(e.plot p).isolated && e.hasWalk p f adopted) (fun p => readTable p entry adopted) e

/-- SLOT_ENTRY_READ_COMPLETE (R103, R105): the entry is latched and every plot of the holding walks. -/
def execSlotEntryReadComplete (f : Fn) (adopted : Bool) (entry : Option Qword) (s : State) : Answer :=
  onEng s fun e =>
    match takeRead (.slot f adopted) e with
    | none => staleRead (.slot f adopted) e
    | some e =>
      match (e.hold f).slotReads.find? (·.1 == adopted) with
      | none => e
      | some x =>
        let fr := x.2
        let e := modHold f (fun y => { y with slotReads := y.slotReads.erase x }) e
        let past := e.clk.started && decide (fr.toNat < e.clk.frame.toNat)
        if past || e.mapGone f then endWalks f fr adopted e
        else match brought e f entry with
        | none => dropFrame f fr adopted (whenE (e.adopts f adopted) (attn f 0x10 (index := fr.setWidth 32)) e)
        | some w =>
          if fldN w 1 7 != 0 then
            endWalks f fr adopted
              (whenE (e.adopts f adopted) (attn f 0x12 (index := fr.setWidth 32) (argument := 0xFFFFFFFF#32)) e)
          else if !bitOf w 0 then endWalks f fr adopted e
          else
            let e := modHold f (fun y => { y with latched := y.latched ++ [(adopted, fr, w)] }) e
            whenE (e.adopts f adopted) (walkSlot f fr adopted w) e

/-- ROW_LIST_READ_COMPLETE (R103, R106, R112): the row table, or the list of one row, in one plot. A stalled or isolated
plot takes nothing (R19, R403). -/
def execRowListReadComplete (p : PlotId) (adopted : Bool) (what : Option (Fin 16)) (units : Option (List (BitVec 256)))
    (s : State) : Answer :=
  onEng s fun e =>
    if (e.plot p).stalled || (e.plot p).isolated then e
    else match takeRead (.rows p adopted what) e with
    | none => staleRead (.rows p adopted what) e
    | some e =>
      let h := (e.plot p).holding
      match e.walkOf p adopted (what.map (·.val)) with
      | none => e
      | some w =>
        let f := w.frame
        match what, brought e h units with
        | none, none => dropFrame h f adopted (attn h 0x10 (index := f.setWidth 32) (e := e))
        | none, some us => walkOn p f adopted 17 (modWalk p w (fun v => { v with table := some (us.flatMap halves) }) e)
        | some r, none =>
          walkOn p f adopted 17 (nextRow p w (sayOnce h f 0x11 r.val (BitVec.ofNat 32 r.val) e))
        -- what came after the row began is discarded (R30)
        | some _, some us => walkOn p f adopted 17 (nextRow p w (serveRow p w (if w.late then [] else us) e))

/-- SOLO_CONTEXT_FETCH_COMPLETE (R103, R113): the context enters the plot's cache and is checked. -/
def execSoloContextFetchComplete (id : Nat) (ctx : Option (BitVec 256)) (s : State) : Answer :=
  onEng s fun e =>
    match takeRead (.soloContext id) e with
    | none => staleRead (.soloContext id) e
    | some e =>
      match e.staged? id with
      | none => e
      | some d =>
        if d.phase != .fetchContext then e
        else match brought e d.holding ctx with
        | none => doneStaged d (if dKind d.raw = 2 then failSolo d true e else outResult d true 7 e)
        | some c =>
          let p := finOf 272 d.plot
          let i := dCtx d.raw
          let kept := if d.relayed || (e.ctxLine d.holding i).isSome then some e
            else admitCtx p d.holding i { raw := c, dirty := false } e
          match kept with
          -- a cache without a line to spare: the context is read again (R14)
          | none => hostRead d.holding ((e.hold d.holding).ctxAddr i) 32 (.soloContext id) e
          | some e => settleFrame d.holding d.frame (soloContext d c e)

/-- OUT_SLOT_READ_COMPLETE (R103, R110): read 1 brings GEN and length, read 2 the data, read 3 GEN again. Where the length is
0, read 2 is left out (DESIGN CHOICE, log entry 45). A slot with a reserved byte that is not zero (R10) is taken as busy
(DESIGN CHOICE, log entry 45). -/
def execOutSlotReadComplete (id : Nat) (data : ReadData) (s : State) : Answer :=
  onEng s fun e =>
    match takeRead (.outSlot id) e with
    | none => staleRead (.outSlot id) e
    | some e =>
      match e.staged? id with
      | none => e
      | some d =>
        match d.phase, brought e d.holding data with
        | .fetchSlot _ _, none => doneStaged d (outResult d true 7 e)
        | .fetchSlot 1 n, some bs =>
          -- the reserved bytes lie above the length: with one of them set it exceeds every descriptor's
          let len := leAt 4 4 bs
          let e := modStaged id (fun d => { d with
            gen := BitVec.ofNat 32 (leAt 0 4 bs), slotLen := len, data := []
            phase := .fetchSlot (if len = 0 then 3 else 2) n }) e
          if len = 0 then hostRead d.holding (dSlot d.raw) 4 (.outSlot id) e
          else hostRead d.holding (dSlot d.raw + 8) (min len 1024) (.outSlot id) e
        | .fetchSlot 2 n, some bs =>
          hostRead d.holding (dSlot d.raw) 4 (.outSlot id)
            (modStaged id (fun d => { d with data := bs, phase := .fetchSlot 3 n }) e)
        | .fetchSlot _ n, some bs =>
          let good := leAt 0 4 bs == d.gen.toNat && d.gen.toNat % 2 == 0
          if good && decide (d.slotLen ≤ dLen d.raw) then modStaged id (fun d => { d with phase := .ready }) e
          else if !good && n == 1 then readSlot id 2 e
          else doneStaged d (outResult d false 5 e)
        | _, _ => e

/-- The image of a list being replanted has come (R145): the plant follows, or the replant has failed. -/
def replantRead (id : Nat) (image : ReadData) (e : Engine) : Engine :=
  match e.xfer? id with
  | none => e
  | some x =>
    match x.purpose with
    | .replant hub li =>
      (match e.commons.list? hub li, e.dev? hub with
       | some l, some v =>
         if (match brought e l.holding image with | some bs => imageAgrees l bs | none => false) then
           modXfer id (fun y => { y with
             port := v.root, route := v.route, depth := v.depth, busy := false
             setup := setupPacket 0x0104 0 0 false li (imageBytes l).length, out := imageBytes l }) e
         else replantFailed hub li (dropXfer id e)
       | _, _ => dropXfer id e)
    | _ => e

/-- REAP_IMAGE_READ_COMPLETE (R142, R145): the image of a staged REAP's list or of one nested in it, or of a list to be
replanted. -/
def execReapImageReadComplete (id : Nat) (image : ReadData) (s : State) : Answer :=
  onEng s fun e =>
    match takeRead (.reapImage id) e with
    | some e =>
      (match e.staged? id with
       | none => e
       | some d =>
         match d.toRead with
         | [] => e
         | (hub, li) :: rest =>
           let good := match e.commons.listAt hub li d.frame, brought e d.holding image with
             | some l, some bs => imageAgrees l bs
             | _, _ => false
           if good then readImages id (modStaged id (fun d => { d with toRead := rest }) e) else failImage d e)
    | none =>
      match takeRead (.replant id) e with
      | some e => replantRead id image e
      | none => staleRead (.replant id) (staleRead (.reapImage id) e)

/-! ## Row 0 -/

/-- Reservations and gleaning accepted for the frame come into force (R115, R125). -/
def commitShares (f : BitVec 48) (h : Fn) (e : Engine) : Engine :=
  let e := modHold h (fun x => { x with
    glean := (x.gleanNext.filter fun y => decide (y.2.toNat ≤ f.toNat)).foldl (fun _ y => y.1) x.glean
    gleanNext := x.gleanNext.filter fun y => decide (f.toNat < y.2.toNat) }) e
  forAll (allFin 32) (fun p e =>
    let r := e.region h p f
    modHold h (fun x => { x with
      reserve := vmod x.reserve p fun _ => r
      reserveNext := vmod x.reserveNext p fun l => l.filter fun y => decide (f.toNat < y.2.toNat) }) e) e

/-- The row-0 boundary of a freeze's frame G (R247). -/
def reachFreeze (f : BitVec 48) (h : Fn) (e : Engine) : Engine :=
  match (e.hold h).freeze with
  | none => e
  | some z =>
    if z.reached || decide (f.toNat < z.frame.toNat) then e
    else
      let e := modHold h (fun x => { x with freeze := some { z with reached := true } }) e
      let e := forAll ((e.hold h).sqs.map (·.1)) (fun n e => writeMirror h n (discard h n e)) e
      let e := attn h 0x43 (index := z.frame.setWidth 32) (argument := 1) (e := e)
      finishWaiting (fun r => r.wait == .freeze h z.frame) 0x80 (dword2 := z.frame.setWidth 32) (e := e)

/-- Write back and drop the cached contexts that a plot no longer serves, once their endpoints are idle (R17, R28,
R233). -/
def trimCache (p : PlotId) (e : Engine) : Engine :=
  let q := e.plot p
  let stays := (e.slicePlots q.holding).contains p
  forAll q.cache (fun l e =>
    let inside := stays && decide (q.base ≤ l.1) && decide (l.1 < q.base + q.count)
    if inside || !(e.itemsFor q.holding (ctxDev l.2.raw) (ctxEp l.2.raw)).isEmpty then e
    else modPlot p (fun q => { q with cache := mdel q.cache l.1 }) (writeBack q.holding l.1 e)) e

/-- A frame boundary for the plots (R16, R17, R233): plots being removed leave, slices are recomputed, removed plots
without work are cleared; a plot that waits for SPARE is moved first. In FALLOW the watch plots keep theirs (R329). -/
def plotBoundary (e : Engine) : Engine :=
  let e := { e with plots := e.plots.map fun q =>
    if q.removing && !q.isolated then { q with removing := false, removed := true } else q }
  let e := if e.pwr.chip == .fallow then e else rehome (forAll e.created reslice e)
  let e := forAll (allFin 272) trimCache e
  forAll ((allFin 272).filter fun p => (e.plot p).removed && !(e.plot p).isolated && !e.plotBusy p)
    (fun p => clearPlot p none) e

/-- What the row-0 boundary of a frame does beyond a row boundary (R29, R78, R115). -/
def frameBoundary (f : BitVec 48) (e : Engine) : Engine :=
  let e := { e with holdings := e.holdings.map fun x => { x with
    latched := x.latched.filter fun y => decide (f.toNat ≤ y.2.1.toNat) } }
  let e := forAll e.created (commitShares f) e
  let e := forAll e.created (reachFreeze f) e
  let e := plotBoundary e
  { e with ports := e.ports.map fun p => { p with ordersSent := 0 } }

/-! ## Every row -/

/-- What the strobe of a row ends: row lists whose reads are outstanding are discarded, and descriptors of the row that are
not staged are overruns (R30), as are those of earlier rows that have not started (R126). Row 0 of a walk taken up within its
frame is read for its ROWRATE descriptors only (R258). -/
def strobe (f : BitVec 48) (r : Nat) (e : Engine) : Engine :=
  let begun (w : Walk) : Bool := w.table.isSome && (decide (w.frame.toNat < f.toNat) || (w.frame == f && decide (w.row ≤ r)))
    && !(w.row == 0 && w.since.isSome)
  let e := { e with plots := e.plots.map fun q => { q with walks := lmod begun (fun w => { w with late := true }) q.walks } }
  let late (d : Staged) : Bool :=
    (decide (d.frame.toNat < f.toNat) || (d.frame == f && decide (d.row ≤ r))) && d.phase != .started && d.phase != .away
      && !(d.frame == f && d.row == r && d.phase == .ready)
  forAll (e.staged.filter late) (fun d e => doneStaged d (overrun d e)) e

/-- Lateness of an SOF in ns under test control 15 (R403). -/
def Engine.jitter (e : Engine) (p : PortId) : Nat :=
  let c := e.test.ctls[15]
  if c.on && bitOf c.p2 p.val then 4 * (Config.sofJitter p.val e.clk.frame.toNat % (fldN c.p1 0 7 + 1)) else 0

/-- The APOLL window of a port (R45, R56, R57): SOF in row 0, then APOLL; a yoked port that this controller does not lead
carries the shadow SOF and no APOLL (R267). The port counts a miss when no ALARM-SHEAF came for its last APOLL. Both go on
while an ordered suspend waits in LUP: the state is not left yet (DESIGN CHOICE, log entry 45; R39 starts no new token then,
R55 sends both while the link is up and not suspended). An IDLE set follows each packet (R35). -/
def apollRow (p : PortId) (e : Engine) : Engine :=
  let t := e.port p
  if t.link.state != .lup || t.link.scrub then e
  else
    let tau := t.link.rate.tau
    let f := e.clk.frame
    let r := e.clk.row
    let lead := !(e.yoke.yoked && bitOf e.yoke.yokedPorts p.val) || t.leads
    let a := if r = 0 then e.jitter p + 22 * tau else 0
    let e := if r = 0 then sendPacket p (sofToken f (!lead)).bytes e else e
    if !lead then modPort p (fun t => { t with arb := { t.arb with txFree := a } }) e
    else
      let missed := t.apoll.sent && !t.apoll.accepted
      let e := if missed then
          countPort p 3 (modPort p (fun t => { t with apoll := { t.apoll with
            misses := t.apoll.misses + 1, missFrame := if t.apoll.misses + 1 = 16 then f else t.apoll.missFrame } }) e)
        else e
      let (n, d) := apollArith a tau t.link.rtt
      let tok := apollToken f r n d
      let e := sendPacket p tok.bytes e
      modPort p (fun t => { t with
        apoll := { t.apoll with seq := tok.seq, sent := true, accepted := false }
        arb := { t.arb with txFree := a + 22 * tau } }) e

/-- The bulk shares of a port, and the refill of every credit (R120, R121, R338). `had` says which holdings have a
region in the row. -/
def refill (p : PortId) (had : Fn → Bool) (e : Engine) : Engine :=
  let hs := e.created
  let res (h : Fn) : Reserve := (e.hold h).reserve[p.val]
  let b := 6050 - (hs.map fun h => (res h).c).sum - 100
  let w := (hs.map fun h => (res h).w).sum
  forAll hs (fun h =>
    let full := if w = 0 then 0 else b * (res h).w / w
    let share := if e.pwr.throttled then full * e.pwr.fraction.toNat / 256 else full
    modArb p fun a => { a with
      credit := vmod a.credit h fun c => (share : Int) + min 0 c + (if had h then 0 else ((res h).c : Int))
      closed := vmod a.closed h fun _ => !had h
      used := vmod a.used h fun _ => 0 }) e

/-- Alarm tracking at the end of a row (R159): a device not muted that gave no counted alarm is released; a muted one
counts its quiet rows. -/
def trackRow (e : Engine) : Engine :=
  modCommons (fun c => { c with
    tracks := (c.tracks.filter fun t => t.muted || t.seen).map fun t =>
      { t with quiet := if t.muted then (if t.seen then 0 else t.quiet + 1) else 0, seen := false } }) e

/-- The row that begins now on the running bus engine. -/
def rowWork (e : Engine) : Engine :=
  let f := e.clk.frame
  let r := e.clk.row
  let e := trackRow e
  let e := if r = 0 then frameBoundary f e else e
  let e := forAll e.created (admitRelayed f r) (strobe f r e)
  let still (x : Fn × BitVec 48 × Nat × PortId) : Bool := decide (f.toNat < x.2.1.toNat) || (x.2.1 == f && decide (r ≤ x.2.2.1))
  let e := { e with admitted := e.admitted.filter still }
  let e := forAll (allFin 32) apollRow e
  let e := forAll (allFin 32) (fun p => refill p fun h => e.admitted.contains (h, f, r, p)) e
  whenE (e.senior && e.pwr.chip == .active) (toPartner (.frameMark f r)) e

/-- ROW_BOUNDARY (R29, R100, R346): the next row begins on every root port; after row 15 the next frame's row 0. -/
def execRowBoundary (s : State) : Answer :=
  onEng s fun e =>
    if !e.clk.timerOn then e
    else
      let zero := !e.clk.started || e.clk.row == 15
      let f := if zero then e.nextFrame else e.clk.frame
      let e := { e with clk := { e.clk with
        frame := f, row := if zero then 0 else e.clk.row + 1, started := true, rowNs := 0, trim := 0
        headlandDone := if zero then false else e.clk.headlandDone
        -- a junior that steps back retires its frames anew
        nextRetire := if zero && e.clk.step.isSome && decide (f.toNat < e.clk.nextRetire.toNat) then f else e.clk.nextRetire
        step := if zero then none else e.clk.step } }
      if e.live then rowWork e else e

/-! ## Retirement and APOLL misses -/

/-- Some result of the frame has still to be written, or some read made for it is outstanding (R31, R130). -/
def Engine.frameBusy (e : Engine) (f : BitVec 48) : Bool :=
  (e.staged.any fun d => d.frame == f && !d.relayed && !d.dropped)
    || (e.plots.toList.any fun q => q.walks.any (·.frame == f))
    || (e.holdings.toList.any fun x =>
      (x.slotReads.any (·.2 == f)) || (x.rings.any fun r => r.2.queue.any (·.frame == f)))

/-- What a ring does when a frame retires (R148, R152): its message for sheaves written since the last one; a ring whose
last frame has retired is deleted. -/
def retireRing (h : Fn) (n : Nat) (r : SheafRing) (e : Engine) : Engine :=
  let e := if r.sinceMsg = 0 then e
    else msix h r.par.vector (modRing h n (fun r => { r with sinceMsg := 0 }) e)
  match r.removeAt with
  | some g => if geMod (e.clk.retired + 1) (g.setWidth 32) then dropRing h n e else e
  | none => e

/-- FRAME_RETIRED_ADVANCE (R29, R31): FRAME_RETIRED becomes the next frame, once it has ended and every write of its
results has been issued. -/
def execFrameRetiredAdvance (s : State) : Answer :=
  onEng s fun e =>
    let f := e.clk.nextRetire
    if !e.live || !e.clk.started || decide (e.clk.frame.toNat ≤ f.toNat) || e.frameBusy f then e
    else
      let e := { e with clk := { e.clk with retired := f.setWidth 32, nextRetire := f + 1 } }
      let e := forAll e.created (fun h e => forAll (e.hold h).rings (fun r => retireRing h r.1 r.2) e) e
      let past (r : Running) : Bool := match r.wait with
        | .retired g => geMod (f.setWidth 32) (g.setWidth 32)
        | _ => false
      let e := forAll (e.fw.running.filter past) (fun _ e => finishWaiting past 0x80 (e := e)) e
      modCommons (fun c => { c with lists := c.lists.filter fun l =>
        match l.gone with | some g => !geMod (f.setWidth 32 + 1) (g.setWidth 32) | none => true }) e

/-- APOLL_MISS_RUN_LOG (R57): one entry for each run of misses, at its 16th. -/
def execApollMissRunLog (p : PortId) (s : State) : Answer :=
  onEng s fun e =>
    let a := (e.port p).apoll
    if a.misses < 16 || a.logged then e
    else
      attn pf 0x0B (port := p.val) (index := a.missFrame.setWidth 32) (argument := 16)
        (e := modPort p (fun t => { t with apoll := { t.apoll with logged := true } }) e)

end Sys2Proof.Machine
end

