-- ==== Sys2Proof/Machine/Links.lean ====
section
/-! DEFINITION. The commands of the tree's upkeep (R77, R78, R82) and of the root ports' link layers and port state
machines (R36, R39, R40, R72, R73, R263, R264, R382, R407). -/

namespace Sys2Proof.Machine

/-! ## Changes, enumerations, power -/

/-- The link above the device at a position has been measured anew: its rate and RTT count from now on (R58, R70, R138). -/
def relink (pos : Position) (e : Engine) : Engine :=
  match e.deviceAt pos with
  | some (k, _) => let l := e.linkAt pos; modDev (BitVec.ofNat 20 k) (fun v => { v with rate := l.1, rtt := l.2 }) e
  | none => e

/-- The record of a hub's port has been read (R77): its changes are acted on, and exactly those are cleared; a fresh read
finds an OFF port to be powered (R82). -/
def portStateRead (x : Xfer) (hub : DevNum) (port : Nat) (fresh : Bool) (e : Engine) : Engine :=
  let e := dropXfer x.id e
  let r := recordOf x.got
  let ch : BitVec 16 := fld r 32 16
  let pos : Position := .hubPort hub port
  let e := modHubPort hub port (fun y => { y with record := r }) e
  let e := whenE (fldN r 8 2 != 0) (relink pos) e
  let e := wakePort hub port (ch &&& chResume != 0 && bitOf r 21) e
  let e := if fresh && fldN r 0 3 == 0 then
      (match e.rootOf hub with
       | some p => modPort p (fun t => { t with powerOrders := t.powerOrders ++ [(hub, port, none)] }) e
       | none => e)
    else e
  if ch = 0 then e
  else addXferTo hub (setupPacket 0x0103 port 2 false ch.toNat 0) [] (.clearChange hub port ch) (actOnChanges pos r e)

/-- The hub status record has been read (R75, R77): the state of each changed port is read. -/
def hubStatusRead (x : Xfer) (hub : DevNum) (e : Engine) : Engine :=
  let e := dropXfer x.id e
  match e.rootOf hub with
  | none => e
  | some p =>
    let ports := (List.range 32).filter fun n => (leAt 4 4 x.got).testBit n
    forAll ports (fun n => sawChg p hub n) (wakePorts hub ports e)

/-- The changes that were acted on are cleared in the hub, and in the record kept of it (R74, R77). -/
def changeCleared (x : Xfer) (hub : DevNum) (port : Nat) (bits : BitVec 16) (e : Engine) : Engine :=
  let e := dropXfer x.id e
  modHubPort hub port (fun y =>
    let left := fldN y.record 32 16 &&& (~~~bits).toNat
    let r := putFld y.record 32 16 left
    { y with record := if bits &&& chResume != 0 then putFld r 20 2 0 else r }) e

/-- PORT_CHANGE_READ_COMPLETE (R77): the end of GET_PORT_STATE, GET_HUB_STATUS or CLEAR_PORT_CHANGE. -/
def execPortChangeReadComplete (id : Nat) (s : State) : Answer :=
  onEng s <| treeWork fun e =>
    if !e.fwRuns then e
    else match e.xfer? id with
    | none => e
    | some x =>
      match x.result with
      | none => e
      | some (st, _) =>
        let good := (st == 0 || st == 1) && decide (setupLen x.setup ≤ x.got.length || !setupIn x.setup)
        match x.purpose with
        | .portState hub port fresh =>
          if good then portStateRead x hub port fresh e else wakePort hub port false (dropXfer id e)
        | .hubStatus hub => if good then hubStatusRead x hub e else wakePorts hub [] (dropXfer id e)
        | .clearChange hub port bits => if good then changeCleared x hub port bits e else dropXfer id e
        | _ => e

/-- ENUMERATION_TRANSFER_COMPLETE (R82): the present step of an enumeration has ended; the next follows. -/
def execEnumerationTransferComplete (id : Nat) (s : State) : Answer :=
  onEng s <| treeWork fun e =>
    match e.enum? id with
    | none => e
    | some n => if e.fwRuns then enumNext n e else e

/-- POWER_ON_ORDER_RELEASE (R78, R337): the oldest waiting power-on order of the tree goes out, at most POWER_STAGGER in a
frame, none during a droop. -/
def execPowerOnOrderRelease (p : PortId) (s : State) : Answer :=
  onEng s fun e =>
    let t := e.port p
    match t.powerOrders with
    | [] => e
    | (hub, port, src) :: rest =>
      if !e.live || e.pwr.droop || decide (t.stagger ≤ t.ordersSent) then e
      else
        let e := modPort p (fun t => { t with powerOrders := rest }) e
        match e.dev? hub, src with
        | some _, _ =>
          orderHubPort hub port 1 0 (.portOrder hub port 1 src)
            (modPort p (fun t => { t with ordersSent := t.ordersSent + 1 }) e)
        | none, some src => finishWaiting (fun r => r.src == src) 0x87 (e := e)
        | none, none => e

/-! ## Losing a root link -/

/-- The port is one that the pair shares (R265). -/
def Engine.shared (e : Engine) (p : PortId) : Bool := e.yoke.yoked && bitOf e.yoke.yokedPorts p.val

/-- Outstanding REAPs end as FAILED with cause 6 when the port leaves LUP (R145). -/
def failReaps (p : PortId) : Engine → Engine :=
  endStaged (fun d => d.port == p && d.phase == .started && dKind d.raw == 1) fun d e => failReap d 3 6 0 e

/-- Outstanding SOLO transactions fail with the link (R66). -/
def failSolos (p : PortId) : Engine → Engine :=
  endStaged (fun d => d.port == p && d.phase == .started && dKind d.raw != 1) fun d => failSolo d false

/-- What a lost root link ends on a port that no partner takes (R263): items with 0x23, then the port's own event. -/
def loseLink (p : PortId) (e : Engine) : Engine :=
  let e := endItems (fun i => e.rootOf i.jr.dev == some p && i.phase != .relayed) 0x23 e
  let e := failSolos p (failReaps p e)
  let e := modArb p (fun a => { a with grant := none }) e
  rootChanges p (rhLost p e)

/-- The link enters LDOWN: "link failed" (R39, R263, R264). On a shared port the leader asks the partner to take it, and
R263 waits for that; the follower's port is still alive through the leader's link. -/
def failLink (p : PortId) (e : Engine) : Engine :=
  let st := (e.port p).link.state
  let scrub := (e.port p).link.scrub
  let e := linkDown p 3 0 e
  if !e.shared p then
    (if st == .lup || st == .lmend then loseLink p e else rootChanges p (rhLost p e))
  else if (e.port p).leads then
    -- a link that lost its lock has been offered when it left LUP
    failReaps p (whenE (st == .lup || scrub) (toPartner (.handOver (.port p))) e)
  else e

/-! ## The link layer (R39) -/

/-- One port of a sideband scan. -/
def scanPort (p : PortId) (los : Bool) (e : Engine) : Engine :=
  let l := (e.port p).link
  let e := modLink p (fun l => { l with los }) e
  if los then
    (match l.state with
     | .ltrain => failLink p e
     | .lup => failLink p e
     | .lmend => failLink p e
     | .lwake => failLink p e
     | .lquiet => if (e.port p).rh.state == .suspended then failLink p e else e
     | _ => e)
  else
    let e := if l.los then modLink p (fun l => { l with run := 0, holdoff := false }) e else e
    if (e.port p).link.mayTrain then modLink p linkTrain e else e

/-- SIDEBAND_SCAN (R39, R40, R382, R407). -/
def execSidebandScan (los : BitVec 32) (s : State) : Answer :=
  onEng s <| treeWork fun e =>
    if !e.live || e.pwr.chip == .dormant then e
    else forAll (allFin 32) (fun p => scanPort p (bitOf los p.val)) e

/-- SYMBOL_LOCK_ACQUIRED (R36, R39): a link in LMEND recovers. -/
def execSymbolLockAcquired (p : PortId) (s : State) : Answer :=
  onEng s fun e =>
    let l := (e.port p).link
    match l.state with
    | .ldown => e
    | .lquiet => e
    | .lmend =>
      if l.scrub then modLink p (fun l => { l with lock := true }) e
      else
        countPort p 2 (modRh p (fun r => { r with recoveries := r.recoveries + 1 })
          (modLink p (fun l => { l with lock := true, state := .lup }) e))
    | _ => modLink p (fun l => { l with lock := true }) e

/-- LOSS_OF_LOCK (R36, R39, R145, R264): LUP becomes LMEND, no new token starts, outstanding REAPs fail; on a shared port
the leader asks its partner to take it. -/
def execLossOfLock (p : PortId) (s : State) : Answer :=
  onEng s <| treeWork fun e =>
    let up := (e.port p).link.state == .lup
    let e := modLink p (fun l => { l with lock := false, state := if up then .lmend else l.state }) e
    if !up then e
    else
      let e := failReaps p (modArb p (fun a => { a with grant := none }) e)
      whenE (e.shared p && (e.port p).leads) (toPartner (.handOver (.port p))) e

/-- TRAINING_MEASURED (R37, R39, R407): LUP with an RTT of at most 800 ns, else LDOWN. -/
def execTrainingMeasured (p : PortId) (rtt : Nat) (s : State) : Answer :=
  onEng s <| treeWork fun e =>
    let l := (e.port p).link
    if l.state != .ltrain || !l.lock then e
    else if rtt ≤ 800 then
      rootChanges p (rhUp p (relink (.root p)
        (modLink p (fun l => { l with state := .lup, rtt, run := 0, holdoff := false }) e)))
    else linkDown p 2 rtt (countPort p 10 e)

/-- TRAINING_TRIAL_TIMEOUT (R32, R39): the lower rate is tried, after which training has failed. -/
def execTrainingTrialTimeout (p : PortId) (s : State) : Answer :=
  onEng s fun e =>
    let l := (e.port p).link
    if l.state != .ltrain then e
    else if l.rate == .r5000 then modLink p (fun l => { l with rate := .r1250, lock := false }) e
    else linkDown p 1 0 (countPort p 10 e)

/-- LMEND_TIMEOUT (R39). -/
def execLmendTimeout (p : PortId) (s : State) : Answer :=
  onEng s <| treeWork fun e => if (e.port p).link.state == .lmend && !(e.port p).link.scrub then failLink p e else e

/-- LINK_RESET_ELAPSED (R39): training at the highest rate. -/
def execLinkResetElapsed (p : PortId) (s : State) : Answer :=
  onEng s fun e => if (e.port p).link.state == .lreset then modLink p linkTrain e else e

/-- RESUME_RECEIVED (R39, R72): a remote wake, or one that meets an ordered resume. -/
def execResumeReceived (p : PortId) (s : State) : Answer :=
  onEng s fun e =>
    let l := (e.port p).link
    let seen : Engine → Engine := modRh p fun r =>
      if r.state == .resuming then { r with wakeSeen := true } else r
    match l.state with
    | .lquiet =>
      emitWire (.resume p) (seen (modRh p
        (fun r => if r.state == .suspended then { r with state := .resuming } else r)
        (modLink p (fun l => { l with state := .lwake, byOrder := false }) e)))
    | .lwake => if l.byOrder then seen e else e
    | _ => e

/-- RESUME_DONE (R39, R72): RESUME has been sent for 20 us with symbol lock held. -/
def execResumeDone (p : PortId) (s : State) : Answer :=
  onEng s <| treeWork fun e =>
    let l := (e.port p).link
    if l.state != .lwake || !l.lock then e
    else
      let e := modLink p (fun l => { l with state := .lup, byOrder := false, run := 0 }) e
      let e := if (e.port p).rh.state == .resuming then
          rhChange p chResume (modRh p (fun r => { r with state := .enabled }) e) else e
      rootChanges p e

/-- LWAKE_TIMEOUT (R39). -/
def execLwakeTimeout (p : PortId) (s : State) : Answer :=
  onEng s <| treeWork fun e => if (e.port p).link.state == .lwake then failLink p e else e

/-- SUSPEND_DRAINED (R39, R72): a suspend that waited proceeds once nothing is outstanding. -/
def execSuspendDrained (p : PortId) (s : State) : Answer :=
  onEng s fun e =>
    let l := (e.port p).link
    if l.suspendWait && l.state == .lup && (e.port p).rh.state == .enabled && e.portIdle p then linkQuiet p e else e

/-- RETRY_HOLDOFF_EXPIRY (R39, R407). -/
def execRetryHoldoffExpiry (p : PortId) (s : State) : Answer :=
  onEng s fun e =>
    let e := modLink p (fun l => { l with holdoff := false }) e
    if (e.port p).link.mayTrain then modLink p linkTrain e else e

/-! ## The port state machine (R72) -/

/-- DEBOUNCE_EXPIRY (R72): the link was up throughout. A follower's port comes up as the leader's: its devices are
bound (R264, R267). -/
def execDebounceExpiry (p : PortId) (s : State) : Answer :=
  onEng s <| treeWork fun e =>
    let t := e.port p
    if t.rh.state != .powered || !t.rh.debounce || t.link.state != .lup then e
    else if e.shared p && !t.leads then
      modRh p (fun r => { r with state := .enabled, connected := true, debounce := false }) e
    else
      rootChanges p (rhChange p chConnect
        (modRh p (fun r => { r with state := .disabled, connected := true, debounce := false }) e))

/-- A port goes back to POWERED with its connect lost (R72). -/
def rhBack (p : PortId) (e : Engine) : Engine :=
  rootChanges p (rhChange p chConnect
    (modRh p (fun r => { r with state := .powered, connected := false, debounce := false }) e))

/-- RESETTING_TIMEOUT (R72): 320 us after the end of LINK-RESET the link is not up. -/
def execResettingTimeout (p : PortId) (s : State) : Answer :=
  onEng s <| treeWork fun e =>
    let t := e.port p
    if t.rh.state == .resetting && t.link.state != .lup && t.link.state != .lreset then rhBack p e else e

/-- RESUMING_TIMEOUT (R72): 100 us after RESUME began the link is not up. -/
def execResumingTimeout (p : PortId) (s : State) : Answer :=
  onEng s <| treeWork fun e =>
    let t := e.port p
    if t.rh.state == .resuming && t.link.state != .lup then rhBack p e else e

/-- PORT_QUARANTINE (R72, R73): the 8th bounce within 1 s. -/
def execPortQuarantine (p : PortId) (s : State) : Answer :=
  onEng s <| treeWork fun e =>
    let r := (e.port p).rh
    let there := r.state == .powered || r.state == .disabled || r.state == .enabled || r.state == .suspended
    if there && !r.quar && decide (8 ≤ r.bounceCount e.now) then rootChanges p (rhQuarantine p e) else e

end Sys2Proof.Machine
end

