-- ==== Sys2Proof/Machine/PcieEvents.lean ====
section
/-! DEFINITION. What PCIe does to the functions (13_host_interface.md) and to their holdings: FLR, the end of a
holding reset, VF Enable, Bus Master Enable, power management, PE_PERST_N. -/

namespace Sys2Proof.Machine

/-- The BAR0 registers of R360 and the configuration of a function at their reset values (R366). -/
def resetFunction (f : Fn) (crs : Bool) (e : Engine) : Engine :=
  modFn f (fun x => { x with mbxIen := false, condIen := false, frameHi := 0, etcHi := 0 })
    (modPfn f (fun _ => { crs }) e)

/-- The function's mailbox is reset by its FLR: a command that has not been taken ends as an entry that was not
started, in the account (R203, R206, R243). -/
def flrMailbox (f : Fn) (e : Engine) : Engine :=
  let m := (e.fn f).mbx
  let e := match m.latched with
    | some c =>
      whenE (m.busy && !m.taken) (account f { tag := cTag c, bytes := 0, sq := 0xFFF, status := 0x21, unit := 0 }) e
    | none => e
  modMbx f (fun _ => {}) e

/-- An FLR of one function's holding (R241, R243, R366). -/
def flrOne (f : Fn) (e : Engine) : Engine :=
  resetFunction f true (flrMailbox f (resetPoint f .flr none false e))

/-- A conventional reset, or an FLR of function 0, of what concerns all functions: the PF's Device Control chooses the tag
pool, tags in flight are free again (R349, R351), and the tally word goes on although function 0 loses Bus Master Enable
(R281). -/
def resetTags (e : Engine) : Engine :=
  let pool := if e.pcie.tag10 then .p768 else if e.pcie.tagExt then .p256 else .p32
  { e with
    pcie := { e.pcie with
      pool, tag10 := false, tagExt := false, bmeLost := e.pcie.bmeLost || (e.pfn pf).bme }
    reads := e.reads.map fun r => if r.sent then { r with tags := 0 } else r }

/-- VF Enable is cleared by a conventional reset or an FLR of function 0: every VF holding's queue state is reset
(R356). -/
def clearVfs (e : Engine) : Engine :=
  let vfs := e.created.filter (· != pf)
  let e := forAll vfs (fun h e => resetFunction h (e.pfn h).crs (resetPoint h .perst none false e)) e
  { e with pcie := { e.pcie with vfEnable := false, numVfs := 0 } }

/-- FLR (R241, R366): ignored while the function returns CRS (R357). -/
def execFlr (f : Fn) (s : State) : Answer :=
  onEng s fun e =>
    if (e.pfn f).crs || !e.fnEnabled f || e.pins.inReset then e
    else pumpReads (whenE (f == pf) clearVfs (flrOne f (whenE (f == pf) resetTags e)))

/-- Abandon what is still outstanding of a holding in reset (R242): places are freed, entries end without the
transaction's bytes, the transfers of its ended commands are dropped, later replies are orphans. -/
def abandon (h : Fn) (perst : Bool) (e : Engine) : Engine :=
  let e := forAll (e.items.filter fun i => i.active && i.jr.holding == h && i.abort.isSome)
    (fun i e => decideItem i.id (i.abort.getD 0x21) (dropItemTx i.id e)) e
  let e := if perst then e
    else endStaged (fun d => d.holding == h && d.phase == .started) (fun _ e => e) e
  forAll (e.commons.xfers.filter (·.orphan == some h)) (fun x e =>
    dropXfer x.id (forAll (allFin 32) (fun p => dropTx p fun t => t.owner == .xfer x.id) e)) e

/-- HOLDING_RESET_ABANDON (R242): 40 us after the reset point. -/
def execHoldingResetAbandon (f : Fn) (s : State) : Answer :=
  onEng s fun e =>
    match (e.fn f).reset with
    | none => e
    | some r => abandon f (r.kind == .perst) e

/-- HOLDING_RESET_END (R243, R244, R245, R246). -/
def execHoldingResetEnd (f : Fn) (s : State) : Answer := onEng s (treeWork (resetEnd f))

/-- VF_ENABLE_CLEAR (R246, R355, R356): VF Enable is cleared, which destroys every VF holding, or NumVFs is lowered
while VF Enable is clear, which destroys those above; a write of NumVFs while VF Enable stays set is ignored. -/
def execVfEnableClear (enable : Bool) (numVfs : Nat) (s : State) : Answer :=
  onEng s fun e =>
    if (e.pfn pf).crs || e.pins.inReset || (enable && e.pcie.vfEnable) then e
    else
      let gone := e.created.filter fun h =>
        h != pf && ((!enable && e.pcie.vfEnable) || (decide (numVfs < e.pcie.numVfs) && decide (numVfs < h.val)))
      let e := forAll gone (fun h e => resetFunction h (e.pfn h).crs (resetPoint h .gone none true e)) e
      { e with pcie := { e.pcie with vfEnable := false, numVfs := min numVfs e.pcie.numVfs } }

/-- VF_ENABLE_SET (R355, R356): NumVFs is at most 63, and stored as 7 at most while ARI Capable Hierarchy is clear; ignored while VF Enable is set or CRS is returned. -/
def execVfEnableSet (numVfs : Nat) (s : State) : Answer :=
  onEng s fun e =>
    if (e.pfn pf).crs || e.pins.inReset || e.pcie.vfEnable then e
    else { e with pcie := { e.pcie with vfEnable := true, numVfs := min (if Config.ariHierarchy then 63 else 7) numVfs } }

/-- Requests resume for a function: idle endpoints' dirty contexts are written back, release words and polls go on
at their own events (R352, R367). -/
def resume (f : Fn) (e : Engine) : Engine :=
  if e.held f then e
  else
    let e := modFn f (fun x => { x with perstHold := false, heldLogged := false }) e
    forAll (e.cachedOf f) (fun i e =>
      match e.ctxLine f i with
      | some l => if (e.itemsFor f (ctxDev l.raw) (ctxEp l.raw)).isEmpty then writeBack f i e else e
      | none => e) e

/-- BUS_MASTER_ENABLE_SET (R234, R367, R368). -/
def execBusMasterEnableSet (f : Fn) (s : State) : Answer :=
  onEng s fun e =>
    if (e.pfn f).crs || !e.fnEnabled f || e.pins.inReset then e
    else
      let e := whenE (f == pf) (fun e => { e with pcie := { e.pcie with bmeLost := false } }) e
      resume f (modPfn f (fun x => { x with bme := true }) e)

/-- BUS_MASTER_ENABLE_CLEAR (R234): the controller issues no request for the function any more. -/
def execBusMasterEnableClear (f : Fn) (s : State) : Answer :=
  onEng s fun e =>
    if (e.pfn f).crs || e.pins.inReset then e
    else
      let e := whenE (f == pf) (fun e => { e with pcie := { e.pcie with bmeLost := false } }) e
      pumpReads (modPfn f (fun x => { x with bme := false }) e)

/-- D3HOT_ENTRY (R352). -/
def execD3hotEntry (f : Fn) (s : State) : Answer :=
  onEng s fun e =>
    if (e.pfn f).crs || !e.fnEnabled f || e.pins.inReset then e
    else pumpReads (modPfn f (fun x => { x with d3 := true }) e)

/-- D0_RETURN (R352): No_Soft_Reset, so every holding state is kept and requests resume. -/
def execD0Return (f : Fn) (s : State) : Answer :=
  onEng s fun e =>
    if (e.pfn f).crs || e.pins.inReset then e else resume f (modPfn f (fun x => { x with d3 := false }) e)

/-- PE_PERST_N_ASSERT (R241, R366, R367): the host interface is reset, every holding's queue state with it; fields
maps, rings, lists and the tree go on. -/
def execPePerstNAssert (s : State) : Answer :=
  onEng s fun e =>
    let hs := e.created
    let e := whenE (e.pcie.link != .down) (pulse 45) (whenE (!e.pcie.perst) (pulse 44) e)
    let e := { e with pcie := { e.pcie with perst := true, link := .down } }
    let e := forAll hs (fun h => resetPoint h .perst none false) (resetTags e)
    let e := forAll (allFin 64) (fun h e => resetFunction h true (modFn h (fun x => { x with perstHold := true }) e)) e
    pumpReads { e with pcie := { e.pcie with vfEnable := false, numVfs := 0 } }

/-- PE_PERST_N_RELEASE (R332, R357): the link comes up, PE_WAKE_N is released, and configuration reads return CRS
until firmware is ready. -/
def execPePerstNRelease (s : State) : Answer :=
  onEng s fun e =>
    if !e.pcie.perst then e
    else
      let crs := !e.fw.ready && !e.fw.noImage
      -- a part that is held in reset keeps its endpoint in reset
      let off := e.pins.inReset || e.fw.fenced || e.jtag.holds
      let e := whenE (!off) (pulse 45) (pulse 44 e)
      { e with
        pins := { e.pins with peWake := false }
        pcie := { e.pcie with
          perst := false, link := if off then .down else .l0, fns := e.pcie.fns.map fun x => { x with crs := crs || off } } }

end Sys2Proof.Machine
end

