-- ==== Sys2Proof/Machine/ResetOps.lean ====
section
/-! DEFINITION. The resets of the whole part (R366, R385, R386), the fence (R272), and the start of the bus (R387). -/

namespace Sys2Proof.Machine

/-- The part's clocks, pins and elapsed time after a reset: ETC and EPOCH count on (R343, R345), the PLLs stay locked under
CONTROLLER RESET (log entry 22). -/
def resetClk (por : Bool) (c : Clk) : Clk :=
  let keep := !por
  { etc := c.etc, epoch := c.epoch, epochDue := c.epochDue, hclk := keep && c.hclk, pclk := keep && c.pclk,
    lclk := keep && c.lclk, bclk := keep && c.bclk, cclk := keep && c.cclk, tclk := keep && c.tclk }

/-- POR_N (`por`) or CONTROLLER RESET on everything but the cores (R366): what runs or is kept is named, the rest is as
State.reset has it. -/
def ctrlReset (por : Bool) (e : Engine) : Engine :=
  { Engine.reset with
    clk := resetClk por e.clk
    pwr := { retPlots := e.pwr.retPlots, retL2 := e.pwr.retL2, limitLow := e.pwr.limitLow, throttled := e.pwr.limitLow
             sleepAborts := if por then 0 else e.pwr.sleepAborts }
    pins := { alm := e.pins.alm, strapBoot := e.pins.strapBoot, strapYoke := e.pins.strapYoke
              strapTestN := e.pins.strapTestN, inReset := por || e.pins.inReset }
    pcie := { Engine.reset.pcie with
      perst := e.pcie.perst
      pool := if por then .p32 else if e.pcie.tag10 then .p768 else if e.pcie.tagExt then .p256 else .p32 }
    fw := { Engine.reset.fw with otp := e.fw.otp, fenced := !por && e.fw.fenced }
    yoke := { Engine.reset.yoke with takeovers := if por then 0 else e.yoke.takeovers }
    jtag := e.jtag
    test := { Engine.reset.test with byStrap := !por && !e.pins.strapTestN }
    ids := e.ids
    free := e.free
    readValue := e.readValue
    out := e.out }

/-- The controller fences itself (R272): it holds itself as CONTROLLER RESET holds it, until POR_N. -/
def fence (e : Engine) : Engine :=
  let e := ctrlReset false e
  { e with fw := { e.fw with fenced := true } }

/-- Fence the engine and the cores when a condition holds. -/
def fenceWhen (c : Engine → Bool) (s : State) : Answer :=
  onBoth s fun e k => if c e && !e.pins.inReset && !e.fw.fenced then (fence e, resetCores k) else (e, k)

/-- Bring the PCIe link to a state; a change is a pulse of source 45 (R303). -/
def setPcieLink (l : PcieLink) (e : Engine) : Engine :=
  whenE (e.pcie.link != l) (pulse 45) { e with pcie := { e.pcie with link := l } }

/-- Configuration reads complete without CRS from now on (R357, R390); the link has trained unless PE_PERST_N is asserted. -/
def endCrs (e : Engine) : Engine :=
  let e := whenE (!e.pcie.perst) (setPcieLink .l0) e
  whenE (!e.pcie.perst) (fun e => { e with pcie := { e.pcie with fns := e.pcie.fns.map fun x => { x with crs := false } } }) e

/-- Once firmware runs and BUS_REFCLK is locked, the frame timer starts (R100, R380) and the governor enables the root
ports, four per us (R337, R387). -/
def startBus (e : Engine) : Engine :=
  if e.fw.ready && e.clk.bclk && !e.clk.timerOn && e.pwr.chip == .active && !e.pwr.exiting then
    { e with
      clk := { e.clk with timerOn := true }
      pwr := { e.pwr with gov := e.pwr.gov ++ (allFin 32).map GovStep.serdes }
      yoke := { e.yoke with link := if e.yoke.link == .down then .training else e.yoke.link } }
  else e

/-- Set the lock of a PLL; ACLK has none of its own. -/
def setPll (p : Pll) (b : Bool) (c : Clk) : Clk :=
  match p with
  | .hclk => { c with hclk := b }
  | .pclk => { c with pclk := b }
  | .lclk => { c with lclk := b }
  | .bclk => { c with bclk := b }
  | .cclk => { c with cclk := b }
  | .tclk => { c with tclk := b }
  | .aclk => c

end Sys2Proof.Machine
end

