-- ==== Sys2Proof/Machine/FaultOps.lean ====
section
/-! DEFINITION. Operations of the fault manager and the test block (09_faults.md, 15_test.md): plots that fail, sparing
(R19, R20, R258, R259), firmware faults (R257), retired buffers (R255, R116), test controls on and off (R402 to R404). -/

namespace Sys2Proof.Machine

/-! ## Test controls -/

/-- The test control with a number. -/
abbrev Engine.ctl (e : Engine) (n : Fin 19) : TestCtl := e.test.ctls[n.val]

/-- Update a test control. -/
def modCtl (n : Fin 19) (f : TestCtl → TestCtl) (e : Engine) : Engine :=
  { e with test := { e.test with ctls := vmod e.test.ctls n f } }

/-- Turn a control off, with its entry for every holding when it was on (R404). -/
def ctlOff (n : Fin 19) (e : Engine) : Engine :=
  if (e.ctl n).on then
    attnAll 0x44 (BitVec.ofNat 32 n.val) 0 false (modCtl n (fun c => { c with on := false }) e)
  else e

/-- Whether the parameters of a control are in range (R403); bits outside the fields listed there are not looked at. -/
def Engine.ctlOk (e : Engine) (n : Fin 19) (p1 p2 : Dword) : Bool :=
  let serves (k : Nat) : Bool :=
    decide (k < 272) && !(e.plot (finOf 272 k)).spare && !(e.plot (finOf 272 k)).retired
  match n.val with
  | 10 => decide (1 ≤ fldN p1 0 8)
  | 11 | 12 | 13 | 14 => decide (1 ≤ fldN p1 0 16)
  | 15 => decide (fldN p1 0 7 ≤ 125)
  | 16 => serves (fldN p1 0 9) && decide (1 ≤ p2.toNat) && decide (p2.toNat ≤ 1048576)
  | 17 => serves (fldN p1 0 9) && decide (fldN p2 0 2 ≤ 2)
  | 18 => decide (1 ≤ fldN p2 0 8)
  | _ => true

/-- Turn a control on whose parameters are in range, with its entry; a one-shot control begins to act (R403, R404). -/
def ctlOn (n : Fin 19) (e : Engine) : Engine :=
  let c := e.ctl n
  let e := if c.on then e
    else attnAll 0x44 (BitVec.ofNat 32 n.val) 1 false (modCtl n (fun c => { c with on := true, seen := Vector.replicate 32 0 }) e)
  match n.val with
  | 16 => modPlot (finOf 272 (fldN c.p1 0 9)) (fun q => { q with stalled := true }) e
  | 18 =>
    modYoke (fun y => { y with
      dropLink := if bitOf c.p1 0 then fldN c.p2 0 8 else y.dropLink
      dropWire := if bitOf c.p1 1 then fldN c.p2 0 8 else y.dropWire }) e
  | _ => e

/-- A write of ON (R402). -/
def setCtl (n : Fin 19) (on : Bool) (e : Engine) : Engine :=
  if !on then ctlOff n e
  else if e.ctlOk n (e.ctl n).p1 (e.ctl n).p2 then ctlOn n e
  else modCtl n (fun c => { c with err := true }) e

/-- Lock the test block (R402): every control goes off. -/
def lockTest (e : Engine) : Engine :=
  forAll (allFin 19) ctlOff { e with test := { e.test with byKey := false, keyHalf := false } }

/-! ## Plots that fail -/

/-- RETIRE (R19): out of service until the next POR_N or CONTROLLER RESET. -/
def retirePlot (p : PlotId) : Engine → Engine :=
  modPlot p fun q => { q with
    retired := true, allotted := false, spare := false, clearing := false, clearFor := none, removing := false
    removed := false, watch := false, cache := [], walks := [], count := 0, stalled := false }

/-- A change of a holding's plots is given up: the plots taken for it become free again (R16, R231, R232). -/
def undoPlots (r : Running) (h : Fn) (n : Nat) (e : Engine) : Engine :=
  let e := { e with plots := e.plots.map fun q => if q.clearFor == some h then { q with clearFor := none } else q }
  let l := sortBy (fun p => if (e.plot p).count = 0 then 1 else 0) (e.allotment h)
  let e := forAll (l.drop n) (fun p e =>
    if (e.plot p).count = 0 then clearPlot p none e else modPlot p (fun q => { q with removing := true }) e) e
  let e := whenE (n = 0) (destroyHolding h) e
  finishWaiting (· == r) 0x84 (e := e)

/-- A fault in a plot that is being cleared for a holding (R16): the next free plot takes its place, or the command that
asked for it ends for want of plots. -/
def replaceClearing (h : Fn) (e : Engine) : Engine :=
  match e.freePlots with
  | p :: _ => clearPlot p (some h) e
  | [] =>
    match e.waiting fun r => (match r.wait with | .plots g _ => g == h | _ => false) with
    | some r => (match r.wait with | .plots _ n => undoPlots r h n e | _ => e)
    | none => e

/-- A plot fault (R18 to R20, R16, R303): a plot in a clear, a spare or a free plot leaves service; one that serves a holding
is isolated and waits for SPARE. -/
def plotFault (p : PlotId) (e : Engine) : Engine :=
  let q := e.plot p
  let e := pulse (64 + p.val / 16) e
  if q.clearing then
    let h := q.holding
    let e := attn pf 0x31 (index := BitVec.ofNat 32 p.val) (argument := BitVec.ofNat 32 h.val) (e := retirePlot p e)
    let e := match q.clearFor with
      | some g => replaceClearing g e
      | none => e
    sweepPlots h e
  else if q.allotted then isolatePlot p e
  else attn pf 0x31 (index := BitVec.ofNat 32 p.val) (e := retirePlot p e)

/-! ## SPARE (R20, R258, R259) -/

/-- A staged descriptor of a failed plot (R259): staged again in the spare if its latest start has not passed, else an
overrun. -/
def respare (n : PlotId) (d : Staged) (e : Engine) : Engine :=
  if d.phase == .away then modStaged d.id (fun d => { d with plot := n.val }) e else restage n.val d e

/-- A walk of a failed plot goes on in the spare from the present row, or from the row that it had reached (R258); its table
is read once the slot entry is latched. -/
def rewalk (n : PlotId) (h : Fn) (w : Walk) (e : Engine) : Engine :=
  let row := max w.row (if e.clk.started && w.frame == e.clk.frame then e.clk.row else 0)
  let since := if row = 0 && !e.rowPast w.frame 0 then w.since else some (max row (w.since.getD 0))
  let e := addWalk n { w with since, late := false, table := none, row := 0, rowrate := [] } e
  match (e.hold h).latched.find? fun x => x.1 == w.adopted && x.2.1 == w.frame with
  | some x => readTable n x.2.2 w.adopted e
  | none => e

/-- The failed plot's staged descriptors. -/
def Engine.stagedOf (e : Engine) (p : PlotId) : List Staged := e.staged.filter fun d => d.plot == p.val && !d.relayed

/-- The move to a spare or free plot (R19, R20, R258, R259). -/
def spareTo (p n : PlotId) (e : Engine) : Engine :=
  let q := e.plot p
  let ds := e.stagedOf p
  let e := attn pf 0x30 (index := BitVec.ofNat 32 p.val) (argument := BitVec.ofNat 32 n.val) (e := e)
  let e := modPlot n (fun x => { x with
    holding := q.holding, allotted := true, spare := false, base := q.base, count := q.count, former := q.former
    ports := q.ports, removing := q.removing, removed := q.removed, watch := q.watch, powered := true, cache := []
    walks := [] }) e
  let e := retirePlot p e
  let e := forAll ds (respare n) e
  let e := forAll q.walks (rewalk n q.holding) e
  moveItems p n e

/-- Retirement without replacement (R20): the holding's allotment shrinks by one, and its plots cover the slice from the
next frame boundary. -/
def spareNone (p : PlotId) (e : Engine) : Engine :=
  let q := e.plot p
  let h := q.holding
  let ds := e.stagedOf p
  let e := retirePlot p e
  let e := attnOwner h 0x31 0 0 (BitVec.ofNat 32 p.val) (BitVec.ofNat 32 h.val) e
  let e := modFn h (fun x => { x with degraded := true }) e
  let e := forAll ds (fun d e => if d.phase == .away then e else doneStaged d (overrun d e)) e
  let e := forAll q.walks (fun w => settleFrame h w.frame) e
  sweepPlots h e

/-- SPARE of one isolated plot; a plot whose holding is gone is only retired. -/
def sparePlot (p : PlotId) (e : Engine) : Engine :=
  if !(e.plot p).allotted then
    attn pf 0x31 (index := BitVec.ofNat 32 p.val) (argument := BitVec.ofNat 32 (e.plot p).holding.val) (e := retirePlot p e)
  else
    match e.sparePlots ++ e.freePlots with
    | n :: _ => spareTo p n e
    | [] => spareNone p e

/-! ## Faults outside the plots -/

/-- A firmware fault (R225, R257): all four cores restart; the fourth within 1 s fences the controller. -/
def firmwareFault (c : CoreId) (e : Engine) (k : Cores) : Engine × Cores :=
  if userCore c || bitOf e.fw.halted c.val || e.fw.restarting || !e.live || e.pwr.chip != .active then (e, k)
  else
    let l := (e.fw.faults.filter fun t => decide (e.now < t + 1000000000)) ++ [e.now]
    if decide (4 ≤ l.length) then (fence e, resetCores k)
    else
      let e := { e with fw := { e.fw with faults := l, restarting := true, restartCore := c.val } }
      (e, settleCores e (restartCores e k))

/-- The holding with the most places on a port, ties to the highest number (R116), by the reservations most recently
accepted, in force or not yet (DESIGN CHOICE, log entry 45). -/
def Engine.mostPlaces (e : Engine) (p : PortId) : Option Fn :=
  minBy (fun h => 64 * (8 - min 8 (e.accepted h p).p) + (63 - h.val)) (e.created.filter fun h => (e.accepted h p).p != 0)

/-- A sheaf assembly buffer is retired, and its place with it (R116, R255). -/
def retireBuffer (p : PortId) (place : Nat) (e : Engine) : Engine :=
  let e := modArb p (fun a => { a with retiredPlaces := a.retiredPlaces ||| (1#8 <<< place) }) { e with degraded := true }
  match e.mostPlaces p with
  | none => e
  | some h =>
    let less (r : Reserve) : Reserve := { r with p := r.p - 1 }
    modFn h (fun x => { x with degraded := true }) (modHold h (fun x => { x with
      reserve := vmod x.reserve p less
      reserveNext := vmod x.reserveNext p fun l => l.map fun y => (less y.1, y.2) }) e)

/-- A formed sheaf whose buffer failed: one record with status 3, FAILED. -/
def SheafOut.ruined (x : SheafOut) : SheafOut :=
  { x with overrun := false, late := false, short := false, failed := true, count := 1, buf := none
           records := recordBytes x.dev x.ep 3 x.frame [] }

/-- The sheaves that wait in a failed buffer to be written become FAILED ones, with the entry of a REAP (R145, R255). -/
def failQueued (p : PortId) (place : Nat) (h : Fn) (e : Engine) : Engine :=
  let held (x : SheafOut) : Bool := x.buf == some (p, place)
  let reaps := (e.hold h).rings.flatMap fun r => r.2.queue.filter fun x => held x && !x.solo
  let e := modHold h (fun y => { y with
    rings := y.rings.map fun r => (r.1, { r.2 with queue := lmod held SheafOut.ruined r.2.queue }) }) e
  forAll reaps (fun x => attn h 0x16 (object := x.dev) (index := x.frame.setWidth 32)
    (argument := BitVec.ofNat 32 (x.listId + 256 * 5))) e

/-- The REAP or SOLO-IN whose sheaf a failed buffer held, or was to receive, is written as FAILED, with cause 5 (R255; which
cause is DESIGN CHOICE, log entry 45). The buffer of a place is that of the transaction which has taken the place (R116). -/
def failBuffer (p : PortId) (place : Nat) (e : Engine) : Engine :=
  let e := forAll (allFin 64) (failQueued p place) e
  match (e.port p).arb.outstanding.find? fun t => t.place == some place with
  | none => e
  | some t =>
    match t.owner with
    | .staged id =>
      (match e.staged? id with
       | none => e
       | some d =>
         if dKind d.raw = 3 then e
         else
           let e := dropTx p (fun x => x.id == t.id) e
           doneStaged d (if dKind d.raw = 1 then failReap d 3 5 t.seq.toNat e else failSolo d true e))
    | _ => e

/-- A trip rule that cannot be read is disabled, and every output that it names is tripped (R255); its other bits have no
stated value (log entry 3). -/
def failRule (n : Fin 1024) (e : Engine) : Engine :=
  let (a, e) := freshValue e
  let (b, e) := freshValue e
  let (c, e) := freshValue e
  let (d, e) := freshValue e
  let v := (a.toNat % 2 ^ 31) + 2 ^ 32 * b.toNat + 2 ^ 64 * c.toNat + 2 ^ 96 * d.toNat
  let out : BitVec 4 := fld e.commons.rules[n.val] 96 4
  modCommons (fun c => { c with rules := vmod c.rules n fun _ => BitVec.ofNat 128 v })
    { e with pins := { e.pins with tripped := e.pins.tripped ||| out } }

/-- A hub-table entry that cannot be read (R255): it is invalid, and its subtree is enumerated again. -/
def failEntry (n : DevNum) (e : Engine) : Engine :=
  match e.dev? n with
  | none => e
  | some v =>
    let e := detach v.pos 0x12 e
    if e.commons.pfDriven then attnPos 0x01 v.pos false 0 0 e else startEnum v.pos none 0 false e

/-- Every outstanding transaction of a port counts as a failed attempt; periodic ones fail as R66 gives (R256). -/
def failOutstanding (p : PortId) (e : Engine) : Engine :=
  let e := failSolos p (failReaps p e)
  forAll ((e.port p).arb.outstanding) (fun t e =>
    if (e.port p).arb.outstanding.any (·.id == t.id) then endTx p t .timeout e else e) e

end Sys2Proof.Machine
end

