-- ==== Sys2Proof/Machine/Rings.lean ====
section
/-! DEFINITION. The sheaf writer (R149 to R152), replants (R145), alarms: acceptance (R57, R158), muting (R159), trip
rules (R160 to R163), the alarm writer (R165). -/

namespace Sys2Proof.Machine

/-! ## The sheaf writer -/

/-- Where a sheaf of `len` bytes goes in a ring: the PAD before it, and the unused tail behind it (R150). -/
def sheafPlace (r : SheafRing) (len : Nat) : Nat × Nat :=
  let pad := if r.par.size < r.write.at_ + len then r.par.size - r.write.at_ else 0
  let rest := r.par.size - ((if pad = 0 then r.write.at_ else 0) + len)
  (pad, if rest < 32 then rest else 0)

/-- The PAD header before a sheaf (R149): PAD, record count 0, the sequence and the lost count of the ring, the frame of the
sheaf (DEDUCED, log entry 45), the reserved bits 0 (R10). The fields that name a device, a list, a serial or a reply have no
value of the spec's in a PAD (log entry 3). -/
def padHeader (r : SheafRing) (x : SheafOut) (len : Nat) (e : Engine) : List Byte × Engine :=
  let v (k : Nat) : Dword := Config.freeValue (e.free + k)
  let pad : SheafOut :=
    { listId := fldN (v 0) 0 8, dev := fld (v 1) 0 20, ep := fld (v 1) 20 4, row := fldN (v 1) 24 4, frame := x.frame
      serial := fldN (v 0) 8 8, etc := v 2 ++ v 3 }
  (pad.header r.write.phase true r.sequence len r.lost, { e with free := e.free + 4 })

/-- Write a header and what follows it, dword0 last (R26, R150). -/
def writeSheafAt (h : Fn) (addr : Qword) (bs : List Byte) (e : Engine) : Engine :=
  hostWrite h addr (bs.take 4) false (hostWrite h (addr + 4) (bs.drop 4) false e)

/-- Drop the sheaf at the front of a full ring (R151). -/
def dropSheaf (h : Fn) (n : Nat) (r : SheafRing) (e : Engine) : Engine :=
  let e := if r.fullLogged == some e.clk.frame then e
    else attn h 0x18 (index := e.frame32) (argument := BitVec.ofNat 32 (n % 256)) (e := e)
  countH h 5 (modRing h n (fun r => { r with
    queue := r.queue.drop 1, sequence := r.sequence + 1, lost := r.lost + 1, fullLogged := some e.clk.frame
    reread := none }) e)

/-- Drop the sheaf at the front of a ring in the hold after PE_PERST_N: its records are counted, and the next header's lost
count shows it (R242, R367). -/
def dropHeld (h : Fn) (n : Nat) (x : SheafOut) (e : Engine) : Engine :=
  forAll (List.range x.count) (fun _ => countH h 3) (modRing h n (fun r => { r with
    queue := r.queue.drop 1, sequence := r.sequence + 1, lost := r.lost + 1, reread := none }) e)

/-- Put the sheaf at the front of a ring into host memory (R149, R150, R152). -/
def putSheafOut (h : Fn) (n : Nat) (r : SheafRing) (x : SheafOut) (e : Engine) : Engine :=
  let len := 32 + x.records.length
  let (pad, tail) := sheafPlace r len
  let jw := e.justWritten
  let (w, e) := if pad = 0 then (r.write, e)
    else
      let (bs, e) := padHeader r x pad e
      (ringAdv r.write pad r.par.size, writeSheafAt h (r.par.base + BitVec.ofNat 64 r.write.at_) bs e)
  let e := writeSheafAt h (r.par.base + BitVec.ofNat 64 w.at_) (x.header w.phase false r.sequence len r.lost ++ x.records) e
  let next := ringAdv w (len + tail) r.par.size
  let since := r.sinceMsg + 1
  let send := since == r.par.threshold
  let r' := { r with
    queue := r.queue.drop 1, write := next, sequence := r.sequence + 1, lost := 0, reread := none
    sinceMsg := if send then 0 else since
    settled := if jw == .settled then next else r.settled
    unsettled := if jw == .settled then r.unsettled else r.unsettled ++ [(x.dev, x.frame, x.row, false)] }
  let e := modRing h n (fun _ => r') e
  let e := journal (.position { kind := .sheafRing, holding := h, num := n, issued := r'.write,
                                            settled := r'.settled, sequence := r'.sequence }) e
  let e := pulse (160 + h.val) (whenE send (msix h r.par.vector) e)
  if 2 * ringFree r.par.size r'.write r'.release < r.par.size then readRelease h (.sheaf n) r.par.release e else e

/-- Mark the read of a release word that is made for the entry at the front of its ring, and issue it (R151). -/
def rereadFor (h : Fn) (r : RingRef) (addr : Qword) (mark : Engine → Engine) (e : Engine) : Engine :=
  if e.asked (.release h r) then e else readRelease h r addr (mark e)

/-- SHEAF_WRITE (R149, R150, R151, R152): the sheaf at the front of a ring is written; one for which the cached release
word leaves no room waits for the word to be read again, and is then dropped. -/
def execSheafWrite (f : Fn) (ring : Nat) (s : State) : Answer :=
  onEng s fun e =>
    match mget (e.hold f).rings ring with
    | none => e
    | some r =>
      match r.queue with
      | [] => e
      | x :: _ =>
        if r.probing || e.fw.fenced then e
        else if (e.fn f).perstHold then dropHeld f ring x e
        else
          let len := 32 + x.records.length
          let (pad, tail) := sheafPlace r len
          if pad + len + tail ≤ ringFree r.par.size r.write r.release then putSheafOut f ring r x e
          else if r.reread == some true then dropSheaf f ring r e
          else rereadFor f (.sheaf ring) r.par.release (modRing f ring fun r => { r with reread := some false }) e

/-- REPLANT_TRANSFER_COMPLETE (R145): the list is planted again, or the PF is told. -/
def execReplantTransferComplete (id : Nat) (s : State) : Answer :=
  onEng s fun e =>
    match e.xfer? id with
    | none => e
    | some x =>
      match x.purpose, x.result with
      | .replant hub li, some (st, _) => if st == 0 then dropXfer id e else replantFailed hub li (dropXfer id e)
      | _, _ => e

/-! ## Trip rules (R160, R161) -/

/-- One alarm as the trip matcher and the alarm writer see it. -/
structure Alarm where
  pin : Bool := false
  held : Bool := false
  dev : DevNum
  ep : EpNum := 0
  port : Nat := 0
  code : BitVec 16
  deriving DecidableEq, Repr

/-- A rule matches an alarm (R161). -/
def ruleHits (r : BitVec 128) (a : Alarm) : Bool :=
  bitOf r 31 && bitOf r 30 == a.pin && (bitOf r 29 || bitOf r 30 || fldN r 24 5 == a.port)
    && ((a.dev ^^^ fld r 0 20) &&& fld r 32 20) == 0 && ((a.ep ^^^ fld r 20 4) &&& fld r 52 4) == 0
    && decide (fldN r 64 16 ≤ a.code.toNat) && decide (a.code.toNat ≤ fldN r 80 16)

/-- The rules that match an alarm, by number. -/
def Engine.ruleMatches (e : Engine) (a : Alarm) : List (Fin 1024) :=
  (allFin 1024).filter fun n => ruleHits e.commons.rules[n.val] a

/-- Match an alarm: every matching rule trips its outputs (R161, R162). -/
def tripBy (hits : List (Fin 1024)) (e : Engine) : Engine :=
  let out : BitVec 4 := hits.foldl (fun o n => o ||| fld e.commons.rules[n.val] 96 4) 0
  { e with pins := { e.pins with tripped := e.pins.tripped ||| out } }

/-- The alarm entry of a matched alarm (R165). -/
def Alarm.entry (a : Alarm) (hits : List (Fin 1024)) (muted : Bool) (e : Engine) : AlarmOut :=
  { pin := a.pin, matched := !hits.isEmpty
    outputs := hits.foldl (fun o n => o ||| fld e.commons.rules[n.val] 96 4) 0
    first := (hits.head?.map (·.val)).getD 0, muted, held := a.held, dev := a.dev, ep := a.ep, port := a.port
    code := a.code, frame := e.clk.frame.setWidth 16, etc := e.clk.etc, last := false }

/-- Queue an entry on a holding's alarm ring; none, or a saved freeze, counts (R164, R247). Alarms of ports that a
takeover brought go to the adopted ring (R277). -/
def queueAlarm (h : Fn) (x : AlarmOut) (e : Engine) : Engine :=
  let saved := match (e.hold h).freeze with | some z => z.saved | none => false
  let adopted := !x.pin && bitOf e.yoke.taken x.port && (e.hold h).alarmAdopted.isSome
  let put (r : AlarmRing) : AlarmRing := { r with queue := r.queue ++ [x] }
  if saved then countH h 2 e
  else if adopted then modHold h (fun y => { y with alarmAdopted := y.alarmAdopted.map put }) e
  else if (e.hold h).alarmRing.isNone then countH h 2 e
  else modHold h (fun y => { y with alarmRing := y.alarmRing.map put }) e

/-- Match an alarm and give its entry to its holding, with a copy to the PF ring when ALL is set (R164). -/
def handleAlarm (h : Fn) (a : Alarm) (muted : Bool) (e : Engine) : Engine :=
  let hits := e.ruleMatches a
  let x := a.entry hits muted e
  let all := match (e.hold pf).alarmRing with | some r => r.par.all | none => false
  let e := queueAlarm h x (tripBy hits e)
  if all && h != pf then modHold pf (fun y => { y with
    alarmRing := y.alarmRing.map fun r => { r with queue := r.queue ++ [x] } }) e
  else e

/-- Mark the last entry that each ring has got since a former state: the ring's message follows it (R165). -/
def markLast (before e : Engine) : Engine :=
  let mark (b : Option AlarmRing) (r : AlarmRing) : AlarmRing :=
    let n := match b with | some b => b.queue.length | none => 0
    if r.queue.length ≤ n then r
    else
      let ending (x : AlarmOut) : AlarmOut := { x with last := true }
      { r with queue := r.queue.dropLast ++ (r.queue.drop (r.queue.length - 1)).map ending }
  let both (y b : Holding) : Holding :=
    { y with
      alarmRing := y.alarmRing.map (mark b.alarmRing), alarmAdopted := y.alarmAdopted.map (mark b.alarmAdopted) }
  { e with holdings := e.holdings.zipWith both before.holdings }

/-! ## ALARM-SHEAFs (R57, R158, R159) -/

/-- Tracking entries that a holding owns (R159). -/
def Engine.trackRoom (e : Engine) (h : Fn) : Nat := 16 * (e.allotment h).length

/-- Count a device's live alarm for muting: its run, a new entry, or untracked (R159). Answers whether this is the
4,096th row of the run, whose entry carries MUTED. -/
def trackAlarm (h : Fn) (d : DevNum) (code : BitVec 16) (e : Engine) : Bool × Engine :=
  match e.commons.tracks.find? (·.dev == d) with
  | some t =>
    (t.run + 1 == 4096, modCommons (fun c => { c with
      tracks := lmod (·.dev == d) (fun t => { t with run := t.run + 1, seen := true, code }) c.tracks }) e)
  | none =>
    if (e.commons.tracks.filter fun t => t.holding == h).length < e.trackRoom h then
      (false, modCommons (fun c => { c with
        tracks := c.tracks ++ [{ dev := d, holding := h, run := 1, muted := false, quiet := 0, seen := true, code }] }) e)
    else (false, countDev 3 e)

/-- One record of an accepted ALARM-SHEAF (R158); `live` are the devices whose live alarm has come in it. -/
def alarmRecord (p : PortId) (bs : List Byte) (acc : Engine × List DevNum) : Engine × List DevNum :=
  let (e, live) := acc
  let w := leAt 0 4 bs
  let d : DevNum := BitVec.ofNat 20 w
  let code : BitVec 16 := BitVec.ofNat 16 (leAt 4 2 bs)
  let a : Alarm := { held := decide (w / 2 ^ 25 % 2 = 1), dev := d, ep := BitVec.ofNat 4 (w / 2 ^ 20), port := p.val, code }
  if w / 2 ^ 24 % 2 = 1 then (sawChg p d (leAt 6 2 bs % 32) e, live)
  else
    match e.dev? d with
    | none => (countPort p 6 e, live)
    | some v =>
      if v.root != p then (countPort p 6 e, live)
      else
        let h := if v.hub.isSome then pf else v.owner
        if a.held then (handleAlarm h a false e, live)
        else if live.contains d then (countPort p 6 e, live)
        else
          match e.commons.tracks.find? (·.dev == d) with
          | some t =>
            if t.muted then
              (countPort p 6 (modCommons (fun c => { c with
                tracks := lmod (·.dev == d) (fun t => { t with seen := true }) c.tracks }) e), live ++ [d])
            else
              let (mute, e) := trackAlarm h d code e
              (handleAlarm h a mute e, live ++ [d])
          | none =>
            let (mute, e) := trackAlarm h d code e
            (handleAlarm h a mute e, live ++ [d])

/-- Cut a payload into records of 8 bytes. -/
def records8 : Nat → List Byte → List (List Byte)
  | 0, _ => []
  | n + 1, l => if l.length < 8 then [] else l.take 8 :: records8 n (l.drop 8)

/-- An accepted ALARM-SHEAF (R57, R158): `symbols` are those of the packet, from its SOP. -/
def acceptAlarms (p : PortId) (symbols : Nat) (payload : List Byte) (e : Engine) : Engine :=
  let e := modPort p (fun t => { t with
    apoll := { t.apoll with accepted := true, misses := 0, logged := false } }) e
  let e := whenE (decide (2000 + symbols * (e.port p).link.rate.tau < e.t)) (countPort p 4) e
  markLast e ((records8 64 payload).foldl (fun acc bs => alarmRecord p bs acc) (e, [])).1

/-- RECEIVE_ALARM_SHEAF (R57, R158, R159, R161, R165): the first one that answers the port's latest APOLL is accepted, any
other is stale. -/
def execReceiveAlarmSheaf (p : PortId) (valid : Bool) (bytes : List Byte) (s : State) : Answer :=
  onEng s <| treeWork fun e =>
    match receivePacket p 0x12 valid bytes e with
    | (some (.alarms _ attn dev seq payload), e) =>
      let a := (e.port p).apoll
      if !a.sent || a.accepted || a.seq.setWidth 8 != seq then countPort p 5 e
      else whenE attn (sawAttn dev) (acceptAlarms p (bytes.length + 2) payload e)
    | (_, e) => e

/-- The log entries of muting and unmuting go to the PF and the owner (R159, R223). -/
def logMute (kind : Nat) (t : Track) (argument : Dword) (e : Engine) : Engine :=
  attnOwner t.holding kind t.dev ((e.rootOf t.dev).getD 0).val e.frame32 argument e

/-- ALARM_MUTE (R159): the 4,096th consecutive counted row mutes the device. -/
def execAlarmMute (dev : DevNum) (s : State) : Answer :=
  onEng s fun e =>
    match e.commons.tracks.find? (·.dev == dev) with
    | none => e
    | some t =>
      if t.muted || decide (t.run < 4096) then e
      else
        logMute 0x1A t (t.code.setWidth 32) (modCommons (fun c => { c with
          tracks := lmod (·.dev == dev) (fun t => { t with muted := true, quiet := 0 }) c.tracks }) e)

/-- ALARM_UNMUTE (R159): 16 consecutive rows without an alarm record unmute it, and its entry is released. -/
def execAlarmUnmute (dev : DevNum) (s : State) : Answer :=
  onEng s fun e =>
    match e.commons.tracks.find? (·.dev == dev) with
    | none => e
    | some t =>
      if !t.muted || decide (t.quiet < 16) then e
      else logMute 0x1B t 0 (untrack dev e)

/-! ## The alarm writer -/

/-- The 16 bytes of an alarm entry, dword0 first (R165). -/
def AlarmOut.bytes (x : AlarmOut) (phase loss : Bool) : List Byte :=
  leBytes 4 (b2n phase + 2 * b2n x.pin + 4 * b2n loss + 8 * b2n x.matched + 16 * x.outputs.toNat + 256 * x.first
      + 2 ^ 18 * b2n x.muted + 2 ^ 19 * b2n x.held)
    ++ leBytes 4 (x.dev.toNat + 2 ^ 20 * x.ep.toNat + 2 ^ 24 * x.port) ++ wordBytes x.code ++ wordBytes x.frame
    ++ leBytes 4 (x.etc.toNat / 1024)

/-- Update one of a holding's two alarm rings. -/
def modAlarm (h : Fn) (adopted : Bool) (g : AlarmRing → AlarmRing) : Engine → Engine :=
  modHold h fun x =>
    if adopted then { x with alarmAdopted := x.alarmAdopted.map g } else { x with alarmRing := x.alarmRing.map g }

/-- Write the entry at the front of an alarm ring (R165). -/
def putAlarmOut (h : Fn) (adopted : Bool) (r : AlarmRing) (x : AlarmOut) (e : Engine) : Engine :=
  let jw := e.justWritten
  let next := ringAdv r.write 1 r.par.size
  let e := writeSheafAt h (r.par.base + BitVec.ofNat 64 (16 * r.write.at_)) (x.bytes r.write.phase r.lost) e
  let r' := { r with
    queue := r.queue.drop 1, write := next, lost := false, wrote := !x.last, reread := none
    settled := if jw == .settled then next else r.settled }
  let e := modAlarm h adopted (fun _ => r') e
  let e := journal (.position { kind := .alarmRing, holding := h, num := 0, issued := next,
                                            settled := r'.settled, sequence := 0 }) e
  let e := pulse (96 + h.val) (whenE x.last (msix h r.par.vector) e)
  if 2 * ringFree r.par.size next r.release < r.par.size then readRelease h (.alarm adopted) r.par.release e else e

/-- Drop the entry at the front of a full alarm ring (R165). -/
def dropAlarm (h : Fn) (adopted : Bool) (r : AlarmRing) (x : AlarmOut) (e : Engine) : Engine :=
  let e := if r.fullLogged == some e.clk.frame then e
    else attn h 0x18 (index := e.frame32) (argument := 0xFFFF#32) (e := e)
  let e := countH h 6 (modAlarm h adopted (fun r => { r with
    queue := r.queue.drop 1, lost := true, wrote := r.wrote && !x.last, fullLogged := some e.clk.frame
    reread := none }) e)
  whenE (x.last && r.wrote) (msix h r.par.vector) e

/-- ALARM_ENTRY_WRITE (R165): the entry at the front is written, or dropped when a fresh release word shows the ring
full. -/
def execAlarmEntryWrite (f : Fn) (adopted : Bool) (s : State) : Answer :=
  onEng s fun e =>
    match if adopted then (e.hold f).alarmAdopted else (e.hold f).alarmRing with
    | none => e
    | some r =>
      match r.queue with
      | [] => e
      | x :: _ =>
        if r.probing || e.fw.fenced then e
        -- in the hold after PE_PERST_N the entry is dropped, and LOSS shows it (R367)
        else if (e.fn f).perstHold then countH f 8 (modAlarm f adopted (fun r => { r with
            queue := r.queue.drop 1, lost := true, wrote := r.wrote && !x.last, reread := none }) e)
        else if 1 ≤ ringFree r.par.size r.write r.release then putAlarmOut f adopted r x e
        else if r.reread == some true then dropAlarm f adopted r x e
        else rereadFor f (.alarm adopted) r.par.release (modAlarm f adopted fun r => { r with reread := some false }) e

/-- The alarm of an ALM_IN change (R163): its entry goes to the PF alarm ring only. -/
def almAlarm (n : Fin 8) (level : Bool) (e : Engine) : Engine :=
  markLast e (handleAlarm pf { pin := true, dev := BitVec.ofNat 20 n.val, code := BitVec.ofNat 16 (b2n level) } false e)

/-- ALM_IN_CHANGE (R163, R332): a filtered change, also while firmware is not ready. In DORMANT the watcher latches it, to
be matched after the wake. -/
def execAlmInChange (n : Fin 8) (level : Bool) (s : State) : Answer :=
  onEng s fun e =>
    if bitOf e.pins.alm n.val == level then e
    else
      let e := { e with pins := { e.pins with
        alm := if level then e.pins.alm ||| (1#8 <<< n.val) else e.pins.alm &&& ~~~(1#8 <<< n.val) } }
      if e.pins.inReset || e.fw.fenced || e.jtag.holds then e
      else if e.pwr.chip == .dormant then
        pulse n.val { e with pins := { e.pins with almLatched := e.pins.almLatched ++ [(n, level)] } }
      else pulse n.val (almAlarm n level e)

end Sys2Proof.Machine
end

