-- ==== Sys2Proof/Machine/PowerOps.lean ====
section
/-! DEFINITION. Operations of the power manager (12_power_time.md): the preparation of a lower state (R325), wake events
(R333), what a commit powers down (R322, R329, R330) and what an exit brings back (R334 to R336). -/

namespace Sys2Proof.Machine

/-! ## Preparation -/

/-- Descriptors of holding 0 on the watch ports in the slot of its managed map that has the most (R329). -/
def Engine.watchWork (e : Engine) (w : Dword) : Nat :=
  let on (d : BitVec 256) : Bool := match e.rootOf (dDev d) with | some p => bitOf w p.val | none => false
  let slot (n : Nat) : Nat := ((List.range 16).map fun r => ((e.rowList pf n r).filter on).length).sum
  ((List.range ((e.hold pf).period 1)).map slot).foldl max 0

/-- The watch ports need more than 4 plots (R329). Firmware never reads a host-written map (R134): there the answer is a
free value. -/
def watchShort (w : Dword) (e : Engine) : Bool × Engine :=
  if (e.plotsOf pf).length < 4 then (true, e)
  else match (e.hold pf).mapFor e.nextG with
  | none => (false, e)
  | some m =>
    if m.managed then (decide (3072 < e.watchWork w), e)
    else
      let (v, e) := freshValue e
      (bitOf v 0, e)

/-- Each of cores 4 and 5 is asleep or does not run (R325). -/
def usersAsleep (e : Engine) (k : Cores) : Bool :=
  (allFin 6).all fun c => !userCore c || (k.at c).state != .running || ((k.at c).wfi && decide (1 ≤ e.coreMode c))

/-- The end of the preparation: root ports outside the watch ports are suspended, contexts written back, the completion
handed to the power manager and MODE0 set (R325). -/
def finishPrep (e : Engine) : Engine :=
  match e.pwr.prep with
  | none => e
  | some (src, s, w) =>
    if e.pwr.held.isSome then e
    else
      let ps := (allFin 32).filter fun p => !bitOf w p.val && (e.port p).rh.state == .enabled
      let e := forAll ps (fun p e => (orderRoot p 5 0 e).getD e) e
      let e := forAll e.created writeBackAll e
      { e with pwr := { e.pwr with
        slept := portMask ps, held := some src, mode := vmod e.pwr.mode 0 fun _ => BitVec.ofNat 2 (s + 1) } }

/-- The preparation goes on once the user cores sleep. -/
def advancePrep (k : Cores) (e : Engine) : Engine :=
  if e.pwr.prep.isSome && !e.pwr.prepDrain && e.pwr.sleep && usersAsleep e k then finishPrep e else e

/-- A preparation that has failed: polling resumes, SLEEP clears, POWER STATE completes with 0x86 (R325, R326). -/
def failPrep (e : Engine) : Engine :=
  let e := { e with pwr := { e.pwr with prep := none, prepDrain := false, sleep := false, held := none, request := none } }
  finishWaiting (fun r => r.wait == .power) 0x86 (e := e)

/-! ## Wake events -/

/-- A source's wake bit counts: pending in the CIC or the watcher, wake-capable, unmasked, not quarantined (R318, R333). -/
def Cores.wakes (k : Cores) (n : Fin 64) : Bool :=
  let x := k.s (finOf 512 n.val)
  (x.pending || bitOf k.wPend n.val) && x.wake && !x.masked && !x.quar

/-- The wake timer has reached its compare value (R341). -/
def Engine.timerDue (e : Engine) : Bool :=
  e.pwr.wakeArm && decide (fldN e.clk.etc 0 63 ≥ e.pwr.wakeHi.toNat * 2 ^ 32 + e.pwr.wakeLo.toNat)

/-- A GO of the PF's mailbox is latched and not taken. -/
def Engine.pfGo (e : Engine) : Bool := ((e.fn pf).mbx).busy && !((e.fn pf).mbx).taken

/-- The timer fires: ARM clears. -/
def fireTimer (e : Engine) : Engine := startWake .timer { e with pwr := { e.pwr with wakeArm := false } }

/-! ## Commit -/

/-- A commit that a wake event aborts (R327): core 0 goes on, ABORTED and SLEEP_ABORTS, 0x86, all state intact. -/
def abortCommit (e : Engine) : Engine :=
  let e := failPrep e
  let n := e.pwr.sleepAborts
  resumeSlept { e with pwr := { e.pwr with aborted := true, sleepAborts := if n = 0xFFFFFFFF#32 then n else n + 1 } }

/-- The contexts that the retained banks of a plot keep: the bank of each line is a free value (R14, R336). -/
def keepLines (mask : BitVec 6) (start : Nat) (l : Map CtxLine) : Map CtxLine :=
  (l.zipIdx.filter fun x => bitOf mask ((Config.freeValue (start + x.2)).toNat % 4)).map (·.1)

/-- Plots that are not watch plots go off, with the banks that the map does not keep lost (R322, R336). -/
def plotsOff (watch : List PlotId) (mask : BitVec 6) (e : Engine) : Engine :=
  forAll ((allFin 272).filter fun p => !watch.contains p) (fun p e =>
    let n := (e.plot p).cache.length
    modPlot p (fun q => { q with powered := false, walks := [], cache := if q.spare then [] else keepLines mask e.free q.cache })
      { e with free := e.free + n }) e

/-- The watch plots take holding 0's whole table (R329). -/
def takeWatch (watch : List PlotId) (e : Engine) : Engine :=
  forAll watch.zipIdx (fun x e =>
    let (b, c) := sliceOf x.2 4 (e.hold pf).ctxEntries
    modPlot x.1 (fun q => { q with
      watch := true, base := b, count := c
      cache := q.cache.filter fun l => decide (b ≤ l.1) && decide (l.1 < b + c) }) e) e

/-- Every formed sheaf and alarm entry that stands unwritten when its block goes off is lost, and counted as such. -/
def dropFormed (x : Holding) : Holding :=
  let alarm (r : AlarmRing) : AlarmRing := if r.queue.isEmpty then r else { r with queue := [], lost := true, wrote := false }
  { x with
    latched := [], slotReads := []
    rings := x.rings.map fun r => (r.1, { r.2 with
      queue := [], lost := r.2.lost + r.2.queue.length, sequence := r.2.sequence + BitVec.ofNat 32 r.2.queue.length })
    alarmRing := x.alarmRing.map alarm
    alarmAdopted := x.alarmAdopted.map alarm }

/-- The entry cache is lost in both states. -/
def dropEntries (e : Engine) : Engine := forAll e.created (fun h e => forAll ((e.hold h).sqs.map (·.1)) (discard h) e) e

/-- What FALLOW keeps running: the watch plots and holding 0's descriptors on the watch ports. -/
def enterFallow (w : Dword) (e : Engine) : Engine :=
  let watch := (e.plotsOf pf).take 4
  let e := takeWatch watch (plotsOff watch e.pwr.retPlots e)
  { e with
    staged := e.staged.filter fun d => d.holding == pf && bitOf w d.port.val
    frameLogs := e.frameLogs.filter fun l => l.holding == pf
    holdings := e.holdings.zipIdx.map fun x => if x.2 = 0 then x.1 else { x.1 with latched := [], slotReads := [] }
    pwr := { e.pwr with chip := .fallow, watch := w } }

/-- What DORMANT keeps: nothing of the plots, ports' buffers and reads in flight; the frame timer stops. -/
def enterDormant (e : Engine) : Engine :=
  let e := plotsOff [] 0 e
  { e with
    staged := [], frameLogs := [], reads := [], holdings := e.holdings.map dropFormed
    clk := { e.clk with timerOn := false }
    pwr := { e.pwr with chip := .dormant, watch := 0 } }

/-- The SerDes of ports that are not watched go off. -/
def serdesOff (w : Dword) (e : Engine) : Engine :=
  forAll ((allFin 32).filter fun p => !bitOf w p.val) (fun p => modLink p fun l => { l with serdes := false }) e

/-- The entry proceeds (R323, R327, R331): the held completion is written with 0x80, then the blocks go off. -/
def commit (m : Nat) (e : Engine) : Engine :=
  let w := match e.pwr.prep with | some (_, 1, w) => w | _ => 0
  let e := finishWaiting (fun r => r.wait == .power) 0x80 (e := e)
  let e := forAll e.created flushHolding (dropEntries e)
  let e := attnAll 0x46 3 (BitVec.ofNat 32 (m - 1)) true e
  let e := whenE e.yoke.yoked (fun e => whenE (e.yoke.link == .up) (pulse 46)
    (modYoke (fun y => { y with link := .down }) (toPartner .sleep e))) e
  let e := serdesOff w (if m = 2 then enterFallow w e else enterDormant e)
  { e with pwr := { e.pwr with entering := true, prep := none, prepDrain := false, held := none, request := none } }

/-- The L2 banks that the map does not keep are lost; they read as memory that nothing has written (log entry 20). -/
def loseL2 (keep : BitVec 10) (k : Cores) : Cores :=
  { k with mem := ((List.range 10).filter fun b => !bitOf keep b).foldl (fun m b => memZero m (l2Base + 0x40000 * b) 0x40000) k.mem }

/-- Registers that a core has lost: each a free value; no LR reservation is held. -/
def lostRegs (n : Nat) : CoreRegs :=
  let v (i : Nat) : Dword := Config.freeValue (n + i)
  { pc := v 0, x := Vector.ofFn fun i => if i.val = 0 then 0 else v i.val
    mstatus := v 32, mepc := v 33, mcause := v 34, mtval := v 35, mtvec := v 36, mie := v 37, mip := v 38
    machine := bitOf (v 39) 0 }

/-- The registers of all cores are lost in FALLOW and DORMANT (R322). -/
def loseRegs (n : Nat) : Cores → Cores := forCores (allFin 6) fun c => modRegs c fun _ => lostRegs (n + 40 * c.val)

/-! ## Exit -/

/-- One step of the governor (R337): 16 plots, up to 4 SerDes, or one block. -/
def govStep (e : Engine) : Engine :=
  match e.pwr.gov with
  | [] => e
  | .block _ :: rest => { e with pwr := { e.pwr with gov := rest } }
  | .plots s :: rest =>
    { e with
      pwr := { e.pwr with gov := rest }
      plots := e.plots.zipIdx.map fun x => if x.2 / 16 = s then { x.1 with powered := true } else x.1 }
  | .serdes _ :: _ =>
    let four := (e.pwr.gov.take 4).takeWhile fun g => match g with | .serdes _ => true | _ => false
    let e := { e with pwr := { e.pwr with gov := e.pwr.gov.drop four.length } }
    forAll four (fun g e =>
      match g with
      | .serdes p => if (e.port p).rh.state == .off then rhPowerOn p e else modLink p (fun l => { l with serdes := true }) e
      | _ => e) e

/-- Queue and ring definitions and the rest that firmware keeps in L2 are lost with banks 0 to 7 (R330, R336). -/
def loseDefinitions (e : Engine) : Engine :=
  { e with
    fw := { e.fw with ready := false }
    holdings := e.holdings.map fun x => { x with
      sqs := [], cqs := [], rings := [], alarmRing := none, alarmAdopted := none, fieldMap := none, fieldMapNext := none
      latched := [], slotReads := [], scheduled := [], groups := [], ctxBase := 0, ctxEntries := 0, ctxOf := [] }
    plots := e.plots.map fun q => { q with cache := [] } }

/-- Counters are zeroed by the exit from DORMANT (R395). -/
def zeroCounters (e : Engine) : Engine :=
  { e with
    cnt := Vector.replicate 16 0
    fns := e.fns.map fun x => { x with counters := {} }
    ports := e.ports.map fun p => { p with cnt := Vector.replicate 16 0, arb := { p.arb with commons := {} } } }

/-- What the exit from DORMANT restarts: the frame timer at a frame boundary with the next count (R100, R335), the alarms
that the watcher latched (R332). -/
def leaveDormant (e : Engine) : Engine :=
  let late := e.pins.almLatched
  let e := zeroCounters { e with
    clk := { e.clk with timerOn := true, row := 15, headlandDone := false, rowNs := 0 }
    pins := { e.pins with almLatched := [] } }
  forAll late (fun x => almAlarm x.1 x.2) e

/-- Every PLL is locked. -/
def Engine.allLocked (e : Engine) : Bool :=
  e.clk.hclk && e.clk.pclk && e.clk.lclk && e.clk.bclk && e.clk.cclk && e.clk.tclk

/-- The exit sequence ends: ACTIVE (R323, R334, R335). -/
def exitDone (e : Engine) : Engine :=
  let from_ := e.pwr.leaving
  let e := { e with pwr := { e.pwr with
    chip := .active, exiting := false, last := from_.code, sleep := false, watch := 0, pendedWake := none } }
  let e := attnAll 0x46 3 0 true e
  let e := { e with plots := e.plots.map fun q => { q with watch := false, powered := true } }
  let e := forAll e.created reslice e
  let e := whenE (from_ == .dormant) leaveDormant e
  let e := modYoke (fun y => { y with link := if y.link == .down then .training else y.link }) e
  let e := if fld e.pwr.retL2 0 8 == 0xFF#8 then e else loseDefinitions e
  let e := whenE (e.yoke.partnerLost && e.yoke.takeover == .none) startTakeover e
  forAll (allFin 32) rootChanges (resumeSlept e)

end Sys2Proof.Machine
end

