-- ==== Sys2Proof/Machine/AdminSystem.lean ====
section
/-! DEFINITION. The system commands of 07_commands.md that act on user cores and on the test block (R217): LOAD USER
IMAGE (R287, R288), USER CORE CONTROL (R291), TEST CONTROL (R402). -/

namespace Sys2Proof.Machine

/-- An admin command with an effect on the engine and the cores. -/
def runAdminCores (r : AdminRow) (src : AdminSrc) (checks : Fn → BitVec 512 → Engine → Cores → List Check)
    (effect : Fn → BitVec 512 → Engine → Cores → AdminStep × Cores) (e : Engine) (k : Cores) : Engine × Cores :=
  match gate r src e with
  | .ignored => (e, k)
  | .answered e => (e, k)
  | .run c e =>
    let e := whenE (verdict (sharedChecks r src.fn c e)).isNone (r.reads src.fn c) e
    match verdict (sharedChecks r src.fn c e ++ checks src.fn c e k) with
    | some x => (finish src c (BitVec.ofNat 8 x.status) x.dword2 [] false e, k)
    | none =>
      let a := effect src.fn c e k
      (concludeAdmin src c a.1, a.2)

/-! ## User images (R287, R288) -/

/-- A user image as read: its header, segments, signature and the bytes that the signature covers (R287). -/
structure UserFile where
  magic : Nat
  version : Nat
  core : Nat
  reserved : Bool
  header : UserImage
  tcm : List Byte
  l2 : List Byte
  signed : List Byte
  signature : List Byte

/-- The fields of an image's bytes (R287). -/
def userFile (bs : List Byte) : UserFile :=
  let tcmLen := leAt 12 4 bs
  let l2Len := leAt 20 4 bs
  { magic := leAt 0 4 bs, version := leAt 4 2 bs, core := leAt 6 1 bs
    reserved := decide (16 ≤ leAt 7 1 bs) || decide (2 ≤ leAt 43 1 bs) || (slice 44 84 bs).any (· != 0)
    header := {
      entry := BitVec.ofNat 32 (leAt 8 4 bs), tripGrant := BitVec.ofNat 4 (leAt 7 1 bs), tcmLen
      l2Off := leAt 16 4 bs, l2Len, winBase := BitVec.ofNat 64 (leAt 24 8 bs), winSize := leAt 32 4 bs
      slots := (List.range 7).map fun i => leAt (36 + i) 1 bs, alarmSlot := leAt 43 1 bs % 2 == 1 }
    tcm := slice 128 tcmLen bs, l2 := slice (128 + tcmLen) l2Len bs
    signed := bs.take (128 + tcmLen + l2Len), signature := slice (128 + tcmLen + l2Len) 64 bs }

/-- The lengths of an image (R287, R288): each within its bound, together the image's length. -/
def UserFile.sized (u : UserFile) (len : Nat) : Bool :=
  decide (u.header.tcmLen ≤ 262144) && decide (u.header.l2Off + u.header.l2Len ≤ 524288)
    && len == 128 + u.header.tcmLen + u.header.l2Len + 64

/-- The entry lies in one of the image's segments (R287, R288). -/
def UserFile.entryOk (u : UserFile) (c : CoreId) : Bool :=
  let a := u.header.entry.toNat
  inRange a 1 (tcmBase c) u.header.tcmLen || inRange a 1 (userBanks + u.header.l2Off) u.header.l2Len

/-- The form of an image (R287, R288): magic, version, core, reserved bits, the multiples that R287 gives, the entry. -/
def UserFile.formOk (u : UserFile) (c : CoreId) : Bool :=
  u.magic == 0x49554751 && u.version == 1 && u.core == c.val && !u.reserved && u.entryOk c
    && u.header.tcmLen % 4 == 0 && u.header.l2Off % 4 == 0 && u.header.l2Len % 4 == 0
    && u.header.winBase.toNat % 4096 == 0 && u.header.winSize % 4096 == 0

/-- The signature verifies against the operator key; while the OTP key is blank no image passes (R287, R389). -/
def Engine.signedOk (e : Engine) (u : UserFile) : Bool :=
  match e.fw.otp with
  | some key => signatureValid key u.signed u.signature
  | none => false

/-- The user core that a command names, if it is one. -/
def userCoreOf (n : Nat) : Option CoreId := if n = 4 then some 4 else if n = 5 then some 5 else none

/-- Take a checked image (R288): TCM zero-filled and written, the L2 segment written, the header recorded, the core's
threads reset. -/
def takeImage (c : CoreId) (u : UserFile) (k : Cores) : Cores :=
  let m := memPuts (memZero k.mem (tcmBase c) 0x40000) (tcmBase c) u.tcm
  let k := { k with mem := memPuts m (userBanks + u.header.l2Off) u.l2 }
  forCores ((allFin 256).filter (ownedBy c)) resetThread (modCore c (fun x => { x with image := some u.header }) k)

/-- LOAD_USER_IMAGE (R217, R288): `image` is what the read of the image brought; a read that failed is an image that does
not verify. -/
def execLoadUserImage (src : AdminSrc) (image : ReadData) (s : State) : Answer :=
  onBoth s fun e k => runAdminCores
    { op := 0x50, pfOnly := true, used := fun _ => [(32, 0, 8), (40, 0, 64), (48, 0, 32)]
      reads := fun f c => whenE (userCoreOf (cf c 32 0 8)).isSome
        (readNow f (fld c 320 64) (cf c 48 0 32) (.image f)) } src
    (fun _ c e k =>
      match userCoreOf (cf c 32 0 8) with
      | none => [{ bad := true, status := 0x82 }]
      | some n =>
        let len := cf c 48 0 32
        let busy (m : CoreId) : Bool := (k.at m).state != .stopped
        match brought e pf image with
        | none => [{ bad := busy n, status := 0x87 }, { bad := true, status := 0x88 }]
        | some bs =>
          let u := userFile (bs.take len)
          [{ bad := busy n, status := 0x87 },
           { bad := u.header.l2Len != 0 && (busy 4 || busy 5), status := 0x87 },
           { bad := !u.sized len, status := 0x84 },
           { bad := decide (bs.length < len) || !u.formOk n || !e.signedOk u, status := 0x88 }])
    (fun _ c e k =>
      match userCoreOf (cf c 32 0 8), image with
      | some n, some bs => (.ok e 0 [], takeImage n (userFile (bs.take (cf c 48 0 32))) k)
      | _, _ => (.fail e 0x88 0, k)) e k

/-! ## User core control (R291) -/

/-- The core state word (R291). -/
def coreWord (x : Core) : Dword :=
  let st := match x.state with | .stopped => 0 | .running => 1 | .halted => 2
  BitVec.ofNat 32 (st + 4 * b2n x.image.isSome + 8 * b2n x.wfi + 16 * b2n x.noThread
    + 2 ^ 16 * fldN x.regs.mcause 0 8 + 2 ^ 24 * b2n (bitOf x.regs.mcause 31))

/-- Start of a stopped user core (R291): the PMP entries locked, pc at the entry in machine mode, a0 the core number. -/
def startCore (c : CoreId) (entry : Dword) : Cores → Cores :=
  modCore c fun x => { x with
    state := .running, wfi := false, noThread := false, run := none, unsaved := none
    regs := lockPmp c { pc := entry, x := vmod (Vector.replicate 32 0) 10 fun _ => BitVec.ofNat 32 c.val } }

/-- What an action does to a user core in its state; none where the table gives 0x87 (R291). -/
def coreAction (e : Engine) (c : CoreId) (action : Nat) (k : Cores) : Option Cores :=
  let x := k.at c
  match action, x.state with
  | 0, .running | 0, .halted => some (stopCore e c k)
  | 1, .stopped => x.image.map fun i => startCore c i.entry k
  | 2, .running => some (modCore c (fun x => { x with state := .halted }) k)
  | 3, .halted => some (modCore c (fun x => { x with state := .running }) k)
  | 4, _ => some k
  | _, _ => none

/-- USER_CORE_CONTROL (R217, R291): dword2 is the core state word after the action. A core that stops or halts no longer
holds up a POWER STATE preparation (R325). -/
def execUserCoreControl (src : AdminSrc) (s : State) : Answer :=
  onBoth s fun e k => runAdminCores
    { op := 0x51, pfOnly := true, used := fun _ => [(32, 0, 8), (33, 0, 8)] } src
    (fun _ c e k =>
      match userCoreOf (cf c 32 0 8) with
      | none => [{ bad := true, status := 0x82 }]
      | some n =>
        [{ bad := decide (4 < cf c 33 0 8), status := 0x82 },
         { bad := (coreAction e n (cf c 33 0 8) k).isNone, status := 0x87, dword2 := coreWord (k.at n) }])
    (fun _ c e k =>
      match userCoreOf (cf c 32 0 8) with
      | none => (.fail e 0x82 0, k)
      | some n =>
        match coreAction e n (cf c 33 0 8) k with
        | none => (.fail e 0x87 (coreWord (k.at n)), k)
        | some k => (.ok (advancePrep k e) (coreWord (k.at n)) [], settleCores e k)) e k

/-! ## Test control (R402) -/

/-- TEST_CONTROL (R217, R402): P1, P2 and ON of one control in one step. -/
def execTestControl (src : AdminSrc) (s : State) : Answer :=
  onEng s <| runAdmin
    { op := 0x58, pfOnly := true, used := fun _ => [(32, 0, 8), (33, 0, 1), (36, 0, 32), (40, 0, 32)] } src
    (fun _ c e =>
      [{ bad := !e.unlocked, status := 0x83 },
       { bad := decide (18 < cf c 32 0 8), status := 0x82 },
       { bad := !e.ctlOk (finOf 19 (cf c 32 0 8)) (fld c 288 32) (fld c 320 32), status := 0x82 }])
    (fun _ c e =>
      let n := finOf 19 (cf c 32 0 8)
      .ok (setCtl n (cf c 33 0 1 == 1)
        (modCtl n (fun x => { x with p1 := fld c 288 32, p2 := fld c 320 32 }) e)) 0 [])

end Sys2Proof.Machine
end

