-- ==== Sys2Proof/Machine/AdminTree.lean ====
section
/-! DEFINITION. The tree, log, counter and account commands (R214). -/

namespace Sys2Proof.Machine

/-- The 8 bytes that ENUMERATE LIST gives for a device (R214). -/
def listEntry (n : Nat) (v : Dev) : List Byte :=
  leBytes 4 (n + 2 ^ 20 * v.root.val + 2 ^ 25 * b2n v.hub.isSome) ++ wordBytes v.route

/-- The devices that a function's list holds (R409). -/
def Engine.listed (e : Engine) (f : Fn) : List (Nat × Dev) :=
  e.commons.devs.filter fun x =>
    if x.2.hub.isSome then f == pf || e.ownerAt x.2.pos == f else x.2.owner == f

/-- Response capacity of a command (R409). -/
def capacity (src : AdminSrc) (c : BitVec 512) (header : Nat) : Nat :=
  (if src.isMailbox && cRespLen c == 0 then 48 else cRespLen c) - header

/-- ENUMERATE: LIST, MODE and PORT (R82, R84, R214, R409). -/
def execEnumerate (src : AdminSrc) (s : State) : Answer :=
  onEng s <| treeWork <| runAdmin
    { op := 0x20,
      used := fun c => [(32, 0, 8)] ++ (match cf c 32 0 8 with
        | 0 => [(36, 0, 32)]
        | 1 => [(33, 0, 1)]
        | _ => positionFields c 36 ++ [(40, 0, 8), (44, 0, 20)]) } src
    (fun f c e =>
      let a := cf c 32 0 8
      let pos := cPosition c 36 40
      let n := cf c 44 0 20
      [{ bad := decide (2 < a), status := 0x82 },
       { bad := a != 0 && f != pf, status := 0x83 },
       { bad := a == 2 && (!e.positionOk pos || (cf c 36 25 1 == 1 && cf c 40 0 8 != 0) || n == 0xFFFFF)
         status := 0x82 },
       { bad := a == 2 && ((n != 0 && (match mget e.commons.devs n with | some v => v.pos != pos | none => false))
           || (n != 0 && e.commons.enums.any fun x => x.number.toNat == n) || e.commons.enums.any fun x => x.pos == pos)
         status := 0x87 }])
    (fun f c e =>
      match cf c 32 0 8 with
      | 0 =>
        let all := (e.listed f).filter fun x => decide (cf c 36 0 32 < x.1)
        let k := min all.length (capacity src c 0 / 8)
        .ok e (BitVec.ofNat 32 (k + 2 ^ 31 * b2n (decide (k < all.length))))
          ((all.take k).flatMap fun x => listEntry x.1 x.2)
      | 1 => .ok (modCommons (fun m => { m with pfDriven := cf c 33 0 1 == 1 }) e) 0 []
      | _ =>
        let id := e.ids
        .wait (startEnum (cPosition c 36 40) (some src) (cf c 44 0 20) false e) (.enumeration id))

/-- The positions below a hub, or the position alone: what ASSIGN DEVICE sets (R235). -/
def Engine.assigned (e : Engine) (pos : Position) : List Position :=
  match e.deviceAt pos with
  | some (_, v) =>
    if v.hub.isSome then
      pos :: (e.subtree pos).flatMap fun d =>
        match (e.dev? d).bind (·.hub) with
        | some u => (List.range u.ports).map fun q => .hubPort d q
        | none => []
    else [pos]
  | none => [pos]

/-- The devices whose owner a new owner of a position changes. -/
def Engine.changing (e : Engine) (pos : Position) (h : Fn) : List DevNum :=
  (e.subtree pos).filter fun d => match e.dev? d with | some v => v.hub.isNone && v.owner != h | none => false

/-- The effect of the change point on one device (R236). -/
def changeOwner (h : Fn) (d : DevNum) (e : Engine) : Engine :=
  match e.dev? d with
  | none => e
  | some v =>
    let old := v.owner
    let e := modDev d (fun v => { v with owner := h }) e
    let mine := e.items.filter fun i => i.active && i.jr.holding == old && i.jr.dev == d
    let e := forAll mine (fun i e =>
      if i.phase == .outstanding || decide (0 < i.attempts) then modItem i.id (fun i => { i with abort := some 0x32 }) e
      else endItem i.id 0x32 (dropItemTx i.id e)) e
    let e := untrack d e
    attn h 0x02 (object := d) (port := v.root.val) (e := attn old 0x03 (object := d) (port := v.root.val) (e := e))

/-- ASSIGN_DEVICE (R235, R236). -/
def execAssignDevice (src : AdminSrc) (s : State) : Answer :=
  onEng s <| treeWork <| runAdmin
    { op := 0x21, pfOnly := true, used := fun c => positionFields c 32 ++ [(36, 0, 8), (37, 0, 8)] } src
    (fun _ c e =>
      let pos := cPosition c 32 36
      let h := finOf 64 (cf c 37 0 8)
      [{ bad := !e.positionOk pos || (cf c 32 25 1 == 1 && cf c 36 0 8 != 0), status := 0x82 },
       { bad := decide (63 < cf c 37 0 8) || !(e.hold h).created, status := 0x82 },
       { bad := (match e.rootAt pos with | some p => !bitOf (e.hold h).portSet p.val | none => true)
           || (e.changing pos h).any fun d => match e.dev? d with | some v => e.frozen v.owner | none => false
         status := 0x87 }])
    (fun _ c e =>
      let pos := cPosition c 32 36
      let h := finOf 64 (cf c 37 0 8)
      let ds := e.changing pos h
      let hit (o : Fn) (d : DevNum) : Bool :=
        ds.contains d && (match e.dev? d with | some v => v.owner == o | none => false)
      let items := (e.items.filter fun i => i.active && hit i.jr.holding i.jr.dev).map (·.id)
      let olds := ds.filterMap fun d => (e.dev? d).map (·.owner)
      let reaps := (e.staged.filter fun d =>
        d.phase == .started && olds.contains d.holding && (dKind d.raw == 1 || hit d.holding (dDev d.raw))).map (·.id)
      let e := forAll (e.assigned pos) (fun q e => mirror (.owner q h) (setOwner q h e)) e
      let e := forAll ds (changeOwner h) e
      let left := items.filter fun id => match e.item? id with | some i => i.active | none => false
      let dev := (e.deviceAt pos).map fun x => BitVec.ofNat 20 x.1
      if left.isEmpty && reaps.isEmpty then .ok e ((dev.getD 0).setWidth 32) []
      else .wait e (.assign dev left reaps))

/-- PORT_CONTROL (R72, R78, R89, R93, R214). -/
def execPortControl (src : AdminSrc) (s : State) : Answer :=
  onEng s <| treeWork <| runAdmin
    { op := 0x22, pfOnly := true,
      used := fun c => positionFields c 32 ++ [(36, 0, 8), (38, 0, 8)] ++ (match cf c 38 0 8 with
        | 3 => [(39, 0, 8)]
        | 8 => [(40, 0, 8), (41, 0, 8)]
        | 9 => [(42, 0, 8)]
        | _ => []) } src
    (fun _ c e =>
      let a := cf c 38 0 8
      let root := cf c 32 25 1 == 1
      [{ bad := decide (9 < a) || !e.positionOk (cPosition c 32 36) || (root && cf c 36 0 8 != 0), status := 0x82 },
       { bad := decide (8 ≤ a) && !root, status := 0x82 },
       { bad := a == 8 && (decide (cf c 40 0 8 < 2) || decide (64 < cf c 40 0 8) || decide (cf c 41 0 8 < 1)
           || decide (8 < cf c 41 0 8))
         status := 0x82 },
       { bad := a == 9 && (decide (cf c 42 0 8 < 1) || decide (32 < cf c 42 0 8)), status := 0x82 }])
    (fun _ c e =>
      let a := cf c 38 0 8
      let us := cf c 39 0 8
      match cPosition c 32 36 with
      | .root p =>
        let done (e : Engine) : AdminStep := .ok e 0 (recordData (e.rootRecord p))
        if a = 0 then done e
        else if a = 8 then done (modPort p (fun t => { t with tbase := cf c 40 0 8, ttier := cf c 41 0 8 }) e)
        else if a = 9 then done (modPort p (fun t => { t with stagger := cf c 42 0 8 }) e)
        else
          let was := (e.port p).rh.state
          match orderRoot p a us e with
          | none => .fail e 0x87 0
          | some e =>
            let e := whenE (a == 3) (attnPorts (1#32 <<< p.val) 1 0) e
            if a = 3 then .wait e (.portOrder (.root p) true)
            else if a = 6 && was != .enabled then .wait e (.portOrder (.root p) false)
            else done e
      | .hubPort hub port =>
        let pos : Position := .hubPort hub port
        if a = 0 then
          .wait (addXferTo hub (setupPacket 0x0101 port 2 true 0 16) [] (.portRead hub port src) e) (.portRecord pos)
        else if a = 1 then
          match e.rootOf hub with
          | none => .fail e 0x87 0
          | some p => .wait (modPort p (fun t => { t with powerOrders := t.powerOrders ++ [(hub, port, some src)] }) e)
              (.portRecord pos)
        else
          .wait (orderHubPort hub port a us (.portOrder hub port a (some src)) e)
            (if a = 3 then .portOrder pos true else if a = 6 then .portOrder pos false else .portRecord pos))

/-- DEVICE_RESET (R72, R95, R218). -/
def execDeviceReset (src : AdminSrc) (s : State) : Answer :=
  onEng s <| treeWork <| runAdmin { op := 0x23, target := true } src
    (fun f c e =>
      match e.dev? (cDev c) with
      | none => [{ bad := true, status := 0x82 }]
      | some v =>
        [{ bad := cEp c != 0, status := 0x82 },
         { bad := f != pf && (v.hub.isSome || v.owner != f), status := 0x83 },
         { bad := e.frozen (if v.hub.isSome then f else v.owner), status := 0x87 }])
    (fun _ c e =>
      match e.dev? (cDev c) with
      | none => .fail e 0x82 0
      | some v =>
        match v.pos with
        | .root p =>
          match orderRoot p 3 0 e with
          | none => .fail e 0x87 0
          | some e => .wait e (.devReset (cDev c) v.pos)
        | .hubPort hub port =>
          .wait (orderHubPort hub port 3 0 (.portOrder hub port 3 (some src)) e) (.devReset (cDev c) v.pos))

/-! ## Logs, counters, accounts -/

/-- The 32 bytes of an attention entry (R222). -/
def attnBytes (a : Attn) : List Byte :=
  wordBytes a.seq ++ leBytes 2 a.kind ++ leBytes 1 (b2n a.commons + 2 * b2n (a.lost != 0)) ++ leBytes 1 (min 255 a.lost)
    ++ wordBytes a.etc ++ wordBytes a.epoch ++ leBytes 4 (a.object.toNat + 2 ^ 20 * (a.port % 32)) ++ wordBytes a.index
    ++ wordBytes a.argument

/-- "Before" of running counts, compared as R101 compares frames. -/
def before (a b : Dword) : Bool := a != b && geMod b a

/-- READ_ATTENTION_LOG (R222, R224). -/
def execReadAttentionLog (src : AdminSrc) (s : State) : Answer :=
  onEng s <| runAdmin
    { op := 0x28, used := fun _ => [(32, 0, 32), (36, 0, 32), (40, 0, 16)], inReset := true } src
    (fun _ _ _ => [])
    (fun f c e =>
      let e := modFn f (fun x => { x with log := x.log.filter fun a => !before a.seq (fld c 288 32) }) e
      let log := (e.fn f).log
      let all := log.filter fun a => !before a.seq (fld c 256 32)
      let k := min all.length (cf c 40 0 16)
      .ok e (BitVec.ofNat 32 (k + 65536 * log.length)) ((all.take k).flatMap attnBytes))

/-- The 16 bytes of an arbiter set (R396). -/
def arbBytes (a : ArbSet) : List Byte := wordBytes a.grants ++ wordBytes a.wait ++ wordBytes a.longest

/-- The bytes of a block of event counters. -/
def cntBytes (v : Vector Dword 16) : List Byte := v.toList.flatMap wordBytes

/-- The fields that a group of READ COUNTERS uses: a port but for groups 2 and 5, a holding for groups 0 to 2 (R201,
R401). -/
def counterFields (c : BitVec 512) : Fields :=
  let g := cf c 32 0 8
  [(32, 0, 8), (34, 0, 1)] ++ (if g = 2 ∨ g = 5 then [] else [(33, 0, 8)]) ++ (if g < 3 then [(35, 0, 8)] else [])

/-- READ_COUNTERS (R401). -/
def execReadCounters (src : AdminSrc) (s : State) : Answer :=
  onEng s <| runAdmin
    { op := 0x29, used := counterFields } src
    (fun f c e =>
      let g := cf c 32 0 8
      let h := cf c 35 0 8
      [{ bad := decide (5 < g) || decide (31 < cf c 33 0 8), status := 0x82 },
       { bad := f != pf && (h != f.val || decide (3 ≤ g)), status := 0x83 },
       { bad := decide (g < 3) && decide (63 < h), status := 0x82 }])
    (fun _ c e =>
      let h := finOf 64 (cf c 35 0 8)
      let p := finOf 32 (cf c 33 0 8)
      let clear := cf c 34 0 1 == 1
      let k := (e.fn h).counters
      let modK (g : HoldingCnt → HoldingCnt) : Engine → Engine := modFn h fun x => { x with counters := g x.counters }
      let zero : Vector Dword 16 := Vector.replicate 16 0
      let (d, e') : List Byte × Engine :=
        match cf c 32 0 8 with
        | 0 => (arbBytes k.arbP[p.val] ++ arbBytes k.arbB[p.val],
            modK (fun x => { x with arbP := vmod x.arbP p fun _ => {}, arbB := vmod x.arbB p fun _ => {} }) e)
        | 1 => (cntBytes k.port[p.val], modK (fun x => { x with port := vmod x.port p fun _ => zero }) e)
        | 2 => (cntBytes k.wide, modK (fun x => { x with wide := zero }) e)
        | 3 => (arbBytes (e.port p).arb.commons, modArb p (fun a => { a with commons := {} }) e)
        | 4 => (cntBytes (e.port p).cnt, modPort p (fun t => { t with cnt := zero }) e)
        | _ => (cntBytes e.cnt, { e with cnt := zero })
      .ok (if clear then e' else e) (BitVec.ofNat 32 d.length) d)

/-- The 16 bytes of a reset account entry (R215). -/
def outcomeBytes (o : Outcome) : List Byte :=
  wordBytes o.tag ++ leBytes 4 o.bytes ++ leBytes 2 (o.sq % 4096) ++ wordBytes o.status ++ leBytes 1 0 ++ leBytes 4 (o.unit % 2 ^ 20)

/-- A reset account's entries with their indices, oldest first: SUMMARY carries the index of the latest outcome
folded into it (R215, R245). -/
def Account.entries (a : Account) : List (Dword × List Byte) :=
  let base := a.next - BitVec.ofNat 32 a.kept.length
  let rest := a.kept.zipIdx.map fun x => (base + BitVec.ofNat 32 x.2, outcomeBytes x.1)
  if a.folded = 0 then rest
  else (base - 1, leBytes 4 0 ++ leBytes 4 a.folded ++ leBytes 3 0 ++ leBytes 1 1 ++ leBytes 4 0) :: rest

/-- Free the entries before an index (R215). -/
def Account.release (a : Account) (i : Dword) : Account :=
  let base := a.next - BitVec.ofNat 32 a.kept.length
  let kept := (a.kept.zipIdx.filter fun x => !before (base + BitVec.ofNat 32 x.2) i).map (·.1)
  { a with kept, folded := if a.folded != 0 && before (base - 1) i then 0 else a.folded }

/-- RESET_ACCOUNT (R215, R245, R409). -/
def execResetAccount (src : AdminSrc) (s : State) : Answer :=
  onEng s <| runAdmin { op := 0x2A, used := fun _ => [(32, 0, 32), (36, 0, 32)], inReset := true } src
    (fun _ _ _ => [])
    (fun f c e =>
      let e := modFn f (fun x => { x with account := x.account.release (fld c 288 32) }) e
      let a := (e.fn f).account
      let all := a.entries.filter fun x => !before x.1 (fld c 256 32)
      let k := min all.length (capacity src c 16 / 16)
      let first := ((all.head?).map (·.1)).getD a.next
      .ok e (BitVec.ofNat 32 (k + 2 ^ 31 * b2n (decide (k < all.length))))
        (wordBytes first ++ wordBytes a.next ++ leBytes 8 0 ++ (all.take k).flatMap (·.2)))

end Sys2Proof.Machine
end

