-- ==== Sys2Proof/Machine/Boot.lean ====
section
/-! DEFINITION. Power-up, boot, CONTROLLER RESET, clocks, fencing (R218, R272, R345, R380, R385 to R392) and the TAP
(R405, R406). -/

namespace Sys2Proof.Machine

/-! ## Resets -/

/-- POR_N_ASSERT (R366, R386): POR_N or PG_CORE falls. -/
def execPorNAssert (s : State) : Answer := onBoth s fun e k => (ctrlReset true e, resetCores k)

/-- PG_AO_RISE (R385): a power-on of VDD_AO: the ETC is zeroed, the always-on SRAM is empty, the next boot increments
EPOCH. The internal reset is in force, since PG_AO was low. -/
def execPgAoRise (s : State) : Answer :=
  onBoth s fun e k =>
    let e := ctrlReset true e
    ({ e with
        clk := { e.clk with etc := 0, epochDue := true }
        pwr := { limitLow := e.pwr.limitLow, throttled := e.pwr.limitLow } }, resetCores k)

/-- INTERNAL_RESET_RELEASE (R345, R373, R385, R402): the straps are latched and the boot ROM starts; after a power-on of
VDD_AO it increments EPOCH, which stops at 0xFFFF_FFFF. -/
def execInternalResetRelease (boot : BitVec 2) (yoke testN : Bool) (s : State) : Answer :=
  onEng s fun e =>
    if !e.pins.inReset then e
    else
      { e with
        pins := { e.pins with strapBoot := boot, strapYoke := yoke, strapTestN := testN, inReset := false }
        test := { e.test with byStrap := !testN }
        pwr := { e.pwr with throttled := e.pwr.limitLow }
        clk := { e.clk with
          epoch := if e.clk.epochDue && e.clk.epoch != 0xFFFFFFFF#32 then e.clk.epoch + 1 else e.clk.epoch
          epochDue := false } }

/-- The boot ROM runs and has not ended. -/
def Engine.booting (e : Engine) : Bool :=
  !e.pins.inReset && !e.fw.fenced && !e.jtag.holds && !e.fw.ready && !e.fw.noImage && e.pwr.chip == .active

/-- FIRMWARE_READY (R357, R387): READY, no CRS, ALIVE, the heartbeat and the tally word start, and the bus with them.
Strap 0b11 with the test block locked boots nothing (R373). -/
def execFirmwareReady (s : State) : Answer :=
  onEng s fun e =>
    if !e.booting || (e.pins.strapBoot == 3 && e.pins.strapTestN) then e
    else
      let e := startBus (endCrs { e with fw := { e.fw with ready := true }, pins := { e.pins with aliveOn := true } })
      -- a throttling that began before firmware could log it (R338)
      whenE e.pwr.throttled (attnAll 0x45 0 1 false) e

/-- NO_VALID_IMAGE (R388, R390): the PF is brought up not ready, so that the host can find the part. -/
def execNoValidImage (s : State) : Answer :=
  onEng s fun e => if !e.booting then e else endCrs { e with fw := { e.fw with noImage := true } }

/-- ALIVE_TOGGLE (R387). -/
def execAliveToggle (s : State) : Answer :=
  onEng s fun e =>
    if e.pins.aliveOn then { e with pins := { e.pins with alive := !e.pins.alive } } else e

/-! ## CONTROLLER RESET (R218) -/

/-- CONTROLLER_RESET (R217, R218): fetching stops as a discard stops it (R197), which closes the open batches; every started
item ends with 0x24. -/
def execControllerReset (src : AdminSrc) (s : State) : Answer :=
  onEng s <| runAdmin
    { op := 0x5F, pfOnly := true, used := fun _ => [(32, 0, 32)] } src
    (fun _ c _ => [{ bad := cf c 32 0 32 != 0x5F5F, status := 0x82 }])
    (fun _ _ e =>
      let e := { e with fw := { e.fw with resetComing := true } }
      let e := forAll (allFin 64) (fun h e => forAll ((e.hold h).sqs.filter (·.1 != 0)) (fun q => discard h q.1) e) e
      .ok (endItems (fun _ => true) 0x24 e) 0 [])

/-- A formed completion waits that can still be written (R193, R352). -/
def Engine.owes (e : Engine) : Bool :=
  (allFin 64).any fun h => !e.held h && (e.hold h).cqs.any fun q => !q.2.queue.isEmpty && !q.2.probing

/-- CONTROLLER_RESET_TAKES_EFFECT (R218, R366): not before the completions of the sequence are written. -/
def execControllerResetTakesEffect (s : State) : Answer :=
  onBoth s fun e k => if e.fw.resetComing && !e.owes then (ctrlReset false e, resetCores k) else (e, k)

/-! ## Clocks and fencing -/

/-- PLL_LOCK (R343, R380, R387). -/
def execPllLock (pll : Pll) (s : State) : Answer :=
  onEng s fun e =>
    if e.pins.inReset || (e.pwr.chip == .dormant && !e.pwr.exiting) then e
    else startBus { e with clk := setPll pll true e.clk }

/-- PLL_LOCK_LOSS (R332, R380): in ACTIVE or FALLOW, and for ACLK always, the controller fences itself; in DORMANT the PLL
is only unlocked, and so at all times is that of CCLK, which R380 does not list (DEDUCED, log entry 22). -/
def execPllLockLoss (pll : Pll) (s : State) : Answer :=
  onBoth s fun e k =>
    let lost (e : Engine) : Engine := { e with clk := setPll pll false e.clk }
    if e.pins.inReset || e.fw.fenced || !pllLocked pll e.clk || pll == .cclk
      || (e.pwr.chip == .dormant && pll != .aclk) then (lost e, k)
    else (lost (fence e), resetCores k)

/-- THERMAL_SHUTDOWN (R392): 110 C for QG9208-FB, 120 C for QG9208-FE. -/
def execThermalShutdown (celsius : Int) (s : State) : Answer :=
  fenceWhen (fun _ => decide ((if Config.extendedTemp then 120 else 110) ≤ celsius)) s

/-- FENCE (R272): a yoked controller that cannot send its heartbeat or its tally word. -/
def execFence (s : State) : Answer := fenceWhen (·.yoke.yoked) s

/-! ## The TAP (R405, R406) -/

/-- Select an instruction with its data register. Leaving EXTEST and CLAMP, the controller boots as after CONTROLLER
RESET (R406). -/
def tapSelect (i : TapInstr) (dr : Dword) (e : Engine) : Engine :=
  { e with jtag := { e.jtag with instr := i, dr, holds := false } }

/-- An instruction that the strap allows holds the controller as under CONTROLLER RESET (R406). -/
def tapHold (i : TapInstr) (dr : Dword) (e : Engine) (k : Cores) : Engine × Cores :=
  let e := ctrlReset false e
  ({ e with jtag := { e.jtag with instr := i, dr, holds := true } }, resetCores k)

/-- BYPASS, for its own code, any code of no instruction, and any instruction that is not allowed. -/
def tapBypass (e : Engine) : Engine := tapSelect .bypass 0 e

/-- EXTEST (R405, R406): the boundary register is driven; the cells of TRIP_N observe only. -/
def execExtest (drive : List Bool) (s : State) : Answer :=
  onBoth s fun e k =>
    if e.pins.strapTestN then (tapBypass e, k)
    else tapHold .extest 0 { e with jtag := { e.jtag with boundary := drive } } k

/-- SAMPLE/PRELOAD (R405). -/
def execSamplePreload (preload : List Bool) (s : State) : Answer :=
  onEng s fun e => tapSelect .samplePreload 0 { e with jtag := { e.jtag with boundary := preload } }

/-- IDCODE (R405). -/
def execIdcode (s : State) : Answer := onEng s (tapSelect .idcode 0x192084B7#32)

/-- CLAMP (R405, R406): bypass with the boundary outputs held. -/
def execClamp (s : State) : Answer :=
  onBoth s fun e k => if e.pins.strapTestN then (tapBypass e, k) else tapHold .clamp 0 e k

/-- L2_LOAD (R373, R405): a word into L2 at an offset, while the boot ROM waits for an image with the test block unlocked.
An offset beyond L2 names no memory. -/
def execL2Load (dr : Qword) (s : State) : Answer :=
  let e := s.eng
  let off := fldN dr 0 32
  if !e.unlocked || e.pins.strapBoot != 3 || !({ e with jtag := { e.jtag with holds := false } } : Engine).booting then
    onEng s tapBypass
  else if 2621440 < off + 4 then .fault .l2OffsetBeyond
  else
    onBoth s fun e k =>
      (tapSelect .l2Load 0 e, { k with mem := memPuts k.mem (l2Base + off) (leBytes 4 (fldN dr 32 32)) })

/-- OTP_KEY (R389, R405): the operator key is written once; a second write is ignored. -/
def execOtpKey (key : BitVec 512) (s : State) : Answer :=
  onEng s fun e =>
    if !e.unlocked || e.fw.otp.isSome then tapBypass e
    else tapSelect .otpKey 0 { e with fw := { e.fw with otp := some key } }

/-- BYPASS (R405). -/
def execBypass (_code : Byte) (s : State) : Answer :=
  onEng s fun e => tapBypass e

/-- TAP_RESET (R405, R406): IDCODE is selected; a controller that EXTEST or CLAMP held boots. -/
def execTapReset (s : State) : Answer := onEng s (tapSelect .idcode 0x192084B7#32)

end Sys2Proof.Machine
end

