-- ==== Sys2Proof/Machine/Cic.lean ====
section
/-! DEFINITION. The commands of the core interrupt controller (11_interrupts.md): events of its sources, claims and EOIs,
its registers, storm quarantine. -/

namespace Sys2Proof.Machine

/-- An event that reaches the CIC, or the watcher while the CIC is off (R307, R319). -/
def srcEvent (e : Engine) (n : SrcId) (rise : Bool) (k : Cores) : Cores :=
  if e.watched n then watchHold e.now n (!rise || !(bitOf k.wPend n.val || (k.s n).pending)) k
  else settleCores e (if rise then pendRise e.now n k else pend e.now n k)

/-- CIC_PULSE_EVENT (R303, R305, R307): the next event of a pulse source reaches the CIC. -/
def execCicPulseEvent (n : SrcId) (s : State) : Answer :=
  onBoth s fun e k =>
    if !e.pulses.contains n.val || isReserved n || isLevel n then (e, k)
    else
      let e := { e with pulses := e.pulses.erase n.val }
      (e, srcEvent e n false k)

/-- CIC_LEVEL_RISE (R304, R307). -/
def execCicLevelRise (n : SrcId) (s : State) : Answer :=
  onBoth s fun e k =>
    if !isLevel n || !e.level n || (k.s n).level then (e, k)
    else (e, srcEvent e n true (modSrc n (fun x => { x with level := true }) k))

/-- CIC_LEVEL_FALL (R304, R307, R312): the pending bit clears, the watcher's too. -/
def execCicLevelFall (n : SrcId) (s : State) : Answer :=
  onBoth s fun e k =>
    if !isLevel n || e.level n || !(k.s n).level then (e, k)
    else
      let k := modSrc n (fun x => { x with level := false, pending := false }) k
      if e.watched n then (e, { k with wPend := k.wPend &&& ~~~(1#64 <<< n.val) }) else (e, settleCores e k)

/-- CIC_CLAIM (R313, R321): a read by the core itself claims its highest-ranked deliverable source; by another core it
faults. -/
def execCicClaim (c by_ : CoreId) (s : State) : Answer :=
  onBoth s fun e k =>
    if !executes e k by_ then (e, k)
    else if c != by_ then (e, loadFault by_ (0x40004000 + 16 * c.val) k)
    else
      let n := bestSource e k c
      let v := claimWord e k n
      let e := { e with readValue := v.setWidth 64 }
      match n with
      | none => (e, k)
      | some n => (e, settleCores e (claim c n k))

/-- CIC_EOI (R314, R321). -/
def execCicEoi (c by_ : CoreId) (v : Dword) (s : State) : Answer :=
  onBoth s fun e k =>
    if !executes e k by_ then (e, k)
    else if c != by_ then (e, storeFault by_ (0x40004004 + 16 * c.val) k)
    else (e, settleCores e (eoi e c (fldN v 0 10) k))

/-- A write of a 16-word array by a core: an operation on each source written as 1 that the core may write (R306). -/
def arrayWrite (c : CoreId) (w : Fin 16) (v : Dword) (f : Engine → SrcId → Cores → Cores) (s : State) : Answer :=
  onBoth s fun e k =>
    if !executes e k c then (e, k) else (e, settleCores e (forCores (wordSources c w v) (f e) k))

/-- CIC_PEND_SET (R307). -/
def execCicPendSet (c : CoreId) (w : Fin 16) (v : Dword) (s : State) : Answer :=
  arrayWrite c w v (fun e n => pend e.now n) s

/-- CIC_PEND_CLR (R307): ignored for a level source whose level is high. -/
def execCicPendClr (c : CoreId) (w : Fin 16) (v : Dword) (s : State) : Answer :=
  arrayWrite c w v (fun e n k =>
    if isLevel n && e.level n then k else modSrc n (fun x => { x with pending := false }) k) s

/-- CIC_MASK_SET (R308). -/
def execCicMaskSet (c : CoreId) (w : Fin 16) (v : Dword) (s : State) : Answer :=
  arrayWrite c w v (fun _ => setMask true) s

/-- CIC_MASK_CLR (R308, R317). -/
def execCicMaskClr (c : CoreId) (w : Fin 16) (v : Dword) (s : State) : Answer :=
  arrayWrite c w v (fun _ => setMask false) s

/-- CIC_WAKE_SET (R318, R321): sources 0 to 63 have wake bits. -/
def execCicWakeSet (c : CoreId) (w : Fin 16) (v : Dword) (s : State) : Answer :=
  arrayWrite c w v (fun _ n => modSrc n fun x => { x with wake := x.wake || decide (n.val < 64) }) s

/-- CIC_WAKE_CLR (R318, R321). -/
def execCicWakeClr (c : CoreId) (w : Fin 16) (v : Dword) (s : State) : Answer :=
  arrayWrite c w v (fun _ n => modSrc n fun x => { x with wake := false }) s

/-- CIC_QUAR (R317): a 1 ends the quarantine and leaves the mask set. -/
def execCicQuar (c : CoreId) (w : Fin 16) (v : Dword) (s : State) : Answer :=
  arrayWrite c w v (fun _ n => modSrc n fun x => { x with quar := false }) s

/-- CIC_ROUTE (R306, R311). -/
def execCicRoute (c : CoreId) (n : SrcId) (v : Dword) (s : State) : Answer :=
  onBoth s fun e k =>
    if !executes e k c || !seesSrc c n then (e, k) else (e, settleCores e (setRoute n v k))

/-- CIC_PRIO (R309, R321): sources 384 to 511 only. -/
def execCicPrio (c : CoreId) (n : SrcId) (v : Dword) (s : State) : Answer :=
  onBoth s fun e k =>
    if !executes e k c || !seesSrc c n || decide (n.val < 384) then (e, k)
    else (e, settleCores e (modSrc n (fun x => { x with prio := fld v 0 4 }) k))

/-- STORM_QUARANTINE (R317): mask and CIC_QUAR set together, and an attention entry for the PF. -/
def execStormQuarantine (n : SrcId) (s : State) : Answer :=
  onBoth s fun e k =>
    let x := k.s n
    if !x.hot || x.masked then (e, k)
    else
      (attn pf 0x34 (index := BitVec.ofNat 32 n.val) (e := e),
        settleCores e (modSrc n (fun x => { x with masked := true, quar := true, steady := false, hot := false }) k))

end Sys2Proof.Machine
end

