-- ==== Sys2Proof/Machine/Faults.lean ====
section
/-! DEFINITION. The commands of faults and their recovery (09_faults.md, 01_architecture.md R13 to R20): plot faults, sparing,
clears, uncorrectable errors, port-lane faults, firmware restarts, the end of a plot stall. -/

namespace Sys2Proof.Machine

/-- PLOT_FAULT_DETECTED (R18, R16, R258): the fault that control 17 forced clears the control (R403). -/
def execPlotFaultDetected (p : PlotId) (_fault : PlotFault) (s : State) : Answer :=
  onEng s fun e =>
    let q := e.plot p
    if !e.live || !q.powered || q.retired || q.isolated then e
    else
      let forced := (e.ctl 17).on && fldN (e.ctl 17).p1 0 9 == p.val
      plotFault p (whenE forced (ctlOff 17) e)

/-- SPARE (R20, R258, R259): one at a time, in order of detection. -/
def execSpare (s : State) : Answer :=
  onEng s fun e =>
    match e.toSpare with
    | [] => e
    | p :: rest => if !e.live then e else sparePlot p { e with toSpare := rest }

/-- PLOT_CLEAR_COMPLETE (R16, R19, R232): the plot is assigned to the holding that takes it, or becomes free. -/
def execPlotClearComplete (p : PlotId) (s : State) : Answer :=
  onEng s fun e =>
    let q := e.plot p
    if !q.clearing then e
    else
      let old := q.holding
      match q.clearFor with
      | some h =>
        let e := modPlot p (fun q => { q with
          clearing := false, clearFor := none, allotted := true, holding := h, ports := (e.hold h).portSet
          base := 0, count := 0, cache := [], walks := [] }) e
        sweepPlots old (sweepPlots h e)
      | none =>
        let e := modPlot p (fun q => { q with
          clearing := false, allotted := false, holding := pf, base := 0, count := 0, ports := 0, cache := [], walks := [] }) e
        sweepPlots old e

/-- ECC_UNCORRECTABLE (R255). An entry of the always-on SRAM is restored from the partner's mirror on a yoked pair. -/
def execEccUncorrectable (site : EccSite) (s : State) : Answer :=
  onBoth s fun e k =>
    if e.pins.inReset || e.fw.fenced then (e, k)
    else match site with
    | .entryCache f sq => (discard f sq e, k)
    | .portBuffer p => (discardPacket p e, k)
    | .sheafBuffer p place => (retireBuffer p place (failBuffer p place e), k)
    | .firmwareMemory c => firmwareFault c e k
    | .userMemory c store =>
      if !userCore c || !executes e k c then (e, k)
      else
        let (v, e) := freshValue e
        (e, if store then storeFault c v.toNat k else loadFault c v.toNat k)
    | .hubEntry n => (if e.yoke.yoked then e else treeWork (failEntry n) e, k)
    | .tripRule n => (if e.yoke.yoked then e else failRule n e, k)
    | .journal partner h =>
      (modYoke (fun y =>
        if partner then { y with resyncPartner := (y.resyncPartner.filter (· != h)) ++ [h] }
        else { y with resyncLocal := (y.resyncLocal.filter (· != h)) ++ [h] }) e, k)

/-- JOURNAL_RESYNC_COMPLETE (R255): the half concerned is again as its owner has it. -/
def execJournalResyncComplete (s : State) : Answer :=
  onEng s (modYoke fun y => { y with resyncLocal := [], resyncPartner := [] })

/-- PORT_LANE_FAULT (R256): the port restarts its link layer at LMEND with its lock kept; a second fault within 1 s is a
failed root-port link. -/
def execPortLaneFault (p : PortId) (s : State) : Answer :=
  onEng s <| treeWork fun e =>
    let l := (e.port p).link
    let soon := match l.laneFault with | some t => decide (e.now < t + 1000000000) | none => false
    let e := modLink p (fun l => { l with laneFault := some e.now }) e
    if l.state != .lup && l.state != .lmend then e
    else
      let e := failOutstanding p (modArb p (fun a => { a with grant := none }) e)
      if soon then failLink p e
      else modLink p (fun l => { l with state := .lmend, scrub := true }) e

/-- DATAPATH_SCRUB_COMPLETE (R256): the port goes on; a lock lost meanwhile leaves it in LMEND. -/
def execDatapathScrubComplete (p : PortId) (s : State) : Answer :=
  onEng s fun e =>
    let l := (e.port p).link
    if !l.scrub then e
    else if !l.lock then modLink p (fun l => { l with scrub := false }) e
    else
      countPort p 2 (modRh p (fun r => { r with recoveries := r.recoveries + 1 })
        (modLink p (fun l => { l with scrub := false, state := if l.state == .lmend then .lup else l.state }) e))

/-- FIRMWARE_WATCHDOG_EXPIRY (R225, R257). -/
def execFirmwareWatchdogExpiry (c : CoreId) (s : State) : Answer := onBoth s fun e k => firmwareFault c e k

/-- FIRMWARE_RESTART_COMPLETE (R225, R223): the commands that firmware had taken resume their waits, and the changes that
stood meanwhile are acted on. -/
def execFirmwareRestartComplete (s : State) : Answer :=
  onEng s <| treeWork fun e =>
    if !e.fw.restarting then e
    else
      let e := { e with fw := { e.fw with restarting := false, restarts := e.fw.restarts + 1 } }
      let e := attnAll 0x42 (BitVec.ofNat 32 e.fw.restartCore) (BitVec.ofNat 32 e.fw.restarts) false e
      -- the commands whose wait ended meanwhile complete, in the order in which they started
      let e := forAll e.fw.running (fun r e =>
        match r.due with
        | some (status, dword2, data, wake) => endCommand r status dword2 data wake e
        | none => e) e
      forAll (allFin 32) rootChanges e

/-- PLOT_STALL_END (R403): control 16 has acted and clears, also when its plot has failed meanwhile. -/
def execPlotStallEnd (p : PlotId) (s : State) : Answer :=
  onEng s fun e =>
    whenE (fldN (e.ctl 16).p1 0 9 == p.val) (ctlOff 16) (modPlot p (fun q => { q with stalled := false }) e)

end Sys2Proof.Machine
end

