-- ==== Sys2Proof/Machine/Power.lean ====
section
/-! DEFINITION. The commands of the power manager (12_power_time.md): POWER STATE and its preparation, WFI, commit, wake and
exit, the inrush governor, throttling, the wake timer, the watcher's wake requests. -/

namespace Sys2Proof.Machine

/-! ## POWER STATE and SET RETENTION -/

/-- What POWER STATE starts for FALLOW or DORMANT (R325): yoked ports are offered to the partner, every SQ is discarded
with its head mirror written, and the wait for started items begins. -/
def beginPrep (src : AdminSrc) (s : Nat) (w : Dword) (e : Engine) : Engine :=
  let give := (allFin 32).filter fun p =>
    e.yoke.yoked && bitOf e.yoke.yokedPorts p.val && (e.port p).leads && !bitOf w p.val
  let e := forAll give (fun p => toPartner (.handOver (.port p))) e
  let e := { e with pwr := { e.pwr with prep := some (src, s, w), prepDrain := true } }
  forAll e.created (fun h e => forAll ((e.hold h).sqs.map (·.1)) (fun n e => writeMirror h n (discard h n e)) e) e

/-- POWER_STATE (R217, R323, R325, R329). -/
def execPowerState (src : AdminSrc) (s : State) : Answer :=
  onBoth s fun e k =>
    let e := runAdmin
      { op := 0x48, pfOnly := true, used := fun c => [(32, 0, 8)] ++ if cf c 32 0 8 = 1 then [(36, 0, 32)] else [] } src
      (fun _ c _ => [{ bad := decide (2 < cf c 32 0 8), status := 0x82 }])
      (fun _ c e =>
        let st := cf c 32 0 8
        let w : Dword := if st = 1 then fld c 288 32 else 0
        if st = 0 then .ok e 0 []
        else if e.pwr.prep.isSome then .fail e 0x87 0
        else
          let (short, e) := if st = 1 then watchShort w e else (false, e)
          if short then .fail e 0x84 0 else .wait (beginPrep src st w e) .power) e
    (advancePrep k (sweepPrep e), k)

/-- POWER_STATE_DRAIN_TIMEOUT (R325): started items remain after 2 ms. -/
def execPowerStateDrainTimeout (s : State) : Answer :=
  onBoth s fun e k =>
    if !e.pwr.prepDrain then (e, k)
    else
      let e' := sweepPrep e
      (if e'.pwr.prepDrain then failPrep e else advancePrep k e', k)

/-- SLEEP_REQUEST_TIMEOUT (R325, R326): 10 ms after SLEEP was set. -/
def execSleepRequestTimeout (s : State) : Answer :=
  onBoth s fun e k =>
    if e.pwr.prep.isNone || e.pwr.prepDrain || !e.pwr.sleep || e.pwr.held.isSome then (e, k)
    else (if usersAsleep e k then finishPrep e else failPrep e, k)

/-- SET_RETENTION (R217, R336). -/
def execSetRetention (src : AdminSrc) (s : State) : Answer :=
  onEng s <| runAdmin
    { op := 0x49, pfOnly := true, used := fun _ => [(32, 0, 6), (34, 0, 10)] } src
    (fun _ _ _ => [])
    (fun _ c e =>
      .ok (mirror (.retention (fld c 256 6) (fld c 272 10))
        { e with pwr := { e.pwr with retPlots := fld c 256 6, retL2 := fld c 272 10 } }) 0 [])

/-! ## WFI, commit, wake and exit -/

/-- Cores 1 to 5 are ready for a commit: in WFI with mode 1 or more, or stopped user cores (R324). -/
def othersReady (e : Engine) (k : Cores) : Bool :=
  (allFin 6).all fun c => c.val == 0 || ((k.at c).wfi && decide (1 ≤ e.coreMode c))
    || (userCore c && (k.at c).state == .stopped)

/-- CORE_WFI (R299, R310, R324, R326). -/
def execCoreWfi (c : CoreId) (s : State) : Answer :=
  onBoth s fun e k =>
    if !executes e k c then (e, k)
    else
      let k := modCore c (fun x => { x with wfi := true }) k
      let e := advancePrep k e
      let m := (e.pwr.mode[c.val]).toNat
      let e := if c.val = 0 && decide (2 ≤ m) then
          (if othersReady e k then { e with pwr := { e.pwr with request := some m } }
          else { e with pwr := { e.pwr with notReady := true } })
        else e
      (e, settleCores e k)

/-- POWER_COMMIT (R322, R323, R327): on one ACLK edge the power manager samples the wake events; an entry that proceeds loses
the cores' registers and what L2 does not retain. -/
def execPowerCommit (s : State) : Answer :=
  onBoth s fun e k =>
    match e.pwr.request with
    | none => (e, k)
    | some m =>
      if (allFin 64).any (k.wakes ·) || e.timerDue || (m == 2 && e.pfGo) then
        let e := abortCommit e
        (e, settleCores e (modCore 0 (fun x => { x with wfi := false }) k))
      else
        let e' := commit m e
        ({ e' with free := e'.free + 240 }, loseRegs e'.free (loseL2 e.pwr.retL2 k))

/-- ENTRY_SEQUENCE_END (R328, R342): a wake that pended during the entry starts the exit at once. -/
def execEntrySequenceEnd (s : State) : Answer :=
  onEng s fun e =>
    if !e.pwr.entering then e
    else
      let e := { e with
        pwr := { e.pwr with entering := false, pendedWake := none }
        clk := if e.pwr.chip == .dormant then
            { e.clk with pclk := false, lclk := false, bclk := false, cclk := false, tclk := false } else e.clk }
      match s.eng.pwr.pendedWake with
      | some w => startExit w e
      | none => e

/-- WAKE_EVENT (R318, R333): a pending wake starts the exit; a source without an eligible target wakes nothing. -/
def execWakeEvent (src : WakeSrc) (s : State) : Answer :=
  onBoth s fun e k =>
    let pends := match src with
      | .source n => k.wakes n && (allFin 6).any (k.eligible (finOf 512 n.val))
      | .timer => e.timerDue
      | .mailbox => e.pwr.chip == .fallow && e.pfGo
    if !pends || e.pwr.chip == .active then (e, k)
    else if src == .timer then (fireTimer e, k) else (startWake src e, k)

/-- WAKE_EXIT_DONE (R302, R319, R334, R335): every governor step has run, and from DORMANT every PLL is locked. Cores 0 to
3 run; cores 4 and 5 wake under their own modes. -/
def execWakeExitDone (s : State) : Answer :=
  onBoth s fun e k =>
    if !e.pwr.exiting || !e.pwr.gov.isEmpty || (e.pwr.leaving == .dormant && !e.allLocked) then (e, k)
    else
      let e := treeWork exitDone e
      let k := handOver k
      let k := forCores ((allFin 6).filter fun c => !userCore c) (fun c => modCore c fun x => { x with wfi := false }) k
      (e, settleCores e k)

/-- WATCHER_WAKE_REQUEST (R310, R318): a pending wake source whose eligible targets all sleep wakes the lowest of them; in
FALLOW and DORMANT it wakes the chip. -/
def execWatcherWakeRequest (n : Fin 64) (s : State) : Answer :=
  onBoth s fun e k =>
    if !k.wakes n then (e, k)
    else
      let able := (allFin 6).filter fun c => k.eligible (finOf 512 n.val) c
      match able with
      | [] => (e, k)
      | c :: _ =>
        if e.pwr.chip != .active then (startWake (.source n) e, k)
        else if able.any (awake e k ·) || e.pwr.request.isSome then (e, k)
        else (e, settleCores e (modCore c (fun x => { x with wfi := false }) k))

/-! ## The governor -/

/-- GOVERNOR_STEP (R337): nothing starts while VDD droops. -/
def execGovernorStep (s : State) : Answer :=
  onEng s fun e => if e.pwr.droop || (e.pwr.chip != .active && !e.pwr.exiting) then e else govStep e

/-- VDD_DROOP (R337). -/
def execVddDroop (s : State) : Answer := onEng s fun e => { e with pwr := { e.pwr with droop := true } }

/-- VDD_DROOP_RECOVER (R337). -/
def execVddDroopRecover (s : State) : Answer := onEng s fun e => { e with pwr := { e.pwr with droop := false } }

/-! ## Throttling (R338) -/

/-- A cause has changed: throttling begins at once, and is logged. -/
def beginThrottle (e : Engine) : Engine :=
  if (e.pwr.therm || e.pwr.limitLow) && !e.pwr.throttled then
    attnAll 0x45 0 1 false { e with pwr := { e.pwr with throttled := true } }
  else e

/-- THERM_ALERT (R338): driven low above the threshold, released 3 C below it. -/
def execThermAlert (celsius : Int) (s : State) : Answer :=
  onEng s fun e =>
    let t : Int := if Config.extendedTemp then 100 else 90
    if e.pins.inReset || e.fw.fenced then e
    else if t < celsius then beginThrottle { e with pwr := { e.pwr with therm := true } }
    else if celsius ≤ t - 3 then { e with pwr := { e.pwr with therm := false } }
    else e

/-- PWR_LIMIT_CHANGE (R338). -/
def execPwrLimitChange (low : Bool) (s : State) : Answer :=
  onEng s fun e =>
    let e := { e with pwr := { e.pwr with limitLow := low } }
    if e.pins.inReset || e.fw.fenced then e else beginThrottle e

/-- THROTTLE_END (R338): 1 ms after both causes have cleared. -/
def execThrottleEnd (s : State) : Answer :=
  onEng s fun e =>
    if !e.pwr.throttled || e.pwr.therm || e.pwr.limitLow then e
    else attnAll 0x45 0 0 false { e with pwr := { e.pwr with throttled := false } }

/-! ## The wake timer (R341) and L2 (R332) -/

/-- PWR_WAKE_FIRE (R333, R341): at or above the compare value ARM clears and the wake event is raised. -/
def execPwrWakeFire (s : State) : Answer := onEng s fun e => if e.timerDue then fireTimer e else e

/-- PWR_WAKE_HI_WRITE (R341): CMP_HI and ARM in one write; writes by cores 4 and 5 are ignored and counted. -/
def execPwrWakeHiWrite (c : CoreId) (v : Dword) (s : State) : Answer :=
  onBoth s fun e k =>
    if !executes e k c then (e, k)
    else if userCore c then (countDev 6 e, k)
    else ({ e with pwr := { e.pwr with wakeHi := fld v 0 31, wakeArm := bitOf v 31 } }, k)

/-- PME_TURN_OFF (R332): the link reaches L2; in DORMANT the PCIe block then powers down. A wake that has pended drives
PE_WAKE_N low. -/
def execPmeTurnOff (s : State) : Answer :=
  onEng s fun e =>
    if e.pcie.link != .l0 then e
    else
      let e := setPcieLink .l2 e
      { e with
        clk := if e.pwr.chip == .dormant then { e.clk with hclk := false } else e.clk
        pins := { e.pins with peWake := e.pins.peWake || e.pwr.exiting || e.pwr.pendedWake.isSome } }

end Sys2Proof.Machine
end

