-- ==== Sys2Proof/Machine/Threads.lean ====
section
/-! DEFINITION. The commands of the task dispatcher (10_cores.md, R295 to R302) and of Skelku (R293, R294). -/

namespace Sys2Proof.Machine

/-! ## Dispatcher registers -/

/-- A write by core `c` to a register of thread `t`: cores 4 and 5 fault on threads 0 to 191 (R302). -/
def threadWrite (c : CoreId) (t : ThreadId) (off : Nat) (f : Engine → Cores → Cores) (s : State) : Answer :=
  onBoth s fun e k =>
    if !executes e k c then (e, k)
    else if userCore c && decide (t.val < 192) then (e, storeFault c (0x40010000 + off + 4 * t.val) k)
    else (e, settleCores e (f e k))

/-- DSP_FLAG_SET (R297). -/
def execDspFlagSet (c : CoreId) (t : ThreadId) (v : Dword) (s : State) : Answer :=
  threadWrite c t 0x400 (fun _ => setFlags t v) s

/-- DSP_FLAG_CLR (R297). -/
def execDspFlagClr (c : CoreId) (t : ThreadId) (v : Dword) (s : State) : Answer :=
  threadWrite c t 0x800 (fun _ => modThread t fun x => { x with flags := x.flags &&& ~~~v }) s

/-- DSP_WAIT (R296, R297). -/
def execDspWait (c : CoreId) (t : ThreadId) (mask : Dword) (s : State) : Answer :=
  threadWrite c t 0xC00 (fun _ => waitThread c t mask) s

/-- START (R296). -/
def execStart (c : CoreId) (t : ThreadId) (s : State) : Answer := threadWrite c t 0x1400 (fun _ => startThread t) s

/-- STOP (R296). -/
def execStop (c : CoreId) (t : ThreadId) (s : State) : Answer := threadWrite c t 0x1400 (fun _ => stopThread t) s

/-- DSP_CTX (R301, R302): a write that breaks R301 is ignored and sets ERR. -/
def execDspCtx (c : CoreId) (t : ThreadId) (v : Dword) (s : State) : Answer :=
  threadWrite c t 0x1800 (fun _ k =>
    if ctxOkFor t v.toNat then modThread t (fun x => { x with ctx := v }) k else threadErr t k) s

/-- A write by core `by_` to a dispatcher register of core `c`: cores 4 and 5 fault on those of cores 0 to 3 (R302). -/
def coreWrite (c by_ : CoreId) (off : Nat) (f : Engine → Cores → Cores) (s : State) : Answer :=
  onBoth s fun e k =>
    if !executes e k by_ then (e, k)
    else if userCore by_ && !userCore c then (e, storeFault by_ (0x40012000 + off + 32 * c.val) k)
    else (e, settleCores e (f e k))

/-- DSP_RUN (R296, R299): writable from the core itself in INTERRUPT mode. -/
def execDspRun (c by_ : CoreId) (v : Dword) (s : State) : Answer :=
  coreWrite c by_ 4 (fun _ k =>
    let x := k.at c
    let n := fldN v 0 9
    let refuse (k : Cores) : Cores := modCore c (fun x => { x with refused := true }) k
    let release (k : Cores) : Cores :=
      match x.run with
      | some old => makeReady old (modCore c (fun x => { x with run := none }) k)
      | none => k
    if c != by_ then k
    else if x.preempt then refuse k
    else if n = 0x1FF then modCore c (fun x => { x with refused := false }) (release k)
    else match finOf? 256 n with
    | none => refuse k
    | some t =>
      if (k.th t).state == .ready && bitOf (k.th t).affinity c.val && x.enable then
        modThread t (fun y => { y with state := .running, core := c.val })
          (modCore c (fun x => { x with run := some t, refused := false }) (release k))
      else refuse k) s

/-- DSP_MODE (R298, R299, R302). -/
def execDspMode (c by_ : CoreId) (v : Dword) (s : State) : Answer :=
  coreWrite c by_ 8 (fun _ => modCore c fun x => { x with preempt := bitOf v 0, enable := bitOf v 1 }) s

/-- DISPATCH_SWITCH (R300, R301). -/
def execDispatchSwitch (c : CoreId) (s : State) : Answer :=
  onBoth s fun e k => if maySwitch e k c then (e, settleCores e (switchCore e c k)) else (e, k)

/-- A thread that a Skelku service blocked goes on with a result code. -/
def wakeThread (t : ThreadId) (code : Dword) (k : Cores) : Cores :=
  if (k.th t).state == .waiting then makeReady t (setThreadX t 10 code k) else k

/-- A timer of core 4 or 5 fires for a user thread only (R302). -/
def timerMay (c : CoreId) (thread : Nat) : Bool := !userCore c || decide (192 ≤ thread)

/-- DSP_TIMER_FIRE (R293, R302): the core's dispatcher timer reaches its compare value, and Skelku serves the timers of its
table on the core that are due, and programs the nearest one left (log entry 21). -/
def execDspTimerFire (c : CoreId) (s : State) : Answer :=
  onBoth s fun e k =>
    let x := k.at c
    let fires := x.tmrArm && decide (x.tmr.toNat ≤ e.now) && e.pwr.chip != .dormant && timerMay c x.tmrThread.toNat
    if !fires then (e, k)
    else
      let due := k.timers.filter fun y => y.core == c && decide (y.due ≤ e.now)
      let k := { modCore c (fun x => { x with tmrArm := false }) k with timers := k.timers.filter fun y => !due.contains y }
      let k := forCores due (fun y => wakeThread y.thread (if y.timeout then 1 else 0)) k
      (e, settleCores e (setFlags (finOf 256 x.tmrThread.toNat) (1#32 <<< x.tmrFlag.toNat) k))

/-! ## Skelku services (R293) -/

/-- The services of an image that runs: the caller is the running thread of a user core, in user mode. -/
def caller (e : Engine) (k : Cores) (c : CoreId) : Option ThreadId :=
  if userCore c && executes e k c && !(k.at c).regs.machine && (k.at c).image.isSome then (k.at c).run else none

/-- A service: the ecall from user mode traps, with cause 8, to Skelku (R291, R293), which returns past it, and the service
runs with its caller. -/
def service (c : CoreId) (f : Engine → ThreadId → Cores → Engine × Cores) (s : State) : Answer :=
  onBoth s fun e k =>
    match caller e k c with
    | none => (e, k)
    | some t =>
      let r := f e t (handledTrap c 8 ((k.at c).regs.pc + 4) k)
      (r.1, settleCores r.1 r.2)

/-- Results: OK. -/
def skOk : Dword := 0
/-- TIMEOUT. -/
def skTimeout : Dword := 1
/-- INVALID. -/
def skInvalid : Dword := 2
/-- DENIED. -/
def skDenied : Dword := 3
/-- FAULT. -/
def skFault : Dword := 4

/-- Return a result code in a0. -/
def ret (c : CoreId) (code : Dword) : Cores → Cores := setX c 10 code

/-- A user thread number, or none (R293). -/
def userThread (v : Dword) : Option ThreadId := if decide (192 ≤ v.toNat) then finOf? 256 v.toNat else none

/-- SKELKU_YIELD (R293): the caller goes behind READY threads of its priority. -/
def execSkelkuYield (c : CoreId) (s : State) : Answer :=
  service c (fun e t k => (e, makeReady t (leaveCore t true (ret c skOk k)))) s

/-- SKELKU_WAIT (R293, R297): mode 1 is ALL; a timeout of 0 is none. -/
def execSkelkuWait (c : CoreId) (mask mode : Dword) (timeout : Qword) (s : State) : Answer :=
  service c (fun e t k =>
    let k := modThread t (fun x => { x with all := mode == 1, call := .wait }) (ret c skOk k)
    let k := waitThread c t mask k
    if (k.th t).state == .waiting then
      (e, if timeout = 0 then k else
        { k with timers := k.timers ++ [{ core := c, thread := t, due := e.now + timeout.toNat, timeout := true }] })
    else (e, modThread t (fun x => { x with call := .none }) k)) s

/-- SKELKU_SIGNAL (R293). -/
def execSkelkuSignal (c : CoreId) (t flags : Dword) (s : State) : Answer :=
  service c (fun e _ k =>
    match userThread t with
    | none => (e, ret c skInvalid k)
    | some u => (e, setFlags u flags (ret c skOk k))) s

/-- SKELKU_CLEAR (R293). -/
def execSkelkuClear (c : CoreId) (flags : Dword) (s : State) : Answer :=
  service c (fun e t k => (e, modThread t (fun x => { x with flags := x.flags &&& ~~~flags }) (ret c skOk k))) s

/-- SKELKU_START (R293, R301): configuration, then pc, mstatus, x2 and VALID in the thread's block, then START. mstatus
names user mode; its other bits, and the block's address where the thread has none yet, are Skelku's (free values). -/
def execSkelkuStart (c : CoreId) (t entry stack cfg : Dword) (s : State) : Answer :=
  service c (fun e _ k =>
    match userThread t with
    | none => (e, ret c skInvalid k)
    | some u =>
      if (k.th u).state != .dormant || fld cfg 8 6 &&& 0x0F#6 != 0 then (e, ret c skInvalid k)
      else
        let (v, e) := freshValue e
        let (w, e) := freshValue e
        let a := if ctxOkFor u (k.th u).ctx.toNat then (k.th u).ctx
          else BitVec.ofNat 32 (tcmBase c + 4 * (w.toNat % 65500))
        let k := modThread u (fun x => { x with
          prio := fld cfg 0 5, affinity := affinityOf u cfg, ctx := a }) (ret c skOk k)
        let m := memPuts k.mem a.toNat (wordBytes entry ++ wordBytes (v &&& ~~~0x1800#32))
        let m := memPuts m (a.toNat + 12) (wordBytes stack)
        let m := memPut m (a.toNat + 138) (memByte m (a.toNat + 138) ||| 1)
        (e, startThread u { k with mem := m })) s

/-- SKELKU_STOP (R293). -/
def execSkelkuStop (c : CoreId) (t : Dword) (s : State) : Answer :=
  service c (fun e _ k =>
    match userThread t with
    | none => (e, ret c skInvalid k)
    | some u => (e, stopThread u (ret c skOk k))) s

/-- SKELKU_SET_PRIORITY (R293). -/
def execSkelkuSetPriority (c : CoreId) (t prio : Dword) (s : State) : Answer :=
  service c (fun e _ k =>
    match userThread t with
    | none => (e, ret c skInvalid k)
    | some u =>
      if 32 ≤ prio.toNat then (e, ret c skInvalid k)
      else (e, modThread u (fun x => { x with prio := fld prio 0 5 }) (ret c skOk k))) s

/-- SKELKU_TIME (R293): ETC in a0 and a1, EPOCH in a2. -/
def execSkelkuTime (c : CoreId) (s : State) : Answer :=
  service c (fun e _ k =>
    (e, setX c 12 e.clk.epoch (setX c 11 (fld e.clk.etc 32 32) (setX c 10 (fld e.clk.etc 0 32) k)))) s

/-- The caller blocks in a service. -/
def block (t : ThreadId) (call : SkCall) (k : Cores) : Cores :=
  leaveCore t true (modThread t (fun x => { x with state := .waiting, call := call }) k)

/-- SKELKU_SLEEP (R293). -/
def execSkelkuSleep (c : CoreId) (ns : Qword) (s : State) : Answer :=
  service c (fun e t k =>
    let k := block t .sleep (ret c skOk k)
    (e, { k with timers := k.timers ++ [{ core := c, thread := t, due := e.now + ns.toNat, timeout := false }] })) s

/-- SKELKU_HOST_COPY (R289, R293): inside the image's host window and the core's rights in TCM and L2, else DENIED; the
caller waits for the end. -/
def execSkelkuHostCopy (c : CoreId) (dir offset local_ len : Dword) (s : State) : Answer :=
  service c (fun e t k =>
    let a := local_.toNat
    let n := len.toNat
    let fits := match (k.at c).image with
      | some i => i.winBase != 0 && decide (offset.toNat + n ≤ i.winSize)
      | none => false
    let base := match (k.at c).image with | some i => i.winBase + offset.setWidth 64 | none => 0
    if 1 < dir.toNat then (e, ret c skInvalid k)
    else if !fits || !isMemory a n || !(k.at c).may c (if dir = 0 then .load else .store) a n then (e, ret c skDenied k)
    else
      let k := block t .copy (modThread t (fun x => { x with copy := some { toHost := dir == 0, addr := local_, len := n } })
        (ret c skOk k))
      if dir = 0 then (hostWrite pf base (memGet k.mem a n) false e, k)
      else (hostRead pf base n (.hostCopy t) e, k)) s

/-- HOST_COPY_COMPLETE (R293): a copy to the host ends OK; one from the host brings the data, or FAULT. -/
def execHostCopyComplete (t : ThreadId) (data : ReadData) (s : State) : Answer :=
  onBoth s fun e k =>
    match (k.th t).copy with
    | none => (staleRead (.hostCopy t) e, k)
    | some x =>
      let past (code : Dword) (k : Cores) : Cores := wakeThread t code (modThread t (fun y => { y with copy := none }) k)
      if x.toHost then (e, settleCores e (past skOk k))
      else match takeRead (.hostCopy t) e with
      | none => (staleRead (.hostCopy t) e, k)
      | some e =>
        match brought e pf data with
        | none => (e, settleCores e (past skFault k))
        | some bs => (e, settleCores e (past skOk { k with mem := memPuts k.mem x.addr.toNat (bs.take x.len) }))

/-- SKELKU_ATTACH (R293, R294): the source goes to the caller's core, unmasked, and its events to the thread's flag; DENIED
outside the user set. -/
def execSkelkuAttach (c : CoreId) (source t flag : Dword) (s : State) : Answer :=
  service c (fun e _ k =>
    match finOf? 512 source.toNat, userThread t with
    | some n, some u =>
      if !isUser n then (e, ret c skDenied k)
      else if 32 ≤ flag.toNat then (e, ret c skInvalid k)
      else
        let k := setMask false n (setRoute n (BitVec.ofNat 32 (2 ^ c.val)) (ret c skOk k))
        (e, { k with attach := mput k.attach n.val (u, flag.toNat) })
    | some n, none => (e, ret c (if isUser n then skInvalid else skDenied) k)
    | none, _ => (e, ret c skDenied k)) s

/-- SKELKU_REARM (R293, R294): CIC_MASK_CLR of the source. -/
def execSkelkuRearm (c : CoreId) (source : Dword) (s : State) : Answer :=
  service c (fun e _ k =>
    match finOf? 512 source.toNat with
    | some n => (e, whenC (isUser n) (setMask false n) (ret c skOk k))
    | none => (e, ret c skOk k)) s

/-- WINDOW_LOAD (R289): a load from slot k of the ring window reads the PF's ring that the header names; from an unused
slot, from beyond the ring, or with a failed read it takes a load access fault. The value goes to the core. -/
def execWindowLoad (c : CoreId) (addr : Dword) (data : ReadData) (s : State) : Answer :=
  onBoth s fun e k =>
    if !executes e k c || fldN addr 28 4 != 5 then (e, k)
    else if !(k.at c).may c .load addr.toNat 4 then (e, loadFault c addr.toNat k)
    else
      let slot := fldN addr 25 3
      let off := fldN addr 0 25
      let ring : Option (Qword × Nat) :=
        match (k.at c).image with
        | none => none
        | some i =>
          if slot = 7 then
            (if i.alarmSlot then (e.hold pf).alarmRing.map fun r => (r.par.base, 16 * r.par.size) else none)
          else match i.slots[slot]? with
          | none => none
          | some n =>
            if n = 0xFF then none else (mget (e.hold pf).rings n).map fun r => (r.par.base, r.par.size)
      match ring with
      | none => (e, loadFault c addr.toNat k)
      | some (base, size) =>
        if size < off + 4 then (e, loadFault c addr.toNat k)
        else
          let e := if e.held pf || e.fw.fenced then e
            else emitHost (.read pf (base + BitVec.ofNat 64 off) 4 (.window c)) e
          match brought e pf data with
          | none => (e, loadFault c addr.toNat k)
          | some bs => ({ e with readValue := BitVec.ofNat 64 (leAt 0 4 bs) }, k)

end Sys2Proof.Machine
end

