-- ==== Sys2Proof/Machine/RegOps.lean ====
section
/-! DEFINITION. The register map: which block answers an access and whether it is off (R339, R340), what every register of
BAR0, of the CIC, the dispatcher and the power manager reads (R302, R321, R341, R359 to R365, R396 to R402). -/

namespace Sys2Proof.Machine

/-- The bytes of a write that are enabled; the others 0 (R358). -/
def enabled (v : Dword) (be : BitVec 4) : Dword :=
  BitVec.ofNat 32 (((List.range 4).map fun i => if bitOf be i then fldN v (8 * i) 8 * 2 ^ (8 * i) else 0).sum)

/-- A register after a write of its enabled bytes (R358). -/
def merge (old v : Dword) (be : BitVec 4) : Dword :=
  let m := enabled 0xFFFFFFFF#32 be
  (old &&& ~~~m) ||| (v &&& m)

/-- The index of a register in an array of `n` with a stride, from an offset. -/
def regIndex (off base stride n : Nat) : Option Nat :=
  if base ≤ off && decide (off < base + stride * n) && (off - base) % stride == 0 then some ((off - base) / stride) else none

/-! ## Blocks that are off (R339, R340) -/

/-- Whether the block with an id is off (R339, R340, R342): in FALLOW what R322 and R342 do not keep running, in DORMANT
every block of the list, in ACTIVE a core in its power gate. -/
def blockOff (e : Engine) (k : Cores) (id : Nat) : Bool :=
  match e.pwr.chip with
  | .active =>
    match finOf? 6 (id - 0x70) with
    | some c => decide (0x70 ≤ id) && (k.at c).wfi && decide (1 ≤ e.coreMode c)
    | none => false
  | .fallow =>
    if 0x20 ≤ id && decide (id ≤ 0x30) then (allFin 272).all fun p => p.val / 16 != id - 0x20 || !(e.plot p).powered
    else if 0x40 ≤ id && decide (id ≤ 0x5F) then !bitOf e.pwr.watch (id - 0x40)
    else !([0x11, 0x31, 0x60, 0x61, 0x62, 0x98].contains id)
  | .dormant => true

/-- The block that answers a BAR0 offset, for the blocks that can be off (R359 to R365, R396, R399). -/
def bar0Block (off : Nat) : Option Nat :=
  let win (o : Nat) : Option Nat :=
    if 0x2100 ≤ o && decide (o < 0x2500) then some (0x40 + (o - 0x2100) / 0x20)
    else if 0x2800 ≤ o && decide (o < 0x3000) then some (0x40 + (o - 0x2800) / 0x40)
    else none
  if 0x100 ≤ off && decide (off < 0x110) then some 0x62
  else if 0x2000 ≤ off && decide (off < 0x4000) then win off
  else if off = 0x10000 || off = 0x10004 then some 0x31
  else if 0x10400 ≤ off && decide (off < 0x10840) then some (0x20 + (off - 0x10400) / 64)
  else if 0x11400 ≤ off && decide (off < 0x11840) then some (0x20 + (off - 0x11400) / 64)
  else if 0x11C00 ≤ off && decide (off < 0x12480) then some (0x20 + (off - 0x11C00) / 128)
  else if 0x20100 ≤ off && decide (off < 0x20300) then some (0x40 + (off - 0x20100) / 0x10)
  else if 0x20400 ≤ off && decide (off < 0x20C00) then some (0x40 + (off - 0x20400) / 0x40)
  else if 0x22000 ≤ off && decide (off < 0x24000) then win (off - 0x20000)
  else if 0x30000 ≤ off && decide (off < 0x40000) then some 0xA0
  else if 0x40000 ≤ off && decide (off < 0x50000) then some 0x88
  else if 0x50000 ≤ off && decide (off < 0x60000) then some 0x89
  else if 0x80000 ≤ off && decide (off < 0xC0000) then some 0x7F
  else none

/-- The block that answers a core address, for the blocks that can be off (R286, R340). -/
def coreBlock (a : Nat) : Option Nat :=
  if 0x10000000 ≤ a && decide (a < 0x10180000) then some (0x70 + (a - 0x10000000) / 0x40000)
  else if 0x20000000 ≤ a && decide (a < 0x20280000) then some (0x78 + (a - 0x20000000) / 0x40000)
  else if 0x40000000 ≤ a && decide (a < 0x40010000) then some 0x88
  else if 0x40010000 ≤ a && decide (a < 0x40020000) then some 0x89
  else none

/-- The id of the block when an access reaches one that is off. -/
def offId (e : Engine) (k : Cores) (b : Option Nat) : Option Nat :=
  match b with
  | some id => if blockOff e k id then some id else none
  | none => none

/-- An access to a block that is off is counted and logged to the PF with the block id and the address (R339). -/
def offAccess (id addr : Nat) (e : Engine) : Engine :=
  attn pf 0x33 (index := BitVec.ofNat 32 id) (argument := BitVec.ofNat 32 addr) (e := countDev 1 e)

/-- What a host read of a block that is off returns (R339). -/
def offWord (id : Nat) : Dword := BitVec.ofNat 32 (0x0BAD0000 + id)

/-! ## Arbiter sets and counters (R396 to R400) -/

/-- An arbiter set by its number: 0 to 31 those of the commons, then two for each holding and port. -/
def setKey (h : Fn) (p k : Nat) : Nat := 32 + 64 * h.val + 2 * p + k

/-- The number of the arbiter set, and the dword of it, at an offset of a function's window (R397) or of the PF's (R399). -/
def setAt (f : Fn) (sel : Fn) (off : Nat) : Option (Nat × Nat) :=
  let win (h : Fn) (o : Nat) : Option (Nat × Nat) :=
    if 0x2100 ≤ o && decide (o < 0x2500) then
      some (setKey h ((o - 0x2100) / 0x20) ((o - 0x2100) / 0x10 % 2), (o - 0x2100) / 4 % 4)
    else none
  if f = pf && decide (0x20100 ≤ off) && decide (off < 0x20300) then some ((off - 0x20100) / 0x10, (off - 0x20100) / 4 % 4)
  else if f = pf && decide (0x22000 ≤ off) then win sel (off - 0x20000)
  else win f off

/-- The arbiter set with a number; a holding that is not created reads as zeros (R399). -/
def Engine.arbSet (e : Engine) (n : Nat) : ArbSet :=
  if n < 32 then (e.port (finOf 32 n)).arb.commons
  else
    let h := finOf 64 ((n - 32) / 64)
    let p := (n - 32) % 64 / 2
    let c := (e.fn h).counters
    if !(e.hold h).created then {}
    else if n % 2 = 0 then c.arbP[p % 32] else c.arbB[p % 32]

/-- The four dwords of an arbiter set (R396). -/
def ArbSet.bits (a : ArbSet) : BitVec 128 :=
  BitVec.ofNat 128 (a.grants.toNat + 2 ^ 48 * a.wait.toNat + 2 ^ 96 * a.longest.toNat)

/-- Whether any arbiter set, and any event counter, of a holding is nonzero (CNT_CTRL). -/
def HoldingCnt.nonzero (c : HoldingCnt) : Bool × Bool :=
  let set (a : ArbSet) : Bool := a.grants != 0 || a.wait != 0 || a.longest != 0
  (c.arbP.toList.any set || c.arbB.toList.any set,
    c.wide.toList.any (· != 0) || c.port.toList.any fun v => v.toList.any (· != 0))

/-- CNT_CTRL clears: the arbiter sets, the event counters of a window (R397, R398). -/
def clearCounters (h : Fn) (arb evt : Bool) : Engine → Engine :=
  modFn h fun x => { x with counters :=
    { arbP := if arb then Vector.replicate 32 {} else x.counters.arbP
      arbB := if arb then Vector.replicate 32 {} else x.counters.arbB
      port := if evt then Vector.replicate 32 (Vector.replicate 16 0) else x.counters.port
      wide := if evt then Vector.replicate 16 0 else x.counters.wide } }

/-- A dword of a holding's counter window by its offset (R397); arbiter dwords 1 to 3 come from the reader's latch. -/
def windowRead (f h : Fn) (off : Nat) (e : Engine) : Dword :=
  let c := if (e.hold h).created then (e.fn h).counters else {}
  if off = 0x2000 then BitVec.ofNat 32 (b2n c.nonzero.1 + 2 * b2n c.nonzero.2)
  else match setAt h h off with
  | some (n, 0) => fld (e.arbSet n).bits 0 32
  | some (n, d) => fld ((mget (e.fn f).arbLatch n).getD 0) (32 * (d - 1)) 32
  | none =>
    if 0x2800 ≤ off && decide (off < 0x3000) then (c.port[(off - 0x2800) / 0x40 % 32])[off / 4 % 16]
    else if 0x3000 ≤ off && decide (off < 0x3040) then c.wide[off / 4 % 16]
    else 0

/-! ## CIC, dispatcher and power manager (R302, R321, R341) -/

/-- A word of one bit a source, for what a core may see; the PF sees every source (R306, R321). -/
def wordOf (by_ : Option CoreId) (w : Nat) (f : SrcId → Bool) : Dword :=
  BitVec.ofNat 32 (((List.range 32).map fun b =>
    let n := finOf 512 (32 * w + b)
    let sees := match by_ with | some c => seesSrc c n | none => !isReserved n
    if sees && f n then 2 ^ b else 0).sum)

/-- CIC_RUNPRI of a core (R321). -/
def Core.runPriWord (x : Core) : Dword :=
  let top := match x.stack with | [] => 1023 | y :: _ => y.2
  BitVec.ofNat 32 (x.runPri + 2 ^ 8 * x.stack.length + 2 ^ 16 * top + 2 ^ 31 * b2n x.eoiErr)

/-- What a CIC register reads, without a side effect (R306, R321, R363): for a core, or for the PF's mirror. -/
def cicRead (e : Engine) (k : Cores) (by_ : Option CoreId) (off : Nat) : Dword :=
  let w := off / 4 % 16
  let sees (n : SrcId) : Bool := match by_ with | some c => seesSrc c n | none => !isReserved n
  let user := match by_ with | some c => userCore c | none => false
  if off < 0x80 then wordOf by_ w fun n => (k.s n).pending
  else if off < 0x100 then wordOf by_ w fun n => (k.s n).masked
  else if off < 0x180 then wordOf by_ w fun n => (k.s n).wake
  else if off < 0x1C0 then wordOf by_ w e.level
  else if off < 0x200 then wordOf by_ w fun n => (k.s n).quar
  else if off < 0x1000 then 0
  else if off < 0x1800 then
    let n := finOf 512 ((off - 0x1000) / 4)
    if sees n then (k.s n).count.setWidth 32 else 0
  else if off < 0x2000 then 0
  else if off < 0x2800 then
    let n := finOf 512 ((off - 0x2000) / 4)
    if sees n then BitVec.ofNat 32 ((k.s n).targets.toNat + 256 * b2n (k.s n).lowest) else 0
  else if off < 0x3000 then 0
  else if off < 0x3800 then
    let n := finOf 512 ((off - 0x3000) / 4)
    if sees n && decide (384 ≤ n.val) then (k.s n).prio.setWidth 32 else 0
  else if off < 0x4000 then 0
  else match finOf? 6 ((off - 0x4000) / 16) with
  | none => 0
  | some c =>
    match off % 16 with
    | 0 => if by_.isNone then claimWord e k (bestSource e k c) else 0
    | 8 => if user && by_ != some c then 0 else (k.at c).runPriWord
    | _ => 0

/-- The code of a thread's state (R302). -/
def ThreadState.code : ThreadState → Nat
  | .dormant => 0 | .ready => 1 | .running => 2 | .waiting => 3

/-- DSP_CFG of a thread. -/
def Thread.cfg (x : Thread) : Dword :=
  BitVec.ofNat 32 (x.prio.toNat + 2 ^ 8 * x.affinity.toNat + 2 ^ 16 * b2n x.all + 2 ^ 17 * b2n x.keep)

/-- DSP_TMR_TGT of a core. -/
def Core.tmrTgt (x : Core) : Dword :=
  BitVec.ofNat 32 (x.tmrThread.toNat + 2 ^ 8 * x.tmrFlag.toNat + 2 ^ 31 * b2n x.tmrArm)

/-- What a dispatcher register reads (R302). -/
def dspRead (e : Engine) (k : Cores) (off : Nat) : Dword :=
  let x := k.th (finOf 256 (off / 4 % 256))
  if off < 0x400 then x.cfg
  else if off < 0xC00 then x.flags
  else if off < 0x1000 then x.mask
  else if off < 0x1400 then x.got
  else if off < 0x1800 then BitVec.ofNat 32 (x.state.code + 4 * x.core + 256 * b2n x.err)
  else if off < 0x1C00 then x.ctx
  else if off < 0x2000 then 0
  else match finOf? 6 ((off - 0x2000) / 32) with
  | none => 0
  | some c =>
    let y := k.at c
    match off % 32 with
    | 0 => match dspNext e k c with
      | none => 0x1FF
      | some t => BitVec.ofNat 32 (t.val + 2 ^ 16 * (k.th t).prio.toNat)
    | 4 => BitVec.ofNat 32 ((match y.run with | none => 0x1FF | some t => t.val) + 2 ^ 30 * b2n y.refused)
    | 8 => BitVec.ofNat 32 (b2n y.preempt + 2 * b2n y.enable)
    | 16 => fld y.tmr 0 32
    | 20 => fld y.tmr 32 32
    | 24 => y.tmrTgt
    | _ => 0

/-- A power manager register (R341). -/
def pwrRead (e : Engine) (k : Cores) (off : Nat) : Dword :=
  let p := e.pwr
  match off with
  | 0x00 => BitVec.ofNat 32 (((allFin 6).map fun c => (p.mode[c.val]).toNat * 4 ^ c.val).sum)
  | 0x04 =>
    BitVec.ofNat 32 (p.last + 4 * b2n p.aborted + 8 * b2n p.notReady
      + ((allFin 6).map fun c => 2 ^ (4 + c.val) * b2n (k.at c).wfi).sum
      + 2 ^ 10 * b2n p.throttled + 2 ^ 11 * b2n p.droop + 2 ^ 16 * (p.wakeSrc % 256))
  | 0x08 => p.sleepAborts
  | 0x0C => BitVec.ofNat 32 (p.retPlots.toNat + 2 ^ 16 * p.retL2.toNat)
  | 0x10 => BitVec.ofNat 32 (p.fraction.toNat + 2 ^ 8 * b2n p.limitLow + 2 ^ 9 * b2n p.therm)
  | 0x14 => p.wakeLo
  | 0x18 => BitVec.ofNat 32 (p.wakeHi.toNat + 2 ^ 31 * b2n p.wakeArm)
  | 0x1C => BitVec.ofNat 32 (b2n p.sleep)
  | _ => 0

/-! ## The host's registers (R203, R354, R359 to R365, R402) -/

/-- FN_ID (R360). -/
def Engine.fnId (e : Engine) (f : Fn) : Dword :=
  BitVec.ofNat 32 (f.val + 64 * b2n (f == pf) + 2 ^ 8 * 0xB1 + 2 ^ 16 * (if e.fw.ready then 0x0302 else 0))

/-- MBX_STAT (R203). -/
def Engine.mbxStat (e : Engine) (f : Fn) : Dword :=
  let m := (e.fn f).mbx
  BitVec.ofNat 32 (b2n m.busy + 2 * b2n m.done + 4 * b2n m.overrun + 8 * b2n e.fw.restarting + 2 ^ 8 * m.status.toNat
    + 2 ^ 16 * m.seq.toNat)

/-- A dword of the MSI-X table (R354). -/
def MsixEntry.dword (m : MsixEntry) (d : Nat) : Dword :=
  match d with
  | 0 => fld m.addr 0 32
  | 1 => fld m.addr 32 32
  | 2 => m.data
  | _ => BitVec.ofNat 32 (b2n m.masked)

/-- A dword of the PBA. -/
def FnPcie.pba (x : FnPcie) (d : Nat) : Dword :=
  BitVec.ofNat 32 (((List.range 32).map fun b => 2 ^ b * b2n (x.vector (32 * d + b)).pending).sum)

/-- PSEA_SUM0 (R362). -/
def Engine.pseaSum0 (e : Engine) : Dword := BitVec.ofNat 32 (e.inService + 2 ^ 16 * e.freePlots.length)

/-- PSEA_SUM1 (R362). -/
def Engine.pseaSum1 (e : Engine) : Dword :=
  let n (f : Plot → Bool) : Nat := (e.plots.toList.filter f).length
  BitVec.ofNat 32 (e.sparePlots.length + 2 ^ 8 * n (·.retired) + 2 ^ 24 * min 255 (n (·.clearing)))

/-- PLOT_STAT of a plot (R362); an idle plot gates its clock. -/
def Engine.plotStat (e : Engine) (p : PlotId) : Dword :=
  let q := e.plot p
  let idle := q.powered && q.walks.isEmpty && !q.clearing
    && !(e.items.any fun i => i.plot == p.val) && !(e.staged.any fun d => d.plot == p.val)
  BitVec.ofNat 32 ((if q.allotted then q.holding.val else 0) + 2 ^ 6 * b2n q.allotted + 2 ^ 7 * b2n q.spare
    + 2 ^ 8 * b2n q.retired + 2 ^ 9 * b2n q.clearing + 2 ^ 10 * b2n q.isolated + 2 ^ 11 * b2n q.watch
    + 2 ^ 12 * b2n (e.live && idle) + 2 ^ 16 * q.corrected.toNat)

/-- TEST_STAT (R402). -/
def Engine.testStat (e : Engine) : Dword :=
  BitVec.ofNat 32 (b2n e.unlocked + 2 * b2n e.test.byStrap + 4 * b2n e.test.keyHalf
    + ((allFin 19).map fun n => 2 ^ (8 + n.val) * b2n (e.ctl n).on).sum)

/-- The core is halted (R291, R364). -/
def halted (e : Engine) (k : Cores) (c : CoreId) : Bool :=
  if userCore c then (k.at c).state == .halted else bitOf e.fw.halted c.val

/-- DBG_STAT (R364); DBG_HALT reads the same low six bits. -/
def dbgStat (e : Engine) (k : Cores) : Dword :=
  BitVec.ofNat 32 (((allFin 6).map fun c => 2 ^ c.val * b2n (halted e k c) + 2 ^ (6 + c.val) * b2n (k.at c).wfi).sum)

/-- DBG_DATA (R364): the selected register of the selected core while that core is halted; mip shows the dispatcher's and the
CIC's lines as MSIP and MEIP (R299, R310), and the machine timer's as MTIP (R284). -/
def dbgData (e : Engine) (k : Cores) : Dword :=
  match finOf? 6 k.dbgCore.toNat with
  | none => 0
  | some c =>
    let g := (k.at c).regs
    if !halted e k c then 0
    else match k.dbgReg.toNat with
    | 0 => g.pc
    | 32 => g.mstatus
    | 33 => g.mepc
    | 34 => g.mcause
    | 35 => g.mtval
    | 36 => g.mtvec
    | 37 => g.mie
    | 38 => (g.mip &&& ~~~0x888#32) ||| BitVec.ofNat 32
        (8 * b2n (msip e k c) + 128 * b2n (decide (g.mtimecmp ≤ g.mtime)) + 2048 * b2n (meip e k c))
    | n => if n < 32 then g.x[n % 32] else 0

/-- The PF's registers from 0x1_0000 on (R362 to R365, R399, R402). -/
def pfRead (e : Engine) (k : Cores) (off : Nat) : Dword :=
  if off < 0x20000 then
    if off = 0x10000 then e.pseaSum0
    else if off = 0x10004 then e.pseaSum1
    else match regIndex off 0x10400 4 272, regIndex off 0x11400 4 272, regIndex off 0x11C00 4 544 with
    | some p, _, _ => e.plotStat (finOf 272 p)
    | _, some p, _ => (e.plot (finOf 272 p)).ports
    | _, _, some i =>
      let q := e.plot (finOf 272 (i / 2))
      BitVec.ofNat 32 (if i % 2 = 0 then q.base else q.count)
    | _, _, _ => 0
  else if off < 0x30000 then
    if off = 0x20000 then e.test.cntSel.setWidth 32
    else if 0x20100 ≤ off && decide (off < 0x20300) then
      let n := (off - 0x20100) / 0x10
      let d := off / 4 % 4
      if d = 0 then fld (e.arbSet n).bits 0 32 else fld ((mget (e.fn pf).arbLatch n).getD 0) (32 * (d - 1)) 32
    else if 0x20400 ≤ off && decide (off < 0x20C00) then
      ((e.port (finOf 32 ((off - 0x20400) / 0x40))).cnt)[off / 4 % 16]
    else if 0x21000 ≤ off && decide (off < 0x21040) then e.cnt[off / 4 % 16]
    else if 0x22000 ≤ off && decide (off < 0x24000) then
      windowRead pf (finOf 64 e.test.cntSel.toNat) (off - 0x20000) e
    else 0
  else if off < 0x40000 then
    if off = 0x30004 then e.testStat
    else match finOf? 19 ((off - 0x30100) / 16) with
    | none => 0
    | some n =>
      if off < 0x30100 then 0
      else match off % 16 with
      | 0 => BitVec.ofNat 32 (b2n (e.ctl n).on + 2 * b2n (e.ctl n).err)
      | 4 => (e.ctl n).p1
      | 8 => (e.ctl n).p2
      | _ => 0
  else if off < 0x50000 then cicRead e k none (off - 0x40000)
  else if off < 0x60000 then dspRead e k (off - 0x50000)
  else if off < 0x70000 then if off = 0x60100 then e.tripStat else pwrRead e k (off - 0x60000)
  else if off < 0x80000 then
    match off - 0x70000 with
    | 0 => BitVec.ofNat 32 (fldN (dbgStat e k) 0 6)
    | 4 => dbgStat e k
    | 8 => BitVec.ofNat 32 (k.dbgCore.toNat + 2 ^ 8 * k.dbgReg.toNat)
    | 12 => dbgData e k
    | _ => 0
  else
    if off = 0x80000 then BitVec.ofNat 32 e.fw.logWr
    else if off = 0x80004 then e.fw.logSeq
    else if 0x80100 ≤ off && decide (off < 0xC0000) then
      BitVec.ofNat 32 (leNat (memGet k.mem (l2Base + 7 * 0x40000 + (off - 0x80000)) 4))
    else 0

/-- What a host read of the dword at an offset of a function's BAR0 returns, its latching aside (R358 to R365, R397,
R402). -/
def bar0Read (e : Engine) (k : Cores) (f : Fn) (off : Nat) : Dword :=
  match offId e k (if f = pf || off < 0x10000 then bar0Block off else none) with
  | some id => offWord id
  | none =>
    if 0x10000 ≤ off then if f = pf then pfRead e k off else 0
    else if 0x5000 ≤ off && decide (off < 0x5020) then (e.pfn f).pba ((off - 0x5000) / 4)
    else if 0x4000 ≤ off && decide (off < 0x5000) then ((e.pfn f).vector ((off - 0x4000) / 16)).dword (off / 4 % 4)
    else if 0x2000 ≤ off && decide (off < 0x4000) then windowRead f f off e
    else if 0x1000 ≤ off && decide (off < 0x1040) then fld ((e.fn f).mbx).req (8 * (off - 0x1000)) 32
    else if 0x1040 ≤ off && decide (off < 0x1080) then fld ((e.fn f).mbx).rsp (8 * (off - 0x1040)) 32
    else match off with
    | 0x0000 => e.fnId f
    | 0x0004 => BitVec.ofNat 32 (b2n (e.fn f).mbxIen + 2 * b2n (e.fn f).condIen)
    | 0x0008 => e.fnStat f
    | 0x000C => e.fnCond f
    | 0x0100 => BitVec.ofNat 32 (e.clk.frame.toNat % 65536 + 65536 * (e.clk.row % 16))
    | 0x0104 => e.clk.frame.setWidth 32
    | 0x0108 => (e.fn f).frameHi.setWidth 32
    | 0x010C => e.clk.retired
    | 0x0110 => e.clk.etc.setWidth 32
    | 0x0114 => (e.fn f).etcHi
    | 0x0118 => e.clk.epoch
    | 0x1084 => e.mbxStat f
    | _ => 0

/-- The register of the dispatcher at an offset is one of firmware's threads or of cores 0 to 3, which cores 4 and 5 may not
access (R302); an offset that no register occupies is none of them (R286). -/
def dspFirmware (off : Nat) : Bool :=
  if off < 0x1C00 then decide (off / 4 % 256 < 192)
  else decide (0x2000 ≤ off) && decide (off < 0x2080) && off % 16 != 12

/-! ## Configuration space (R353, R354, R357) -/

/-- The identity fields of a configuration header. -/
structure PciIdentity where
  vendor : BitVec 16
  device : BitVec 16
  revision : Byte
  classCode : BitVec 24
  headerType : Byte
  subVendor : BitVec 16
  subsystem : BitVec 16
  interruptPin : Byte
  deriving DecidableEq, Repr

/-- The identity of a function (R353): a VF has the PF's subsystem IDs and no Vendor and Device ID of its own. -/
def identityOf (f : Fn) : PciIdentity :=
  let sub := Config.subsystem.getD (0x1FD3#16, 0x9208#16)
  { vendor := if f = pf then 0x1FD3 else 0xFFFF, device := if f = pf then 0x9208 else 0xFFFF, revision := 0xB1
    classCode := 0x0C8000, headerType := 0, subVendor := sub.1, subsystem := sub.2, interruptPin := 0 }

/-- Vendor ID and VF Device ID in the PF's SR-IOV capability (R353). -/
def vfIds : BitVec 16 × BitVec 16 := (0x1FD3, 0x9209)

/-- The capability structures (R354). -/
inductive Capability where
  | powerManagement | msix | pciExpress | aer | ari | sriov | secondaryPcie | dataLinkFeature | physical16 | laneMargining
  | physical32 | serialNumber
  deriving DecidableEq, Repr

/-- The capability structures of a function, with their offsets (R354). -/
def capabilities (f : Fn) : List (Nat × Capability) :=
  if f = pf then
    [(0x40, .powerManagement), (0x50, .msix), (0x70, .pciExpress), (0x100, .aer), (0x148, .ari), (0x150, .sriov),
     (0x190, .secondaryPcie), (0x1B0, .dataLinkFeature), (0x1C0, .physical16), (0x200, .laneMargining), (0x230, .physical32),
     (0x260, .serialNumber)]
  else [(0x50, .msix), (0x70, .pciExpress), (0x100, .aer), (0x148, .ari)]

/-- The values of the PF's SR-IOV capability that no write changes (R355). -/
structure SriovValues where
  initialVfs : Nat := 63
  totalVfs : Nat := 63
  firstVfOffset : Nat := 1
  vfStride : Nat := 1
  /-- 4 KiB to 64 KiB. -/
  supportedPageSizes : Dword := 0x1F
  vfMigration : Bool := false
  deriving DecidableEq, Repr

/-- The size of BAR0, the one BAR of a function: 64-bit and not prefetchable (R355, R358). -/
def bar0Size (f : Fn) : Nat := if f = pf then 2 ^ 20 else 2 ^ 16

/-- The Device Serial Number of the PF's capability, which IDENTIFY shows too (R354). -/
def deviceSerial : Qword := Config.serialNumber

/-- A configuration read of a function's identity: none while it returns CRS (R357), or while no such function answers. -/
def Engine.configIdentity (e : Engine) (f : Fn) : Option PciIdentity :=
  if (e.pfn f).crs || e.pcie.perst || !e.fnEnabled f then none else some (identityOf f)

/-- What a core's load in a region to which it has rights reads, the side effects of the read aside; none where the register
refuses the core (R286, R302, R306, R321, R341). TCM and L2 read their memory. -/
def coreRead (e : Engine) (k : Cores) (c : CoreId) (a : Nat) : Option Dword :=
  if isMemory a 4 then some (BitVec.ofNat 32 (leNat (memGet k.mem a 4)))
  else if a < 0x10000 then some (Config.bootRom (a / 4))
  else if 0x40000000 ≤ a && decide (a < 0x40010000) then
    let off := a - 0x40000000
    if 0x4000 ≤ off && decide (off < 0x4060) && off % 16 < 8 && (off - 0x4000) / 16 != c.val then none
    else some (cicRead e k (some c) off)
  else if 0x40010000 ≤ a && decide (a < 0x40020000) then
    let off := a - 0x40010000
    if userCore c && dspFirmware off then none else some (dspRead e k off)
  else if 0x40020000 ≤ a && decide (a < 0x40030000) then some (pwrRead e k (a - 0x40020000))
  else if 0x40030000 ≤ a && decide (a < 0x40040000) then some 0
  else if a = 0x60000000 then some e.tripStat
  else if 0x60000000 ≤ a && decide (a < 0x60010000) then some 0
  else none

end Sys2Proof.Machine
end

