-- ==== Sys2Proof/Machine/Registers.lean ====
section
/-! DEFINITION. The commands that are register accesses (R9, R358, R286): reads that latch (R344, R361, R396), the
registers with a row of their own, and REGISTER_WRITE for every other one. -/

namespace Sys2Proof.Machine

/-- A host access to a register of a function: nothing happens while the function cannot be reached; an access to a block
that is off is counted and logged, and a read of it returns its id (R339, R351). -/
def hostAccess (f : Fn) (off : Nat) (act : Engine → Cores → Engine × Cores) (s : State) : Answer :=
  onBoth s fun e k =>
    if !e.reachable f then (e, k)
    else match offId e k (if f = pf || off < 0x10000 then bar0Block off else none) with
    | some id => ({ offAccess id off e with readValue := (offWord id).setWidth 64 }, k)
    | none => act e k

/-! ## Reads that latch -/

/-- ETC_LO (R344): the low 32 bits are returned, the high ones latched for the function. -/
def execEtcLo (f : Fn) (s : State) : Answer :=
  hostAccess f 0x110 (fun e k =>
    ({ modFn f (fun x => { x with etcHi := fld e.clk.etc 32 32 }) e with readValue := (fld e.clk.etc 0 32).setWidth 64 }, k)) s

/-- FRAME_EXT_LO (R361). -/
def execFrameExtLo (f : Fn) (s : State) : Answer :=
  hostAccess f 0x104 (fun e k =>
    ({ modFn f (fun x => { x with frameHi := fld e.clk.frame 32 16 }) e with
        readValue := (fld e.clk.frame 0 32).setWidth 64 }, k)) s

/-- ARBITER_SET_DWORD0_READ (R396): dwords 1 to 3 of the set are latched for the reading function. -/
def execArbiterSetDword0Read (f : Fn) (offset : Nat) (s : State) : Answer :=
  hostAccess f offset (fun e k =>
    match setAt f (finOf 64 e.test.cntSel.toNat) offset with
    | some (n, 0) =>
      let b := (e.arbSet n).bits
      ({ modFn f (fun x => { x with arbLatch := mput x.arbLatch n (fld b 32 96) }) e with
          readValue := (fld b 0 32).setWidth 64 }, k)
    | _ => (e, k)) s

/-! ## Registers with a row of their own -/

/-- CNT_CTRL (R397 to R399): a 1 zeroes every arbiter set, or every event counter, of the window: the function's own, or the
one that the PF has selected. -/
def execCntCtrl (f : Fn) (selected : Bool) (value : Dword) (be : BitVec 4) (s : State) : Answer :=
  hostAccess f 0x2000 (fun e k =>
    let h := if selected then finOf 64 e.test.cntSel.toNat else f
    if selected && f != pf then (e, k)
    else (clearCounters h (bitOf be 0 && bitOf value 0) (bitOf be 0 && bitOf value 1) e, k)) s

/-- TEST_KEY (R402): 0x5EED and then 0x7111 unlock; any other value restarts the sequence; 0 locks the block unless the
strap unlocked it. -/
def execTestKey (value : Dword) (s : State) : Answer :=
  hostAccess pf 0x30000 (fun e k =>
    let set (half key : Bool) : Engine := { e with test := { e.test with keyHalf := half, byKey := key } }
    (if value = 0x5EED#32 then set true e.test.byKey
      else if value = 0x7111#32 && e.test.keyHalf then set false true
      else if value = 0 && !e.test.byStrap then lockTest e
      else set false e.test.byKey, k)) s

/-- TP_CTL (R402): ignored while the block is locked; ERR clears by a 1; ON turns the control on or off. -/
def execTpCtl (n : Fin 19) (value : Dword) (be : BitVec 4) (s : State) : Answer :=
  hostAccess pf (0x30100 + 16 * n.val) (fun e k =>
    if !e.unlocked || !bitOf be 0 then (e, k)
    else (setCtl n (bitOf value 0) (if bitOf value 1 then modCtl n (fun c => { c with err := false }) e else e), k)) s

/-- DBG_HALT (R291, R364): cores 4 and 5 halt or resume, a stopped one is held at 0; cores 0 to 3 only while the test block
is unlocked. -/
def execDbgHalt (value : Dword) (be : BitVec 4) (s : State) : Answer :=
  hostAccess pf 0x70000 (fun e k =>
    if !bitOf be 0 then (e, k)
    else
      let e := if e.unlocked then { e with fw := { e.fw with halted := fld value 0 4 } } else e
      let k := forCores ((allFin 6).filter userCore) (fun c => modCore c fun x =>
        match x.state, bitOf value c.val with
        | .running, true => { x with state := .halted }
        | .halted, false => { x with state := .running }
        | _, _ => x) k
      (e, settleCores e k)) s

/-- TRIP_SOFT (R162, R290): the outputs written as 1 trip; from cores 4 and 5 only those of the image's grant, and each
other 1 is counted. -/
def execTripSoft (c : CoreId) (v : Dword) (s : State) : Answer :=
  onBoth s fun e k =>
    if !executes e k c then (e, k)
    else
      let grant : BitVec 4 :=
        if userCore c then (match (k.at c).image with | some i => i.tripGrant | none => 0) else 0xF#4
      let want : BitVec 4 := fld v 0 4
      let refused := (List.range 4).filter fun n => bitOf want n && !bitOf grant n
      (forAll refused (fun _ => countDev 2) { e with pins := { e.pins with tripped := e.pins.tripped ||| (want &&& grant) } }, k)

/-! ## REGISTER_WRITE from the host -/

/-- Byte `b` of a register is written. -/
def byteOn (be : BitVec 4) (b : Nat) : Bool := bitOf be b

/-- A write of the registers of a function that have no row of their own: FN_CTRL, MBX_REQ, MBX_STAT (R203, R360). -/
def fnWrite (f : Fn) (off : Nat) (v : Dword) (be : BitVec 4) (e : Engine) : Engine :=
  if off = 0x0004 then
    if !byteOn be 0 then e
    else modFn f (fun x => { x with mbxIen := bitOf v 0, condIen := bitOf v 1 }) e
  else if 0x1000 ≤ off && decide (off < 0x1040) then
    modMbx f (fun m =>
      let i := 8 * (off - 0x1000)
      { m with req := putFld m.req i 32 (merge (fld m.req i 32) v be).toNat }) e
  else if off = 0x1084 then
    if !byteOn be 0 then e
    else modMbx f (fun m => { m with done := m.done && !bitOf v 1, overrun := m.overrun && !bitOf v 2 }) e
  else e

/-- A write of the MSI-X table (R354): address, data and mask of an entry; an entry that is unmasked with its bit pending is
sent (R194). -/
def msixWrite (f : Fn) (i d : Nat) (v : Dword) (be : BitVec 4) (e : Engine) : Engine :=
  let m := (e.pfn f).vector i
  let new := merge (m.dword d) v be
  let put (m : MsixEntry) : Engine := modPfn f (fun x => { x with msix := mput x.msix i m }) e
  match d with
  | 0 => put { m with addr := putFld m.addr 0 32 new.toNat }
  | 1 => put { m with addr := putFld m.addr 32 32 new.toNat }
  | 2 => put { m with data := new }
  | _ =>
    let send := m.masked && !bitOf new 0 && m.pending && !e.held f
    whenE send (emitHost (.msix f i)) (put { m with masked := bitOf new 0, pending := m.pending && !send })

/-- A write of the PF's registers without a row: CNT_SEL, TP_P1, TP_P2, DBG_SEL (R364, R399, R402). -/
def pfWrite (off : Nat) (v : Dword) (be : BitVec 4) (e : Engine) (k : Cores) : Engine × Cores :=
  if off = 0x20000 then
    if byteOn be 0 then ({ e with test := { e.test with cntSel := fld v 0 6 } }, k) else (e, k)
  else if off = 0x70008 then
    (e, { k with dbgCore := if byteOn be 0 then fld v 0 3 else k.dbgCore, dbgReg := if byteOn be 1 then fld v 8 6 else k.dbgReg })
  else match finOf? 19 ((off - 0x30100) / 16) with
  | none => (e, k)
  | some n =>
    if off < 0x30100 || !e.unlocked then (e, k)
    else match off % 16 with
    | 4 => (modCtl n (fun c => { c with p1 := merge c.p1 v be }) e, k)
    | 8 => (modCtl n (fun c => { c with p2 := merge c.p2 v be }) e, k)
    | _ => (e, k)

/-- A host write to BAR0 (R358, R359): a register with a row of its own acts as that row, every other one by its access
codes; an offset that no register occupies, and a read-only register, ignore it. -/
def bar0Write (f : Fn) (off : Nat) (v : Dword) (be : BitVec 4) (s : State) : Answer :=
  if off = 0x1080 then execMbxGo f v be s
  else if off < 0x2000 then hostAccess f off (fun e k => (fnWrite f off v be e, k)) s
  else if off = 0x2000 then execCntCtrl f false v be s
  else if 0x4000 ≤ off && decide (off < 0x5000) then
    hostAccess f off (fun e k => (msixWrite f ((off - 0x4000) / 16) (off / 4 % 4) v be e, k)) s
  else if f != pf || off < 0x10000 then hostAccess f off (fun e k => (e, k)) s
  else if off = 0x22000 then execCntCtrl f true v be s
  else if off = 0x30000 then if be = 0 then hostAccess f off (fun e k => (e, k)) s else execTestKey (enabled v be) s
  else if off = 0x70000 then execDbgHalt v be s
  else match finOf? 19 ((off - 0x30100) / 16) with
  | some n =>
    if 0x30100 ≤ off && off % 16 == 0 then execTpCtl n v be s
    else hostAccess f off (pfWrite off v be) s
  | none => hostAccess f off (pfWrite off v be) s

/-! ## REGISTER_WRITE from a core -/

/-- Cores 0 to 3 write the power manager's registers; core 1 to 3 of PWR_MODE only its own field (R324, R341). -/
def pwrWrite (c : CoreId) (off : Nat) (v : Dword) (be : BitVec 4) (e : Engine) (k : Cores) : Engine :=
  let p := e.pwr
  let new := merge (pwrRead e k off) v be
  if off = 0 then
    let field (d : CoreId) : BitVec 2 :=
      let x : BitVec 2 := fld new (2 * d.val) 2
      if c.val != 0 && decide (2 ≤ x.toNat) then 1 else x
    { e with pwr := { p with mode := Vector.ofFn fun d => if c.val = 0 || d = c then field d else p.mode[d.val] } }
  else if userCore c then countDev 6 e
  else match off with
  | 0x04 =>
    if byteOn be 0 then
      { e with pwr := { p with aborted := p.aborted && !bitOf v 2, notReady := p.notReady && !bitOf v 3 } } else e
  | 0x0C => { e with pwr := { p with retPlots := fld new 0 6, retL2 := fld new 16 10 } }
  | 0x10 => { e with pwr := { p with fraction := fld new 0 8 } }
  | 0x14 => { e with pwr := { p with wakeLo := new } }
  | 0x18 => { e with pwr := { p with wakeHi := fld new 0 31, wakeArm := bitOf new 31 } }
  | 0x1C => { e with pwr := { p with sleep := bitOf new 0 } }
  | _ => e

/-- A write of a CIC register by a core (R306 to R309, R314, R317, R321). -/
def cicWrite (c : CoreId) (off : Nat) (v : Dword) (be : BitVec 4) (s : State) : Answer :=
  let w : Fin 16 := finOf 16 (off / 4 % 16)
  let bits := enabled v be
  if off < 0x40 then execCicPendSet c w bits s
  else if off < 0x80 then execCicPendClr c w bits s
  else if off < 0xC0 then execCicMaskSet c w bits s
  else if off < 0x100 then execCicMaskClr c w bits s
  else if off < 0x140 then execCicWakeSet c w bits s
  else if off < 0x180 then execCicWakeClr c w bits s
  else if 0x1C0 ≤ off && decide (off < 0x200) then execCicQuar c w bits s
  else if 0x2000 ≤ off && decide (off < 0x2800) then
    execCicRoute c (finOf 512 ((off - 0x2000) / 4)) (merge (cicRead s.eng s.cores none off) v be) s
  else if 0x3000 ≤ off && decide (off < 0x3800) then
    execCicPrio c (finOf 512 ((off - 0x3000) / 4)) (merge (cicRead s.eng s.cores none off) v be) s
  else match finOf? 6 ((off - 0x4000) / 16) with
  | none => onEng s fun e => e
  | some d =>
    if off < 0x4000 then onEng s fun e => e
    else match off % 16 with
    | 0 => onBoth s fun e k => if c != d then (e, storeFault c (0x40000000 + off) k) else (e, k)
    | 4 => execCicEoi d c bits s
    | 8 => onCores s fun k =>
        if bitOf bits 31 && (!userCore c || c == d) then modCore d (fun x => { x with eoiErr := false }) k else k
    | _ => onEng s fun e => e

/-- A write of DSP_STATE (R296, R302): a 1 to ERR clears it, then CMD acts. -/
def dspStateWrite (c : CoreId) (t : ThreadId) (v : Dword) (s : State) : Answer :=
  threadWrite c t 0x1400 (fun _ k =>
    let k := if bitOf v 8 then modThread t (fun x => { x with err := false }) k else k
    match fldN v 16 2 with
    | 1 => startThread t k
    | 2 => stopThread t k
    | _ => k) s

/-- The timer registers of a core (R302): compare value and target; ARM of a user core's timer is ignored for a thread below
192. -/
def timerWrite (c by_ : CoreId) (off : Nat) (v : Dword) (be : BitVec 4) (s : State) : Answer :=
  coreWrite c by_ off (fun _ => modCore c fun x =>
    match off with
    | 0x10 => { x with tmr := putFld x.tmr 0 32 (merge (fld x.tmr 0 32) v be).toNat }
    | 0x14 => { x with tmr := putFld x.tmr 32 32 (merge (fld x.tmr 32 32) v be).toNat }
    | _ =>
      let new := merge x.tmrTgt v be
      let arm := bitOf new 31 && timerMay c (fldN new 0 8)
      { x with tmrThread := fld new 0 8, tmrFlag := fld new 8 5, tmrArm := arm }) s

/-- A write of a dispatcher register by a core (R302). -/
def dspWrite (c : CoreId) (off : Nat) (v : Dword) (be : BitVec 4) (s : State) : Answer :=
  let t : ThreadId := finOf 256 (off / 4 % 256)
  let bits := enabled v be
  let new := merge (dspRead s.eng s.cores off) v be
  if off < 0x400 then
    threadWrite c t 0 (fun _ => modThread t fun x => { x with
      prio := fld new 0 5, affinity := affinityOf t new, all := bitOf new 16, keep := bitOf new 17 }) s
  else if off < 0x800 then execDspFlagSet c t bits s
  else if off < 0xC00 then execDspFlagClr c t bits s
  else if off < 0x1000 then execDspWait c t new s
  else if off < 0x1400 then threadWrite c t 0x1000 (fun _ k => k) s
  else if off < 0x1800 then dspStateWrite c t bits s
  else if off < 0x1C00 then execDspCtx c t new s
  else match finOf? 6 ((off - 0x2000) / 32) with
  | none => onEng s fun e => e
  | some d =>
    if off < 0x2000 then onEng s fun e => e
    else match off % 32 with
    | 4 => execDspRun d c new s
    | 8 => execDspMode d c new s
    | 16 | 20 | 24 => timerWrite d c (off % 32) v be s
    | 0 => coreWrite d c 0 (fun _ k => k) s
    | _ => onEng s fun e => e

/-- The bytes that a store writes, by address. -/
def storeBytes (a : Nat) (v : Dword) (be : BitVec 4) (m : List Host.Cell) : List Host.Cell :=
  (List.range 4).foldl (fun m i => if bitOf be i then memPut m (a + i) (fld v (8 * i) 8) else m) m

/-- An access of a core to a block that is off: counted, logged, and an access fault (R285, R339). -/
def offFault (w : CoreAccess) (c : CoreId) (id a : Nat) (s : State) : Answer :=
  onBoth s fun e k => (offAccess id a e, accessFault w c a k)

/-- A store by a core that executes (R285, R286, R339): one without the right to it, and one to a block that is off, take a
store access fault; TCM and L2 take the bytes; a register acts by its access codes. -/
def coreStore (c : CoreId) (a : Nat) (v : Dword) (be : BitVec 4) (s : State) : Answer :=
  if !(s.cores.at c).may c .store a 4 then onCores s (storeFault c a)
  else match offId s.eng s.cores (coreBlock a) with
  | some id => offFault .store c id a s
  | none =>
    if isMemory a 4 then onCores s fun k => { k with mem := storeBytes a v be k.mem }
    else if 0x40000000 ≤ a && decide (a < 0x40010000) then cicWrite c (a - 0x40000000) v be s
    else if 0x40010000 ≤ a && decide (a < 0x40020000) then dspWrite c (a - 0x40010000) v be s
    else if 0x40020000 ≤ a && decide (a < 0x40030000) then
      onBoth s fun e k =>
        let e := pwrWrite c (a - 0x40020000) v be e k
        (e, settleCores e k)
    else if a = 0x60000004 then execTripSoft c (enabled v be) s
    else onEng s fun e => e

/-- REGISTER_WRITE (R9, R286, R358): a write to a register, or to TCM or L2. -/
def execRegisterWrite (port : RegPort) (addr : Nat) (value : Dword) (be : BitVec 4) (s : State) : Answer :=
  match port with
  | .bar0 f => bar0Write f addr value be s
  | .core c => if executes s.eng s.cores c then coreStore c addr value be s else onEng s fun e => e

/-! ## Reads

No row of the table is a plain register read; these operations say what one does, by the rows that act on a read. -/

/-- A load by a core (R285, R286, R289, R302, R306, R313, R339): the value, or a load access fault. `data` is what host memory
gives for the ring window. -/
def coreLoad (c : CoreId) (a : Nat) (data : ReadData) (s : State) : Answer :=
  if !executes s.eng s.cores c then onEng s fun e => e
  else if !(s.cores.at c).may c .load a 4 then onCores s (loadFault c a)
  else match offId s.eng s.cores (coreBlock a) with
  | some id => offFault .load c id a s
  | none =>
    if a / 2 ^ 28 = 5 then execWindowLoad c (BitVec.ofNat 32 a) data s
    else
      match regIndex a 0x40004000 16 6 with
      | some d => execCicClaim (finOf 6 d) c s
      | none =>
        match coreRead s.eng s.cores c a with
        | some v => onEng s fun e => { e with readValue := v.setWidth 64 }
        | none => onCores s (loadFault c a)

/-- A read of a dword of a function's BAR0 (R339, R344, R351, R358, R361, R396): the value, with what its row latches. -/
def hostLoad (f : Fn) (off : Nat) (s : State) : Answer :=
  if off = 0x110 then execEtcLo f s
  else if off = 0x104 then execFrameExtLo f s
  else match setAt f (finOf 64 s.eng.test.cntSel.toNat) off with
  | some (_, 0) => execArbiterSetDword0Read f off s
  | _ => hostAccess f off (fun e k => ({ e with readValue := (bar0Read e k f off).setWidth 64 }, k)) s

end Sys2Proof.Machine
end

