-- ==== Sys2Proof/Machine/PairOps.lean ====
section
/-! DEFINITION. Operations of a yoked pair (09_faults.md): its configuration (R265, R279), what the partner is told, handovers
(R264, R267, R268), relayed work (R266), the paths' failures (R271), the takeover (R274 to R278). -/

namespace Sys2Proof.Machine

/-! ## Configuration and what the partner is told (R265, R279) -/

/-- The yoke link comes up or goes down; a change is a pulse of source 46 (R303). -/
def setYokeLink (l : YokeLink) (e : Engine) : Engine :=
  whenE ((e.yoke.link == .up) != (l == .up)) (pulse 46) (modYoke (fun y => { y with link := l }) e)

/-- Shadow records of every object of a holding (R265). -/
def shadowAll (h : Fn) (e : Engine) : Engine :=
  let x := e.hold h
  let e := forAll x.ownSqs (fun q => shadow (.sq h q.1 (some q.2.par))) e
  let e := forAll x.ownCqs (fun q => shadow (.cq h q.1 (some q.2.par))) e
  let e := forAll x.ownRings (fun r => shadow (.sheafRing h r.1 (some r.2.par))) e
  let e := match x.alarmRing with | some r => shadow (.alarmRing h (some r.par)) e | none => e
  let e := whenE x.fieldMap.isSome (shadowRowrate h ∘ shadow (.fieldMap h x.fieldMap)) e
  whenE (x.ctxEntries != 0) (shadow (.contextTable h x.ctxBase x.ctxEntries)) e

/-- Journal records of everything of a holding (R260). -/
def journalAll (h : Fn) (e : Engine) : Engine :=
  let x := e.hold h
  let e := forAll x.sqs (fun q => journalSq h q.1 q.2) e
  let e := forAll x.cqs (fun q => journalPos .cq h q.1 q.2.write q.2.settled 0) e
  let e := forAll x.rings (fun r => journalPos .sheafRing h r.1 r.2.write r.2.settled r.2.sequence) e
  let e := match x.alarmRing with | some r => journalPos .alarmRing h 0 r.write r.settled 0 e | none => e
  forAll (e.items.filter fun i => i.jr.holding == h) journalItem e

/-- The whole of this controller's half goes to the partner: when the pair is configured, and when the link comes back. -/
def tellAll (e : Engine) : Engine := forAll e.created (fun h e => journalAll h (shadowAll h e)) e

/-- The commons go to the partner (R27, R265, R279). -/
def tellCommons (e : Engine) : Engine :=
  let ports := (allFin 32).filter fun p => bitOf e.yoke.yokedPorts p.val
  let e := forAll (allFin 1024) (fun n e =>
    whenE (e.commons.rules[n.val] != 0) (mirror (.tripRule n e.commons.rules[n.val])) e) e
  let e := forAll e.created (fun h e =>
    let e := forAll ports (fun p e =>
      let r := e.accepted h p
      mirror (.reserve h (1#32 <<< p.val) r.s r.c r.p r.w) e) e
    mirror (.gleaning h ((e.hold h).gleanNext.foldl (fun _ y => y.1) (e.hold h).glean)) e) e
  let e := forAll ports (fun p e => mirror (.owner (.root p) (e.port p).rh.owner) e) e
  let e := forAll (e.commons.devs.filter fun x => bitOf e.yoke.yokedPorts x.2.root.val)
    (fun x => mirror (.device (BitVec.ofNat 20 x.1) x.2)) e
  mirror (.retention e.pwr.retPlots e.pwr.retL2) e

/-- Ask the partner for a position that it holds (R267). -/
def askFor (pos : LeadPos) (src : Option AdminSrc) (e : Engine) : Engine :=
  if e.yoke.handovers.any fun x => x.pos == pos && x.asking then e
  else
    toPartner (.request pos) (modYoke (fun y => { y with
      handovers := y.handovers ++ [{ pos, asking := true, granted := false, src }] }) e)

/-- The holding has no queues, rings or field map of its own (R279). -/
def Holding.bare (x : Holding) : Bool :=
  x.ownSqs.isEmpty && x.ownCqs.isEmpty && x.ownRings.isEmpty && x.alarmRing.isNone && x.fieldMap.isNone

/-- Something of the lost partner's is served here for a holding (R276, R277). -/
def Holding.adopts (x : Holding) : Bool :=
  x.servesPartner || x.sqs.any (fun q => decide (4096 ≤ q.1)) || x.cqs.any (fun q => decide (4096 ≤ q.1))
    || x.rings.any (fun r => decide (256 ≤ r.1)) || x.alarmAdopted.isSome

/-- Ports that are no longer yoked are this controller's alone, with everything below them. -/
def unyoke (ports : Dword) (e : Engine) : Engine :=
  forAll ((allFin 32).filter fun p => bitOf ports p.val) (fun p e =>
    gainItems (.port p) (forAll (e.duals (.port p)) (fun d => setLead (.hub d) true) (setLead (.port p) true e))) e

/-- The partner's relayed work is given up: its entries, and its descriptors that have not started. -/
def dropRelayed (e : Engine) : Engine :=
  let e := dropVisiting (fun _ => true) (modYoke (fun y => { y with waitingWork := [] }) e)
  forAll (e.staged.filter fun d => d.relayed && d.phase != .started) (fun d => unstage d.id) e

/-- The configuration takes effect here (R265, R279). A controller that joins follows on every yoked port of a survivor, and
of the senior otherwise; lead ports then move by planned handovers. -/
def applyConfig (yoked : Bool) (ports leads : Dword) (e : Engine) : Engine :=
  let joined := e.yoke.yoked
  let old := e.yoke.yokedPorts
  let survivor := joined && e.yoke.takeover.decided
  let e := modYoke (fun y => { y with
    shadow := Vector.replicate 64 {}, positions := [], periodics := [], itemRecs := [], landed := [], returning := []
    resyncLocal := [], resyncPartner := [], linkAt := 0, wireAt := 0, partnerLost := false, linkLost := false
    wireLost := false, takeover := .none, heldResults := [] }) e
  if !yoked then
    let e := dropRelayed (modYoke (fun y => { y with
      yoked := false, yokedPorts := 0, seniorLeads := 0, handovers := [], takes := [], taken := 0 }) e)
    unyoke old e
  else
    let (a, e) := freshValue e
    let (b, e) := freshValue e
    let (c, e) := freshValue e
    let (d, e) := freshValue e
    let e := modYoke (fun y => { y with
      yoked := true, yokedPorts := ports, missLink := 0, missWire := 0, partnerSleeps := false
      tallyAddr := if joined then y.tallyAddr else (a ++ b : Qword) &&& ~~~7#64
      partnerTally := if joined then y.partnerTally else (c ++ d : Qword) &&& ~~~7#64 }) e
    let e := whenE joined (unyoke (old &&& ~~~ports)) e
    let new := if joined then ports &&& ~~~old else ports
    let e := forAll ((allFin 32).filter fun p => bitOf new p.val) (fun p e =>
      if e.senior then setLead (.port p) true e else loseItems (.port p) (loseLead (.port p) e)) e
    let e := modYoke (fun y => { y with seniorLeads := e.seniorMask }) e
    let e := whenE (survivor || (!joined && e.senior)) tellCommons e
    let e := tellAll (tellLead e)
    -- the survivor gives back the adopted holdings that its partner then names as having nothing of their own
    let e := forAll e.created (fun h e => shadow (.holding h (e.hold h).bare) e) e
    let mine := (allFin 32).filter fun p => bitOf ports p.val && bitOf leads p.val == e.senior && !(e.port p).leads
    forAll mine (fun p => askFor (.port p) none) e

/-- The partner, configured anew, has a holding without queues, rings and field map: what this controller adopted of it is
to go back, each adopted SQ by a DISABLE first (R279). -/
def startReturn (h : Fn) (e : Engine) : Engine :=
  if !(e.hold h).adopts || e.yoke.returning.contains h then e
  else
    let e := forAll ((e.hold h).sqs.filter fun q => decide (4096 ≤ q.1))
      (fun q e => sqDrain h q.1 (modSq h q.1 (fun q => { q with state := .stopping }) (discard h q.1 e))) e
    modYoke (fun y => { y with returning := y.returning ++ [h] }) e

/-- An adopted holding whose SQs are DISABLED goes back to its controller (R279). -/
def giveBack (h : Fn) (e : Engine) : Engine :=
  let x := e.hold h
  let sqs := x.sqs.filter fun q => decide (4096 ≤ q.1)
  let cqs := x.cqs.filter fun q => decide (4096 ≤ q.1)
  let rings := x.rings.filter fun r => decide (256 ≤ r.1)
  let busy := sqs.any (fun q => q.2.state != .disabled) || cqs.any (fun q => !q.2.queue.isEmpty)
    || rings.any (fun r => !r.2.queue.isEmpty)
  if busy then e
  else
    let m : SaveImage :=
      { version := 1, holding := h.val, managed := false, epoch := e.clk.epoch, etc := e.clk.etc, frame := e.nextG
        serial := Config.serialNumber
        sqs := sqs.map fun q => { num := q.1 - 4096, par := q.2.par, head := q.2.head, started := q.2.started, enabled := true }
        cqs := cqs.map fun q => { num := q.1 - 4096, par := q.2.par, write := q.2.write, release := q.2.release }
        rings := rings.map fun r => { num := r.1 - 256, par := r.2.par, write := r.2.write, sequence := r.2.sequence }
        alarm := x.alarmAdopted.map fun r => (r.par, r.write)
        fieldMap := x.adoptedMap
        ctxBase := x.ctxBase, ctxEntries := x.ctxEntries, lists := [], groups := [], scheduled := [], seqs := [], digest := 0 }
    let e := modHold h (fun x => { x with
      sqs := x.sqs.filter fun q => decide (q.1 < 4096), cqs := x.cqs.filter fun q => decide (q.1 < 4096)
      rings := x.rings.filter fun r => decide (r.1 < 256), alarmAdopted := none, adoptedMap := none }) e
    shadow (.returned h m) (modYoke (fun y => { y with
      returning := y.returning.erase h, shadow := vmod y.shadow h fun s => { s with rowrate := 0 } }) e)

/-- Put a value at a number that is not in use. -/
def mputNew {α : Type} (m : Map α) (n : Nat) (x : α) : Map α := if mhas m n then m else mput m n x

/-- This controller has returned: its holding resumes the queues and rings that it had at the survivor's positions (R279);
what it has been given in the meantime stands. -/
def takeBack (h : Fn) (m : SaveImage) (e : Engine) : Engine :=
  if !(e.hold h).created then e
  else
    let full (p : RingPos) : RingPos := { p with phase := !p.phase }
    shadowAll h (modHold h (fun x => { x with
      sqs := m.sqs.foldl (fun a q => mputNew a q.num
        { par := q.par, head := q.head, next := q.head, k := q.par.kb, started := q.started, mirror := q.head }) x.sqs
      cqs := m.cqs.foldl (fun a q => mputNew a q.num
        { par := q.par, write := q.write, release := q.release, settled := q.write }) x.cqs
      rings := m.rings.foldl (fun a r => mputNew a r.num
        { par := r.par, write := r.write, release := full r.write, sequence := r.sequence, settled := r.write }) x.rings
      alarmRing := if x.alarmRing.isSome then x.alarmRing
        else m.alarm.map fun r => { par := r.1, write := r.2, release := full r.2, settled := r.2 }
      fieldMapNext := if x.fieldMap.isSome || x.fieldMapNext.isSome then x.fieldMapNext
        else m.fieldMap.map fun f => (some f, e.nextG)
      ctxBase := m.ctxBase, ctxEntries := m.ctxEntries }) e)

/-! ## The partner's records (R260, R261, R265) -/

/-- Update the partner's shadow of a holding. -/
def modShadow (h : Fn) (f : Shadow → Shadow) : Engine → Engine := modYoke fun y => { y with shadow := vmod y.shadow h f }

/-- Store or remove a value at a key. -/
def mputOpt {α : Type} (m : Map α) (n : Nat) : Option α → Map α
  | some x => mput m n x
  | none => mdel m n

/-- A shadow record of the partner (R265, R266, R279). -/
def takeShadow (r : ShadowRecord) (e : Engine) : Engine :=
  match r with
  | .sq h n p => modShadow h (fun s => { s with sqs := mputOpt s.sqs n p }) e
  | .cq h n p => modShadow h (fun s => { s with cqs := mputOpt s.cqs n p }) e
  | .sheafRing h n p => modShadow h (fun s => { s with rings := mputOpt s.rings n p }) e
  | .alarmRing h p => modShadow h (fun s => { s with alarm := p }) e
  | .fieldMap h m => modShadow h (fun s => { s with fieldMap := m }) e
  | .contextTable h base n =>
    let e := modShadow h (fun s => { s with ctxBase := base, ctxEntries := n }) e
    let e := dropCache h (writeBackAll h e)
    modHold h (fun x => { x with ctxBase := base, ctxEntries := n, ctxOf := [] }) e
  | .reapList l true =>
    modCommons (fun c => Commons.markNested { c with
      lists := (c.lists.filter fun y => !(y.hub == l.hub && y.listId == l.listId)) ++ [l] }) e
  | .reapList l false =>
    modCommons (fun c => Commons.markNested { c with
      lists := lmod (fun y => y.hub == l.hub && y.listId == l.listId && y.gone.isNone)
        (fun y => { y with gone := some e.nextG }) c.lists }) e
  | .rowrate h n => modShadow h (fun s => { s with rowrate := n }) e
  | .holding h bare => if bare then startReturn h e else e
  | .returned h m => takeBack h m e

/-- A journal record of the partner (R260, R261). -/
def takeJournal (r : JournalRecord) : Engine → Engine :=
  modYoke fun y =>
    match r with
    | .position p =>
      { y with positions := (y.positions.filter fun q =>
          !(q.kind == p.kind && q.holding == p.holding && q.num == p.num)) ++ [p] }
    | .periodic p =>
      { y with periodics := (y.periodics.filter fun q => { q with replied := p.replied, serial := p.serial } != p) ++ [p] }
    | .periodicFree h d f row =>
      { y with periodics := y.periodics.filter fun q => !(q.holding == h && q.dev == d && q.frame == f && q.row == row) }
    | .item i =>
      { y with itemRecs := (y.itemRecs.filter fun q =>
          !(q.holding == i.holding && q.sq == i.sq && q.unit == i.unit && q.relayed == i.relayed)) ++ [i] }
    | .itemFree h relayed sq unit =>
      { y with itemRecs := y.itemRecs.filter fun q =>
          !(q.holding == h && q.relayed == relayed && q.sq % 4096 == sq && q.unit == unit) }

/-- The partner has come to lead a position, and every dual-upstream hub below it: this controller's part of the handover
ends (R267). -/
def partnerLeads (pos : LeadPos) (e : Engine) : Engine :=
  let e := modYoke (fun y => { y with handovers := y.handovers.filter fun x => !(x.pos == pos && !x.asking) }) e
  let e := loseItems pos (loseLead pos e)
  modYoke (fun y => { y with seniorLeads := e.seniorMask }) e

/-- A commons change of the partner (R27, R265). -/
def takeCommons (c : CommonsChange) (e : Engine) : Engine :=
  match c with
  | .tripRule n r => modCommons (fun c => { c with rules := vmod c.rules n fun _ => r }) e
  | .reserve h ports s c p w => setReserve h ports { s, c, p, w } e.nextG e
  | .gleaning h m => modHold h (fun x => { x with gleanNext := x.gleanNext ++ [(m, e.nextG)] }) e
  | .owner pos h =>
    let e := setOwner pos h e
    (match e.deviceAt pos with
     | some (k, v) => if v.hub.isSome then e else modDev (BitVec.ofNat 20 k) (fun v => { v with owner := h }) e
     | none => e)
  | .configure y ports leads => applyConfig y ports leads e
  | .yokeConfig y ports leads =>
    if !y || !e.yoke.yoked || ports != e.yoke.yokedPorts then e
    else
      let e := forAll ((allFin 32).filter fun p =>
          bitOf ports p.val && (e.port p).leads && bitOf leads p.val != e.senior && e.yoke.handovers.all fun x => x.pos != .port p)
        (fun p => partnerLeads (.port p)) e
      modYoke (fun y => { y with seniorLeads := leads }) e
  | .lead pos => partnerLeads pos e
  | .withdrawn pos =>
    modYoke (fun y => { y with handovers := y.handovers.filter fun x => !(x.pos == pos && !x.asking) }) e
  | .device n v =>
    let old := (e.dev? n).bind (·.hub)
    let hub := v.hub.map fun u => { u with leads := match old with | some o => o.leads | none => (e.port v.root).leads }
    modCommons (fun c => { c with
      devs := mput c.devs n.toNat { v with hub }
      fresh := if n.toNat = c.fresh then c.fresh + 1 else c.fresh
      used := if c.fresh < n.toNat && !c.used.contains n.toNat then c.used ++ [n.toNat] else c.used
      freed := c.freed.filter fun x => x.1 != n }) e
  | .unbind n => unbind 0x12 n e
  | .retention p l => { e with pwr := { e.pwr with retPlots := p, retL2 := l } }

/-! ## Relayed work (R266) -/

/-- The runner starts an entry of the partner's (R266): an item of its own that reports to the home. -/
def runEntry (r : ItemRec) (setup : BitVec 96) (data : List Byte) (e : Engine) : Engine :=
  let jr := { r with sq := relayedSq + r.sq % 4096, relayed := true, adopted := false, status := none }
  match e.lookup r.holding r.dev r.ep with
  | some st => toPartner (.result (.entryEnd r.holding (r.sq % 4096) r.unit st r.bytes)) e
  | none =>
    let busy := !(e.itemsFor r.holding r.dev r.ep).isEmpty
    let (id, e) := newId e
    let i : Item := { id, jr, plot := 0, scatter := [], setup, phase := .waitTurn, attempts := 0, ping := false, data,
                      abort := none, resetting := false }
    let e := journalItem i { e with items := e.items ++ [i] }
    if busy then e else beginItem id e

/-- Start the partner's entries for which their holding has an item record left, in their order (R260). -/
def runWaiting (e : Engine) : Engine :=
  let e' := modYoke (fun y => { y with waitingWork := [] }) e
  forAll e.yoke.waitingWork (fun w e =>
    match w with
    | .entry r setup data =>
      let behind := e.yoke.waitingWork.any fun y => match y with | .entry q _ _ => q.holding == r.holding | _ => false
      if behind || !e.itemRoom r.holding then modYoke (fun y => { y with waitingWork := y.waitingWork ++ [w] }) e
      else runEntry r setup data e
    | .descriptor .. => e) e'

/-- The runner receives an entry: while the holding has no item record left it waits (R260, R266). -/
def takeEntry (w : RelayedWork) (e : Engine) : Engine :=
  runWaiting (freeRecords (modYoke (fun y => { y with waitingWork := y.waitingWork ++ [w] }) e))

/-- The runner receives a periodic descriptor (R266): it is staged, admitted in the holding's region at the strobe of its
row, and served. -/
def runDescriptor (h : Fn) (f : BitVec 48) (row index : Nat) (raw : BitVec 256) (e : Engine) : Engine :=
  let (charge, span) := dCost (e.headPath f (dDev raw)) raw
  let d : Staged := { id := 0, holding := h, plot := 0, port := (e.rootOf (dDev raw)).getD 0, frame := f, row
                      listIndex := index, raw, charge, span, phase := .fetchContext, relayed := true }
  if e.rowPast f row then overrun d e else stageOne d e

/-- The home's item that a relayed result is about. -/
def Engine.relayedItem (e : Engine) (h : Fn) (sq unit : Nat) : Option Item :=
  e.items.find? fun i =>
    i.active && i.phase == .relayed && i.jr.holding == h && i.jr.sq % 4096 == sq % 4096 && i.jr.unit == unit

/-- An overrun of a relayed descriptor is counted and logged at its home (R126, R266). -/
def homeOverrun (d : Staged) (e : Engine) : Engine :=
  countHP d.holding d.port 0 (modFrameLog d.holding d.frame (fun l => { l with
    overrun := l.overrun ++ [(d.row, logIndex d.adopted d.listIndex)] }) e)

/-- A relayed sheaf at its home: the header's fields, and what the holding's counters and log get (R126, R142, R145, R266).
It waits in a sheaf assembly buffer of a place that no transaction uses (R24, R274). -/
def homeSheaf (d : Staged) (header : BitVec 256) (records : List Byte) (cause : Nat) (e : Engine) : Engine :=
  let held := (e.buffers d.port).map (·.2)
  let busy := (e.port d.port).arb.outstanding.filterMap (·.place)
  let place := (e.port d.port).arb.lowest fun k => held.contains k || busy.contains k
  let x : SheafOut :=
    { d.sheaf (fld header 192 64) with
      overrun := bitOf header 2, late := bitOf header 3, short := bitOf header 5, failed := bitOf header 6
      count := fldN header 16 16, serial := fldN header 176 8, records, buf := place.map fun k => (d.port, k) }
  let e := whenE x.overrun (homeOverrun d) e
  let e := if cause = imageCause then
      attn d.holding 0x15 (object := dDev d.raw) (index := d.frame.setWidth 32) (argument := BitVec.ofNat 32 (dList d.raw)) (e := e)
    else whenE (cause != 0) (reapFailure d cause) e
  doneStaged d (deliver d x cause e)

/-- The home's descriptor that a relayed result is about. -/
def Engine.relayedStaged (e : Engine) (h : Fn) (frame : Dword) (row index : Nat) : Option Staged :=
  e.staged.find? fun d =>
    d.phase == .away && d.holding == h && d.frame.setWidth 32 == frame && d.row == row && d.listIndex == index

/-- A relayed descriptor has ended without a sheaf: a SOLO-OUT has been served or was an overrun, or its context shows it to
be invalid (R110, R113, R126). -/
def homeEnd (d : Staged) (how : RelayedEnd) (e : Engine) : Engine :=
  doneStaged d (match how with
    | .served => e
    | .overrun => homeOverrun d e
    | .invalid => d.noteInvalid e)

/-- A relayed result at its home (R266). -/
def takeResult (r : RelayedResult) (e : Engine) : Engine :=
  match r with
  | .entryData h sq unit data =>
    (match e.relayedItem h sq unit with
     | none => e
     | some i =>
       let e := forAll (spread i.scatter i.jr.bytes data) (fun x => hostWrite h x.1 x.2 i.relaxed) e
       modItem i.id (fun i => { i with jr := { i.jr with bytes := i.jr.bytes + data.length } }) e)
  | .entryEnd h sq unit st bytes =>
    (match e.relayedItem h sq unit with
     | none => e
     | some i => endBy i st (modItem i.id (fun i => { i with jr := { i.jr with bytes } }) e))
  | .sheaf h frame row index header records cause =>
    (match e.relayedStaged h frame row index with
     | none => e
     | some d => homeSheaf d header records cause e)
  | .ended h frame row index how =>
    (match e.relayedStaged h frame row index with
     | none => e
     | some d => homeEnd d how e)
  | .counted h port k =>
    match port with
    | some p => countHP h p k e
    | none => countH h k e

/-! ## The paths (R271) -/

/-- The yoke link is lost while both controllers live (R266): the home ends what it has relayed, the runner drops what it
has not started. -/
def relayLost (e : Engine) : Engine :=
  let e := dropVisiting (fun i => !i.begun) (modYoke (fun y => { y with waitingWork := [] }) e)
  let e := forAll (e.staged.filter fun d => d.relayed && d.phase != .started) (fun d => unstage d.id) e
  let e := forAll (e.staged.filter fun d => d.phase == .away) (fun d e => doneStaged d (lostRelay d e)) e
  endItems (fun i => i.phase == .relayed) 0x23 e

/-- "yoke link lost" (R271): condition 4, source 46. -/
def loseYokeLink (e : Engine) : Engine := relayLost (setYokeLink .down (modYoke (fun y => { y with linkLost := true }) e))

/-- "partner lost" (R271): condition 6, which is the level of source 8 (R303), kind 0x0040; a sleeping controller takes over
after its wake (R331). -/
def losePartner (e : Engine) : Engine :=
  let e := setYokeLink .down (modYoke (fun y => { y with partnerLost := true, takeover := .none }) e)
  whenE (e.pwr.chip == .active) startTakeover (attnAll 0x40 (e := e))

/-- The 4th miss of the second path came within 1 us of the first path's (R271). -/
def Yoke.together (y : Yoke) : Bool := decide (y.linkAt ≤ y.wireAt + 1000) && decide (y.wireAt ≤ y.linkAt + 1000)

/-- What the counts of misses lead to. A partner that has announced sleep is watched by the wire alone (R331), and so is one
whose link this controller has stopped for its own sleep (DEDUCED, log entry 39). Paths that fail further apart are each lost
for themselves (log entry 39). -/
def judgePaths (e : Engine) : Engine :=
  let y := e.yoke
  if !y.yoked || y.partnerLost then e
  else if y.partnerSleeps || (y.link != .up && !y.linkLost) then (if 4 ≤ y.missWire then losePartner e else e)
  else if 4 ≤ y.missLink && 4 ≤ y.missWire && y.together then losePartner e
  else if 5 ≤ y.missLink && y.missWire == 0 && !y.linkLost then loseYokeLink e
  else if 5 ≤ y.missWire && y.missLink == 0 && !y.wireLost then modYoke (fun y => { y with wireLost := true }) e
  else e

/-! ## The takeover (R274 to R277) -/

/-- A ring position at which nothing is known to be free: the release word is read first. -/
def fullAt (p : RingPos) : RingPos := { p with phase := !p.phase }

/-- The position record of an object of the partner. -/
def Engine.posRec (e : Engine) (kind : PosKind) (h : Fn) (n : Nat) : Option PosRec :=
  e.yoke.positions.find? fun r => r.kind == kind && r.holding == h && r.num == n

/-- Issued and settled position of an object of the partner. -/
def Engine.posOf (e : Engine) (kind : PosKind) (h : Fn) (n : Nat) : RingPos × RingPos :=
  match e.posRec kind h n with
  | some r => (r.issued, r.settled)
  | none => ({}, {})

/-- The partner's item records of an SQ, in ring order from the last head mirror; decided statuses are not relied on while
the partner half is being resynchronised (R255). -/
def Engine.recsOf (e : Engine) (h : Fn) (n : Nat) (size : Nat) : List ItemRec :=
  let from_ := (e.posOf .sq h n).2.at_
  let away (u : Nat) : Nat := if from_ ≤ u then u - from_ else u + size - from_
  let l := sortBy (fun r => away r.unit) (e.yoke.itemRecs.filter fun r => !r.relayed && r.holding == h && r.sq == n)
  if e.yoke.resyncPartner.contains h then l.map fun r => { r with status := none } else l

/-- Adopt one item of the partner from its record (R276), with its order among the entries of the SQ. An entry that ran here
for the partner goes on from this controller's own record of it. -/
def adoptItem (h : Fn) (n : Nat) (r : ItemRec) (order : Dword) (e : Engine) : Engine :=
  let here := e.items.find? fun i =>
    i.visiting && i.active && i.jr.holding == h && i.jr.sq == relayedSq + n && i.jr.unit == r.unit
  let (jr, e) := match here with
    | some i =>
      (i.jr, { dropItemTx i.id e with items := e.items.filter fun y => y.id != i.id })
    | none => (r, e)
  let (id, e) := newId e
  let plot := match ((e.hold h).ctxIndex r.dev r.ep).bind (e.plotOf h) with | some p => p.val | none => 0
  let i : Item :=
    { id, order, jr := { jr with sq := 4096 + n, adopted := true, relayed := false, status := r.status }, plot, scatter := []
      setup := 0, phase := .waitEntry, attempts := 0, ping := false, data := [], abort := none, resetting := false
      spared := r.status.isNone }
  let e := { e with items := e.items ++ [i] }
  modSq h (4096 + n) (fun q => { q with
    refetch := if r.status.isNone then q.refetch ++ [id] else q.refetch
    batch := q.batch ++ [{ unit := r.unit, order, tag := r.tag, complete := r.complete, interrupt := r.interrupt
                           status := r.status, bytes := r.bytes }] }) e

/-- Adopt an SQ with its items (R276): entries are taken again from the true head. Its items' entries are read again once the
probes of its CQ have shown which of them are finished (R275). -/
def adoptSq (h : Fn) (n : Nat) (par : SqParams) (e : Engine) : Engine :=
  let (issued, settled) := e.posOf .sq h n
  let (v, e) := freshValue e
  let q : Sq := { par, head := issued, next := issued, k := par.kb, mirror := settled, started := v }
  let recs := e.recsOf h n par.size
  let e := modHold h (fun x => { x with sqs := mput x.sqs (4096 + n) q }) e
  let e := forAll recs.zipIdx (fun x => adoptItem h n x.1 (v - BitVec.ofNat 32 (recs.length - x.2))) e
  modCq h (cqKey 4096 par.cq) (fun c => { c with reserved := c.reserved + recs.length }) e

/-- The probes of an adopted CQ have ended: the batches of its SQs close, and their unfinished entries are read again (R275,
R276). -/
def probedSqs (h : Fn) (n : Nat) (e : Engine) : Engine :=
  forAll (e.hold h).sqs (fun y e =>
    if cqKey y.1 y.2.par.cq = n then refetchIssue h y.1 (sweepBatches h y.1 e) else e) e

/-- Read forward from the present position of an adopted object (R275). -/
def probe (h : Fn) (r : RingRef) (addr : Qword) (len : Nat) : Engine → Engine := hostRead h addr len (.probe h r)

/-- The next probe of an adopted CQ. -/
def probeCq (h : Fn) (n : Nat) (e : Engine) : Engine :=
  match mget (e.hold h).cqs n with
  | some q => probe h (.cq n) (q.par.base + BitVec.ofNat 64 (16 * q.write.at_)) 16 e
  | none => e

/-- The next probe of an adopted sheaf ring. -/
def probeRing (h : Fn) (n : Nat) (e : Engine) : Engine :=
  match mget (e.hold h).rings n with
  | some r => probe h (.sheaf n) (r.par.base + BitVec.ofNat 64 r.write.at_) 32 e
  | none => e

/-- The next probe of an adopted alarm ring. -/
def probeAlarm (h : Fn) (e : Engine) : Engine :=
  match (e.hold h).alarmAdopted with
  | some r => probe h (.alarm true) (r.par.base + BitVec.ofNat 64 (16 * r.write.at_)) 16 e
  | none => e

/-- Service of the partner's field map begins once its rings' positions are known (R274, R276): results of past rows that
are not found landed are lost; the walk stages from the present row on. -/
def resumeMap (h : Fn) (e : Engine) : Engine :=
  if (e.hold h).rings.any fun r => r.2.probing then e
  else
    let now : Dword := e.clk.frame.setWidth 32
    let past (r : PeriodicRec) : Bool := !geMod r.frame now || (r.frame == now && decide (r.row < e.clk.row))
    let late := e.yoke.periodics.filter fun r => r.holding == h && past r
    let e := modYoke (fun y => { y with periodics := y.periodics.filter fun r => !(r.holding == h && past r) }) e
    let e := forAll late (fun r e =>
      let f : BitVec 48 := e.clk.frame - ((now - r.frame).setWidth 48)
      let x : SheafOut :=
        { failed := true, solo := r.kind != 1, listId := r.listId, dev := r.dev, ep := r.ep, row := r.row, frame := f
          etc := e.clk.etc, records := recordBytes r.dev r.ep 3 f [] }
      if r.kind = 3 then e
      else
        let e := putSheaf h (r.ring + 256) x e
        whenE (r.kind == 1) (attn h 0x16 (object := r.dev) (index := r.frame)
          (argument := BitVec.ofNat 32 (r.listId + 256 * 6))) e) e
    if !(e.hold h).servesPartner then e
    else
      forAll ((e.hold h).latched.filter fun x => x.1 && decide (e.clk.frame.toNat ≤ x.2.1.toNat))
        (fun x => walkSlot h x.2.1 true x.2.2) e

/-- Adopt what the partner had of one holding (R274, R276, R277). Its admin queues are not taken: admin commands of the lost
controller get no completion. -/
def adoptHolding (h : Fn) (e : Engine) : Engine :=
  let s := e.yoke.shadow[h.val]
  let e := forAll (s.cqs.filter fun q => q.1 != 0) (fun q e =>
    let (issued, settled) := e.posOf .cq h q.1
    let c : Cq :=
      { par := q.2, write := settled, release := fullAt settled, settled, adopted := true, probing := issued != settled }
    modHold h (fun x => { x with cqs := mput x.cqs (4096 + q.1) c }) e) e
  let e := forAll s.rings (fun r e =>
    let (issued, settled) := e.posOf .sheafRing h r.1
    let seq := match e.posRec .sheafRing h r.1 with | some p => p.sequence | none => 0
    let y : SheafRing :=
      { par := r.2, write := settled, release := fullAt settled, settled, sequence := seq, probing := issued != settled }
    modHold h (fun x => { x with rings := mput x.rings (256 + r.1) y }) e) e
  -- what is adopted counts as this controller's own from now on
  let e := modShadow h (fun s => { rowrate := s.rowrate }) e
  let e := modHold h (fun x => { x with
    adoptedMap := s.fieldMap
    alarmAdopted := s.alarm.map fun par =>
      let (issued, settled) := e.posOf .alarmRing h 0
      { par, write := settled, release := fullAt settled, settled, probing := issued != settled } }) e
  let e := forAll (s.sqs.filter fun q => q.1 != 0) (fun q => adoptSq h q.1 q.2) e
  let e := forAll ((e.hold h).cqs.filter fun q => q.2.adopted) (fun q e =>
    let e := readRelease h (.cq q.1) q.2.par.release e
    if q.2.probing then probeCq h q.1 e else probedSqs h q.1 e) e
  let e := forAll ((e.hold h).rings.filter fun r => r.2.probing) (fun r => probeRing h r.1) e
  let e := match (e.hold h).alarmAdopted with | some r => whenE r.probing (probeAlarm h) e | none => e
  resumeMap h e

/-- The tally word has not changed: the partner's holdings are adopted, and the taken ports served (R274, R276). -/
def adopt (e : Engine) : Engine :=
  let before := e.ledPorts &&& ~~~e.yoke.taken
  let held := e.yoke.heldResults
  let e := forAll held takeResult (modYoke (fun y => { y with
    takeover := .adopted, takeovers := y.takeovers + 1, heldResults := [] }) e)
  let on := e.created.filter fun h => (e.hold h).portSet &&& e.yoke.taken != 0
  let e := forAll on (fun h e => attn h 0x41 (index := before) (argument := e.ledPorts) (e := e)) e
  let e := forAll e.created adoptHolding e
  -- an entry or descriptor of the partner that no record of its home names ends with the partner
  let e := dropRelayed e
  let e := forAll ((allFin 32).filter fun p => bitOf e.yoke.yokedPorts p.val && (e.port p).leads) (fun p e =>
    let e := gainItems (.port p) e
    addTakes ((e.lowerDuals p).filter fun d => some d != e.topHub p) p true e.senior .takeover e) e
  settleTaken e

/-- The tally word has changed: split brain (R278). Held results are dropped and counted; the junior probes the ports that
it led. -/
def split (e : Engine) : Engine :=
  let sheaves := e.yoke.heldResults.filter fun r => match r with | .sheaf .. => true | _ => false
  let e := forAll sheaves (fun _ => countDev 7) (modYoke (fun y => { y with takeover := .split, heldResults := [] }) e)
  let e := dropRelayed e
  let e := forAll ((allFin 32).filter fun p => bitOf e.yoke.taken p.val && (e.port p).leads) (fun p => gainItems (.port p)) e
  let mine := (allFin 32).filter fun p =>
    bitOf e.yoke.yokedPorts p.val && (e.port p).leads && !bitOf e.yoke.taken p.val
  let e := if e.senior then e
    else forAll mine (fun p e =>
      match e.topHub p with
      | some d => addTakes [d] p false false .probe e
      | none => e) e
  settleTaken e

/-! ## Probes (R275) -/

/-- A landed completion finishes the entries that it covers (R275, R276). -/
def landedCompletion (h : Fn) (sq index count : Nat) (e : Engine) : Engine :=
  let key := 4096 + sq
  match mget (e.hold h).sqs key with
  | none => e
  | some q =>
    match q.batch.findIdx? fun b => b.unit % 65536 == index with
    | none => e
    | some k =>
      let gone := ((q.batch.take (k + 1)).drop (k + 1 - count)).map (·.order)
      let ids := (e.items.filter fun i => i.jr.holding == h && i.jr.sq == key && gone.contains i.order).map (·.id)
      let e := { e with items := e.items.filter fun i => !ids.contains i.id }
      let e := modSq h key (fun q => { q with
        batch := q.batch.filter fun b => !gone.contains b.order, refetch := q.refetch.filter fun i => !ids.contains i }) e
      modCq h (cqKey key q.par.cq) (fun c => { c with reserved := c.reserved - gone.length }) e

/-- A probe of an adopted CQ. -/
def probedCq (h : Fn) (n : Nat) (data : ReadData) (e : Engine) : Engine :=
  match mget (e.hold h).cqs n with
  | none => e
  | some q =>
    let bs := data.getD []
    if data.isSome && bitOf (BitVec.ofNat 8 (leAt 0 1 bs)) 0 == q.write.phase then
      let e := landedCompletion h (leAt 2 2 bs % 4096) (leAt 4 2 bs) (leAt 6 2 bs) e
      let next := ringAdv q.write 1 q.par.size
      probeCq h n (modCq h n (fun q => { q with write := next, settled := next }) e)
    else
      probedSqs h n (modCq h n (fun q => { q with probing := false }) e)

/-- A probe of an adopted sheaf ring: a landed sheaf's length gives the next position. The sequence of a ring in which
nothing unsettled has landed is not stated (log entry 3). -/
def probedRing (h : Fn) (n : Nat) (data : ReadData) (e : Engine) : Engine :=
  match mget (e.hold h).rings n with
  | none => e
  | some r =>
    let bs := data.getD []
    let w := leAt 0 4 bs
    let len := leAt 16 4 bs
    if data.isSome && (w.testBit 0) == r.write.phase && decide (32 ≤ len) && decide (r.write.at_ + len ≤ r.par.size) then
      let pad := w.testBit 1
      let rest := r.par.size - (r.write.at_ + len)
      let next := ringAdv r.write (len + if rest < 32 then rest else 0) r.par.size
      let x := leAt 4 4 bs
      let same (p : PeriodicRec) : Bool :=
        p.holding == h && p.ring + 256 == n && p.dev.toNat == x % 2 ^ 20 && p.row == x / 2 ^ 24 % 16
          && p.frame.toNat == leAt 8 4 bs && p.listId == w / 256 % 256 && p.ep.toNat == x / 2 ^ 20 % 16
          && (p.kind != 1 || p.serial.toNat % 256 == leAt 22 1 bs)
      let e := modRing h n (fun r => { r with
        write := next, sequence := if pad then r.sequence else BitVec.ofNat 32 (leAt 12 4 bs + 1) }) e
      let e := whenE (!pad) (modYoke fun y => { y with
        landed := y.landed ++ y.periodics.filter same, periodics := y.periodics.filter fun p => !same p }) e
      probeRing h n e
    else
      let none_ := r.write == r.settled
      let (v, e) := freshValue e
      let e := modRing h n (fun r => { r with
        probing := false, settled := r.write, sequence := if none_ then v else r.sequence }) e
      resumeMap h e

/-- A probe of an adopted alarm ring. -/
def probedAlarm (h : Fn) (data : ReadData) (e : Engine) : Engine :=
  match (e.hold h).alarmAdopted with
  | none => e
  | some r =>
    let set (r : AlarmRing) : Engine → Engine := modHold h fun x => { x with alarmAdopted := some r }
    if data.isSome && bitOf (BitVec.ofNat 8 (leAt 0 1 (data.getD []))) 0 == r.write.phase then
      probeAlarm h (set { r with write := ringAdv r.write 1 r.par.size, settled := ringAdv r.write 1 r.par.size } e)
    else set { r with probing := false } e

end Sys2Proof.Machine
end

