-- ==== Sys2Proof/Machine/Yoke.lean ====
section
/-! DEFINITION. The commands of the yoke (09_faults.md R260 to R280, R331, R346): the admin commands, handovers, relayed work,
heartbeats and tally words, the takeover, frame marks. -/

namespace Sys2Proof.Machine

/-! ## Admin commands (R217) -/

/-- The ports that a YOKE CONFIGURE names, and those that the senior is to lead. -/
def cYoke (c : BitVec 512) : Bool × Dword × Dword :=
  let ports : Dword := fld c 288 32
  (cf c 32 0 1 == 1, ports, if cf c 32 1 1 = 1 then ports else fld c 320 32)

/-- YOKE_CONFIGURE (R265, R373): two controllers of the same seniority are no pair; a partner that does not answer leaves
the command waiting. -/
def execYokeConfigure (src : AdminSrc) (answer : Option Bool) (s : State) : Answer :=
  onEng s <| runAdmin
    { op := 0x40, pfOnly := true,
      used := fun _ => [(32, 0, 2), (36, 0, 32), (40, 0, 32)] } src
    (fun _ c e =>
      let (_, ports, leads) := cYoke c
      [{ bad := leads &&& ~~~ports != 0, status := 0x82 },
       { bad := e.yoke.configuring.isSome || (answer == some e.senior && e.yoke.link == .up), status := 0x87 }])
    (fun _ c e =>
      let (y, ports, leads) := cYoke c
      if answer.isNone || e.yoke.link != .up then
        .wait (modYoke (fun x => { x with configuring := some (src, ports, leads) }) e) .yoke
      else
        let e := emitYoke (.commons (.configure y ports leads)) e
        .ok (applyConfig y ports leads e) 0 [])

/-- YOKE_CONFIGURE_TIMEOUT (R265). -/
def execYokeConfigureTimeout (s : State) : Answer :=
  onEng s fun e =>
    match e.yoke.configuring with
    | none => e
    | some x =>
      finishWaiting (fun r => r.src == x.1 && r.wait == .yoke) 0x89
        (e := modYoke (fun y => { y with configuring := none }) e)

/-- The position of TAKE SUBTREE. -/
def cLead (c : BitVec 512) : LeadPos :=
  if cf c 32 25 1 = 1 then .port (finOf 32 (cf c 32 20 5)) else .hub (fld c 256 20)

/-- Every device below a position belongs to a holding. -/
def Engine.ownsBelow (e : Engine) (h : Fn) (pos : LeadPos) : Bool :=
  e.commons.devs.all fun x =>
    let d : DevNum := BitVec.ofNat 20 x.1
    !e.under pos d || x.2.hub.isSome || x.2.owner == h

/-- A device below a position belongs to a frozen holding (R202). -/
def Engine.frozenBelow (e : Engine) (pos : LeadPos) : Bool :=
  e.commons.devs.any fun x =>
    e.under pos (BitVec.ofNat 20 x.1) && x.2.hub.isNone && e.frozen x.2.owner

/-- TAKE_SUBTREE (R267, R217): a position that this controller leads already is led; else the partner is asked. -/
def execTakeSubtree (src : AdminSrc) (s : State) : Answer :=
  onEng s <| runAdmin { op := 0x41, used := fun c => positionFields c 32 } src
    (fun f c e =>
      let pos := cLead c
      let single := match pos with
        | .port _ => false
        | .hub n => match (e.dev? n).bind (·.hub) with | some u => !u.dual | none => true
      [{ bad := f != pf && !e.ownsBelow f pos, status := 0x83 },
       { bad := single, status := 0x82 },
       { bad := !e.yoke.yoked || e.yoke.link != .up, status := 0x89 },
       { bad := !bitOf e.yoke.yokedPorts (e.leadPort pos).val || e.yoke.handovers.any (fun x => x.pos == pos && x.asking)
         status := 0x87 },
       { bad := e.frozenBelow pos, status := 0x87 }])
    (fun _ c e =>
      if e.leadsPos (cLead c) then .ok e 0 [] else .wait (askFor (cLead c) (some src) e) (.take (cLead c)))

/-- YOKE_STATUS (R280): 32 bytes. -/
def execYokeStatus (src : AdminSrc) (s : State) : Answer :=
  onEng s <| runAdmin { op := 0x42 } src (fun _ _ _ => [])
    (fun _ _ e =>
      let y := e.yoke
      let adopted := e.created.any fun h => (e.hold h).adopts
      let b0 := b2n y.yoked + 2 * b2n e.senior + 4 * b2n e.partnerPresent
        + 8 * b2n (y.link == .up && decide (y.missLink < 4)) + 16 * b2n (decide (y.missWire < 4))
        + 32 * b2n (y.takeover == .split) + 64 * b2n adopted
      let l := match y.link with | .down => 0 | .training => 1 | .up => 2
      let theirs := if e.senior then y.yokedPorts &&& ~~~y.seniorLeads else y.seniorLeads
      .ok e 0 (leBytes 1 b0 ++ leBytes 1 l ++ [0, 0] ++ wordBytes y.yokedPorts ++ wordBytes e.ledPorts ++ wordBytes theirs
        ++ leBytes 4 y.takeovers ++ leBytes 4 e.items.length ++ wordBytes y.lastBeat))

/-! ## Handovers (R264, R267, R268) -/

/-- YOKE_REQUEST_RECEIVE: the partner asks for a position that this controller holds; or, holding it itself with a lost link,
asks this one to take it (R264). When both ask for one position the junior withdraws, and then grants (R268). -/
def execYokeRequestReceive (pos : LeadPos) (s : State) : Answer :=
  onEng s fun e =>
    let known := match pos with | .port p => bitOf e.yoke.yokedPorts p.val | .hub n => (e.dev? n).isSome
    if !e.yoke.yoked || e.yoke.link != .up || !known then e
    else
      let own := e.yoke.handovers.find? fun x => x.pos == pos && x.asking
      let hold (e : Engine) : Engine :=
        if e.yoke.handovers.any fun x => x.pos == pos && !x.asking then e
        else modYoke (fun y => { y with
          handovers := y.handovers ++ [{ pos, asking := false, granted := false, src := none }] }) e
      match own with
      | some x =>
        if e.senior then e
        else
          let e := modYoke (fun y => { y with handovers := y.handovers.filter fun z => z != x }) e
          let e := match x.src with
            | some a => finishWaiting (fun r => r.src == a && r.wait == .take pos) 0x87 (e := e)
            | none => e
          hold e
      | none => if e.leadsPos pos then hold e else askFor pos none e

/-- HANDOVER_DRAINED (R267): nothing is outstanding below, the contexts are written back and settled: the holder grants. It
leads the position until the requester reports done. -/
def execHandoverDrained (pos : LeadPos) (s : State) : Answer :=
  onEng s fun e =>
    match e.yoke.handovers.find? fun x => x.pos == pos && !x.asking && !x.granted with
    | none => e
    | some x =>
      if e.busyBelow pos then e
      else
        let e := settleDue (writeBackBelow pos e)
        if !e.settledBelow pos then e
        else
          toPartner (.grant pos) (modYoke (fun y => { y with
            handovers := lmod (· == x) (fun z => { z with granted := true }) y.handovers }) (dropBelow pos e))

/-- YOKE_GRANT_RECEIVE (R267): TAKE goes to each dual-upstream hub, top tier first, with SENIOR. -/
def execYokeGrantReceive (pos : LeadPos) (s : State) : Answer :=
  onEng s <| treeWork fun e =>
    match e.yoke.handovers.find? fun x => x.pos == pos && x.asking && !x.granted with
    | none => e
    | some x =>
      let e := modYoke (fun y => { y with
        handovers := lmod (· == x) (fun z => { z with granted := true }) y.handovers }) e
      match e.duals pos with
      | [] => takeDone pos e
      | hubs => addTakes hubs (e.leadPort pos) true true (.planned pos) e

/-- YOKE_REQUEST_TIMEOUT (R264, R268): the junior withdraws; a leader whose lost port the partner has not taken does without
it (R263). -/
def execYokeRequestTimeout (pos : LeadPos) (s : State) : Answer :=
  onEng s <| treeWork fun e =>
    match e.yoke.handovers.find? fun x => x.pos == pos && x.asking && !x.granted with
    | some x =>
      if e.senior then e
      else
        let e := mirror (.withdrawn pos) (modYoke (fun y => { y with handovers := y.handovers.filter (· != x) }) e)
        (match x.src with
         | some a => finishWaiting (fun r => r.src == a && r.wait == .take pos) 0x89 (e := e)
         | none => e)
    | none =>
      match pos with
      | .port p =>
        if e.shared p && (e.port p).leads && (e.port p).link.state == .ldown then
          modYoke (fun y => { y with handovers := y.handovers.filter fun x => !(x.pos == pos && !x.asking) }) (loseLink p e)
        else e
      | .hub _ => e

/-! ## What the partner sends -/

/-- The pair talks: configured, with the link up. -/
def Engine.linked (e : Engine) : Bool := e.yoke.yoked && e.yoke.link == .up

/-- RELAYED_WORK_RECEIVE (R266). -/
def execRelayedWorkReceive (w : RelayedWork) (s : State) : Answer :=
  onEng s fun e =>
    if !e.linked || !e.live then e
    else match w with
    | .entry .. => takeEntry w e
    | .descriptor h f row index raw => runDescriptor h f row index raw e

/-- RELAYED_RESULT_RECEIVE (R266, R274): held while the takeover is being decided. -/
def execRelayedResultReceive (r : RelayedResult) (s : State) : Answer :=
  onEng s fun e =>
    match e.yoke.takeover with
    | .firstTally _ => modYoke (fun y => { y with heldResults := y.heldResults ++ [r] }) e
    | .secondTally _ => modYoke (fun y => { y with heldResults := y.heldResults ++ [r] }) e
    | .split => (match r with | .sheaf .. => countDev 7 e | _ => e)
    | _ => if e.linked then takeResult r e else e

/-- SHADOW_RECORD_RECEIVE (R265, R266, R279). -/
def execShadowRecordReceive (r : ShadowRecord) (s : State) : Answer :=
  onEng s fun e => if e.linked then takeShadow r e else e

/-- JOURNAL_RECORD_RECEIVE (R260, R261). -/
def execJournalRecordReceive (r : JournalRecord) (s : State) : Answer :=
  onEng s fun e => if e.linked then takeJournal r e else e

/-- COMMONS_MIRROR_RECEIVE (R27, R265): a configuration comes before the pair is one. -/
def execCommonsMirrorReceive (c : CommonsChange) (s : State) : Answer :=
  onEng s fun e =>
    let first := match c with | .configure .. => true | _ => false
    if e.linked || (first && e.yoke.link == .up && e.live) then takeCommons c e else e

/-- SLEEP_BLOCK_RECEIVE (R331): the partner stops the link on purpose. -/
def execSleepBlockReceive (s : State) : Answer :=
  onEng s fun e =>
    if !e.linked then e else setYokeLink .down (modYoke (fun y => { y with partnerSleeps := true }) e)

/-! ## Heartbeats (R271) and tally words (R272) -/

/-- The heartbeat and the tally word run: from READY on, and not while fenced or in reset. -/
def Engine.beats (e : Engine) : Bool := e.live

/-- HEARTBEAT_SEND (R271, R272, R403 control 18). A sleeping controller beats on the wire alone. -/
def execHeartbeatSend (s : State) : Answer :=
  onEng s fun e =>
    if !e.beats then e
    else
      let y := e.yoke
      let e := modYoke (fun y => { y with beats := y.beats + 1 }) e
      let e :=
        if e.pwr.chip != .active || e.yoke.link != .up then e
        else if y.dropLink = 0 then emitYoke (.beat e.yoke.beats) e
        else modYoke (fun y => { y with dropLink := y.dropLink - 1 }) e
      let e :=
        if y.dropWire = 0 then { e with pins := { e.pins with hbOut := !e.pins.hbOut } }
        else modYoke (fun y => { y with dropWire := y.dropWire - 1 }) e
      whenE ((e.ctl 18).on && e.yoke.dropLink == 0 && e.yoke.dropWire == 0) (ctlOff 18) e

/-- HEARTBEAT_RECEIVE (R271). -/
def execHeartbeatReceive (path : BeatPath) (s : State) : Answer :=
  onEng s fun e =>
    match path with
    | .link =>
      if e.yoke.link != .up then e
      else modYoke (fun y => { y with missLink := 0, lastBeat := e.clk.etc }) e
    | .wire =>
      modYoke (fun y => { y with missWire := 0, lastBeat := e.clk.etc, wireLost := y.wireLost && y.partnerLost }) e

/-- HEARTBEAT_MISS (R271, R331). -/
def execHeartbeatMiss (path : BeatPath) (s : State) : Answer :=
  onEng s <| treeWork fun e =>
    if e.pins.inReset || e.fw.fenced then e
    else
      judgePaths (modYoke (fun y =>
        match path with
        | .link => { y with missLink := y.missLink + 1, linkAt := if y.missLink = 3 then e.now else y.linkAt }
        | .wire => { y with missWire := y.missWire + 1, wireAt := if y.missWire = 3 then e.now else y.wireAt }) e)

/-- Write the tally word. It goes on through PE_PERST_N and FLR (R281, R366), which clear function 0's Bus Master Enable; a
clear by the host holds it back as it does every request (R234). -/
def writeTally (e : Engine) : Engine :=
  let word := wordBytes e.yoke.tally ++ wordBytes e.clk.epoch
  if e.pcie.bmeLost && !e.fw.fenced then emitHost (.write pf e.yoke.tallyAddr word false) e
  else hostWrite pf e.yoke.tallyAddr word false e

/-- TALLY_WRITE (R272): the count of tally writes and the EPOCH; the settling read of R262 goes out with it. -/
def execTallyWrite (s : State) : Answer :=
  onEng s fun e =>
    if !e.beats || !e.yoke.yoked || e.pwr.chip != .active then e
    else
      let e := writeTally (modYoke (fun y => { y with tally := y.tally + 1 }) e)
      forAll e.yoke.returning giveBack (settleDue e)

/-- SETTLE_READ_COMPLETE (R262): a failed read settles nothing. -/
def execSettleReadComplete (ok : Bool) (s : State) : Answer :=
  onEng s fun e =>
    match takeRead .settle e with
    | none => staleRead .settle e
    | some e => if ok && !e.held pf then runWaiting (settle e) else e

/-! ## The takeover (R274, R275, R278) -/

/-- TALLY_READ_COMPLETE: the first value is kept; the second decides. A read that fails is made again. -/
def execTallyReadComplete (word : Option Qword) (s : State) : Answer :=
  onEng s <| treeWork fun e =>
    match takeRead .tally e with
    | none => staleRead .tally e
    | some e =>
      match e.yoke.takeover, brought e pf word with
      | .firstTally none, some w => modYoke (fun y => { y with takeover := .firstTally (some w) }) e
      | .secondTally v, some w => if w == v then adopt e else split e
      | .firstTally none, none => hostRead pf e.yoke.partnerTally 8 .tally e
      | .secondTally _, none => hostRead pf e.yoke.partnerTally 8 .tally e
      | _, _ => e

/-- SECOND_TALLY_READ: 4 us after the first. -/
def execSecondTallyRead (s : State) : Answer :=
  onEng s fun e =>
    match e.yoke.takeover with
    | .firstTally (some v) =>
      hostRead pf e.yoke.partnerTally 8 .tally (modYoke (fun y => { y with takeover := .secondTally v }) e)
    | _ => e

/-- PROBE_READ_COMPLETE (R275, R276). -/
def execProbeReadComplete (f : Fn) (ring : RingRef) (data : ReadData) (s : State) : Answer :=
  onEng s fun e =>
    match takeRead (.probe f ring) e with
    | none => staleRead (.probe f ring) e
    | some e =>
      let d := brought e f data
      match ring with
      | .cq n => probedCq f n d e
      | .sheaf n => probedRing f n d e
      | .alarm _ => probedAlarm f d e

/-! ## The yoke link and frame marks (R346) -/

/-- YOKE_LINK_UP (R346, R260): the junior measures the latency; a pair's records go to the partner anew. -/
def execYokeLinkUp (latency : Nat) (s : State) : Answer :=
  onEng s fun e =>
    if !e.live || !e.clk.bclk || e.pwr.chip != .active || e.yoke.link == .up then e
    else
      let e := setYokeLink .up (modYoke (fun y => { y with
        latency, missLink := 0, partnerSleeps := false, linkLost := y.linkLost && y.partnerLost }) e)
      whenE (e.yoke.yoked && !e.yoke.partnerLost) tellAll e

/-- FRAME_MARK_RECEIVE (R346, R267): an error above 1 us makes the junior step its frame timer at its next frame boundary
and take the senior's count; else it adds or drops at most 2 BCLK cycles, how many the spec leaves open (log entry 3). -/
def execFrameMarkReceive (frame : BitVec 48) (_row : Fin 16) (err : Int) (s : State) : Answer :=
  onEng s fun e =>
    if e.senior || !e.linked || !e.clk.timerOn || e.pwr.chip != .active then e
    else if 1000 < err.natAbs then { e with clk := { e.clk with step := some (frame + 1) } }
    else
      let (v, e) := freshValue e
      let n := min (v.toNat % 3) (err.natAbs / 4)
      { e with clk := { e.clk with trim := if 0 < err then -(n : Int) else n } }

end Sys2Proof.Machine
end

