-- ==== Sys2Proof/Machine/Timeouts.lean ====
section
/-! DEFINITION. The expiry of a controller read's PCIe completion timeout (R351). -/

namespace Sys2Proof.Machine

/-- The failed completion of an outstanding read, by its kind (R351). A load from the ring window carries its outcome
(WINDOW_LOAD), so none is outstanding. -/
def failedRead (tag : ReadTag) (s : State) : Answer :=
  match tag with
  | .poll f sq => execPollReadComplete f sq none s
  | .fetch f sq => execFetchReadComplete f sq none s
  | .release f r => execReleaseWordReadComplete f r none s
  | .slot f adopted => execSlotEntryReadComplete f adopted none s
  | .rows p adopted what => execRowListReadComplete p adopted what none s
  | .outSlot id => execOutSlotReadComplete id none s
  | .soloContext id => execSoloContextFetchComplete id none s
  | .reapImage id => execReapImageReadComplete id none s
  | .replant id => execReapImageReadComplete id none s
  | .context id => execContextReadComplete id none s
  | .outData id => execOutDataReadComplete id none s
  | .tally => execTallyReadComplete none s
  | .settle => execSettleReadComplete false s
  | .probe f r => execProbeReadComplete f r none s
  | .hostCopy t => execHostCopyComplete t none s
  | .window _ => onEng s fun e => e
  | .image _ => onEng s fun e => e
  | .save _ => onEng s fun e => e

/-- READ_COMPLETION_TIMEOUT (R351): the read fails, and the requester treats it by the rule for its kind of work; with no
such read outstanding nothing happens. -/
def execReadCompletionTimeout (tag : ReadTag) (s : State) : Answer :=
  if (s.eng.read? tag).isSome then failedRead tag s else onEng s fun e => e

end Sys2Proof.Machine
end

