-- ==== Sys2Proof/Machine/Dispatch.lean ====
section
/-! DEFINITION. One arm per command: a direct call of its meaning. -/

namespace Sys2Proof.Machine

/-- The effect of a command on everything but the queue. -/
def exec (i : Instr) (s : State) : Host.Outcome State Fault Refusal :=
  match i with
  | .identify src => Sys2Proof.Machine.execIdentify src s
  | .quickStart src => Sys2Proof.Machine.execQuickStart src s
  | .createSq src => Sys2Proof.Machine.execCreateSq src s
  | .deleteSq src => Sys2Proof.Machine.execDeleteSq src s
  | .createCq src => Sys2Proof.Machine.execCreateCq src s
  | .deleteCq src => Sys2Proof.Machine.execDeleteCq src s
  | .disableSq src => Sys2Proof.Machine.execDisableSq src s
  | .enableSq src => Sys2Proof.Machine.execEnableSq src s
  | .recallSq src => Sys2Proof.Machine.execRecallSq src s
  | .setPoll src => Sys2Proof.Machine.execSetPoll src s
  | .setContextTable src ctxs => Sys2Proof.Machine.execSetContextTable src ctxs s
  | .setFieldMap src => Sys2Proof.Machine.execSetFieldMap src s
  | .reserve src => Sys2Proof.Machine.execReserve src s
  | .scheduleEndpoint src => Sys2Proof.Machine.execScheduleEndpoint src s
  | .unscheduleEndpoint src => Sys2Proof.Machine.execUnscheduleEndpoint src s
  | .loadReapList src image => Sys2Proof.Machine.execLoadReapList src image s
  | .clearReapList src => Sys2Proof.Machine.execClearReapList src s
  | .reapGroup src => Sys2Proof.Machine.execReapGroup src s
  | .createSheafRing src => Sys2Proof.Machine.execCreateSheafRing src s
  | .createAlarmRing src => Sys2Proof.Machine.execCreateAlarmRing src s
  | .setTripRule src => Sys2Proof.Machine.execSetTripRule src s
  | .enumerate src => Sys2Proof.Machine.execEnumerate src s
  | .assignDevice src => Sys2Proof.Machine.execAssignDevice src s
  | .portControl src => Sys2Proof.Machine.execPortControl src s
  | .deviceReset src => Sys2Proof.Machine.execDeviceReset src s
  | .readAttentionLog src => Sys2Proof.Machine.execReadAttentionLog src s
  | .readCounters src => Sys2Proof.Machine.execReadCounters src s
  | .resetAccount src => Sys2Proof.Machine.execResetAccount src s
  | .holdingCreate src => Sys2Proof.Machine.execHoldingCreate src s
  | .holdingDestroy src => Sys2Proof.Machine.execHoldingDestroy src s
  | .allotPlots src => Sys2Proof.Machine.execAllotPlots src s
  | .holdingReset src => Sys2Proof.Machine.execHoldingReset src s
  | .holdingFreeze src => Sys2Proof.Machine.execHoldingFreeze src s
  | .holdingSave src => Sys2Proof.Machine.execHoldingSave src s
  | .holdingRestore src image => Sys2Proof.Machine.execHoldingRestore src image s
  | .holdingThaw src => Sys2Proof.Machine.execHoldingThaw src s
  | .setGleaning src => Sys2Proof.Machine.execSetGleaning src s
  | .yokeConfigure src answer => Sys2Proof.Machine.execYokeConfigure src answer s
  | .takeSubtree src => Sys2Proof.Machine.execTakeSubtree src s
  | .yokeStatus src => Sys2Proof.Machine.execYokeStatus src s
  | .powerState src => Sys2Proof.Machine.execPowerState src s
  | .setRetention src => Sys2Proof.Machine.execSetRetention src s
  | .loadUserImage src image => Sys2Proof.Machine.execLoadUserImage src image s
  | .userCoreControl src => Sys2Proof.Machine.execUserCoreControl src s
  | .testControl src => Sys2Proof.Machine.execTestControl src s
  | .controllerReset src => Sys2Proof.Machine.execControllerReset src s
  | .controllerResetTakesEffect => Sys2Proof.Machine.execControllerResetTakesEffect s
  | .undefinedAdminOpcode src => Sys2Proof.Machine.execUndefinedAdminOpcode src s
  | .mbxGo f value be => Sys2Proof.Machine.execMbxGo f value be s
  | .pad f sq => Sys2Proof.Machine.execPad f sq s
  | .bulkIn f sq => Sys2Proof.Machine.execBulkIn f sq s
  | .bulkOut f sq => Sys2Proof.Machine.execBulkOut f sq s
  | .control f sq => Sys2Proof.Machine.execControl f sq s
  | .mark f sq => Sys2Proof.Machine.execMark f sq s
  | .reservedTransferOpcode f sq => Sys2Proof.Machine.execReservedTransferOpcode f sq s
  | .pollDue f sq => Sys2Proof.Machine.execPollDue f sq s
  | .pollReadComplete f sq unit => Sys2Proof.Machine.execPollReadComplete f sq unit s
  | .fetchReadComplete f sq units => Sys2Proof.Machine.execFetchReadComplete f sq units s
  | .headMirrorWrite f sq => Sys2Proof.Machine.execHeadMirrorWrite f sq s
  | .completionWrite f cq => Sys2Proof.Machine.execCompletionWrite f cq s
  | .cqModerationTimeout f cq => Sys2Proof.Machine.execCqModerationTimeout f cq s
  | .msixUnmask f vector => Sys2Proof.Machine.execMsixUnmask f vector s
  | .conditionNoteWrite f => Sys2Proof.Machine.execConditionNoteWrite f s
  | .releaseWordReadComplete f ring word => Sys2Proof.Machine.execReleaseWordReadComplete f ring word s
  | .headland => Sys2Proof.Machine.execHeadland s
  | .slotEntryReadComplete f adopted entry => Sys2Proof.Machine.execSlotEntryReadComplete f adopted entry s
  | .rowListReadComplete p adopted what units => Sys2Proof.Machine.execRowListReadComplete p adopted what units s
  | .outSlotReadComplete id data => Sys2Proof.Machine.execOutSlotReadComplete id data s
  | .soloContextFetchComplete id ctx => Sys2Proof.Machine.execSoloContextFetchComplete id ctx s
  | .reapImageReadComplete id image => Sys2Proof.Machine.execReapImageReadComplete id image s
  | .rowBoundary => Sys2Proof.Machine.execRowBoundary s
  | .apollMissRunLog p => Sys2Proof.Machine.execApollMissRunLog p s
  | .arbiterDecision p half => Sys2Proof.Machine.execArbiterDecision p half s
  | .grantWithdraw p => Sys2Proof.Machine.execGrantWithdraw p s
  | .latestStartPassed id => Sys2Proof.Machine.execLatestStartPassed id s
  | .frameRetiredAdvance => Sys2Proof.Machine.execFrameRetiredAdvance s
  | .receiveData p valid bytes => Sys2Proof.Machine.execReceiveData p valid bytes s
  | .receiveAck p valid bytes => Sys2Proof.Machine.execReceiveAck p valid bytes s
  | .receiveNak p valid bytes => Sys2Proof.Machine.execReceiveNak p valid bytes s
  | .receiveStall p valid bytes => Sys2Proof.Machine.execReceiveStall p valid bytes s
  | .replantTransferComplete id => Sys2Proof.Machine.execReplantTransferComplete id s
  | .receiveSheaf p valid bytes => Sys2Proof.Machine.execReceiveSheaf p valid bytes s
  | .sheafWrite f ring => Sys2Proof.Machine.execSheafWrite f ring s
  | .receiveAlarmSheaf p valid bytes => Sys2Proof.Machine.execReceiveAlarmSheaf p valid bytes s
  | .alarmMute dev => Sys2Proof.Machine.execAlarmMute dev s
  | .alarmUnmute dev => Sys2Proof.Machine.execAlarmUnmute dev s
  | .alarmEntryWrite f adopted => Sys2Proof.Machine.execAlarmEntryWrite f adopted s
  | .almInChange n level => Sys2Proof.Machine.execAlmInChange n level s
  | .portChangeReadComplete id => Sys2Proof.Machine.execPortChangeReadComplete id s
  | .enumerationTransferComplete id => Sys2Proof.Machine.execEnumerationTransferComplete id s
  | .powerOnOrderRelease p => Sys2Proof.Machine.execPowerOnOrderRelease p s
  | .transactionTimeout p tx => Sys2Proof.Machine.execTransactionTimeout p tx s
  | .nakReoffer item => Sys2Proof.Machine.execNakReoffer item s
  | .reapTimeout p tx => Sys2Proof.Machine.execReapTimeout p tx s
  | .sidebandScan los => Sys2Proof.Machine.execSidebandScan los s
  | .symbolLockAcquired p => Sys2Proof.Machine.execSymbolLockAcquired p s
  | .lossOfLock p => Sys2Proof.Machine.execLossOfLock p s
  | .trainingMeasured p rtt => Sys2Proof.Machine.execTrainingMeasured p rtt s
  | .trainingTrialTimeout p => Sys2Proof.Machine.execTrainingTrialTimeout p s
  | .lmendTimeout p => Sys2Proof.Machine.execLmendTimeout p s
  | .linkResetElapsed p => Sys2Proof.Machine.execLinkResetElapsed p s
  | .resumeReceived p => Sys2Proof.Machine.execResumeReceived p s
  | .resumeDone p => Sys2Proof.Machine.execResumeDone p s
  | .lwakeTimeout p => Sys2Proof.Machine.execLwakeTimeout p s
  | .suspendDrained p => Sys2Proof.Machine.execSuspendDrained p s
  | .retryHoldoffExpiry p => Sys2Proof.Machine.execRetryHoldoffExpiry p s
  | .debounceExpiry p => Sys2Proof.Machine.execDebounceExpiry p s
  | .resettingTimeout p => Sys2Proof.Machine.execResettingTimeout p s
  | .resumingTimeout p => Sys2Proof.Machine.execResumingTimeout p s
  | .portQuarantine p => Sys2Proof.Machine.execPortQuarantine p s
  | .plotFaultDetected p fault => Sys2Proof.Machine.execPlotFaultDetected p fault s
  | .spare => Sys2Proof.Machine.execSpare s
  | .plotClearComplete p => Sys2Proof.Machine.execPlotClearComplete p s
  | .eccUncorrectable site => Sys2Proof.Machine.execEccUncorrectable site s
  | .portLaneFault p => Sys2Proof.Machine.execPortLaneFault p s
  | .firmwareWatchdogExpiry c => Sys2Proof.Machine.execFirmwareWatchdogExpiry c s
  | .firmwareRestartComplete => Sys2Proof.Machine.execFirmwareRestartComplete s
  | .fence => Sys2Proof.Machine.execFence s
  | .heartbeatSend => Sys2Proof.Machine.execHeartbeatSend s
  | .tallyWrite => Sys2Proof.Machine.execTallyWrite s
  | .heartbeatMiss path => Sys2Proof.Machine.execHeartbeatMiss path s
  | .tallyReadComplete word => Sys2Proof.Machine.execTallyReadComplete word s
  | .settleReadComplete ok => Sys2Proof.Machine.execSettleReadComplete ok s
  | .yokeRequestReceive pos => Sys2Proof.Machine.execYokeRequestReceive pos s
  | .handoverDrained pos => Sys2Proof.Machine.execHandoverDrained pos s
  | .yokeGrantReceive pos => Sys2Proof.Machine.execYokeGrantReceive pos s
  | .yokeRequestTimeout pos => Sys2Proof.Machine.execYokeRequestTimeout pos s
  | .relayedWorkReceive w => Sys2Proof.Machine.execRelayedWorkReceive w s
  | .relayedResultReceive r => Sys2Proof.Machine.execRelayedResultReceive r s
  | .shadowRecordReceive r => Sys2Proof.Machine.execShadowRecordReceive r s
  | .frameMarkReceive frame row err => Sys2Proof.Machine.execFrameMarkReceive frame row err s
  | .sleepBlockReceive => Sys2Proof.Machine.execSleepBlockReceive s
  | .coreWfi c => Sys2Proof.Machine.execCoreWfi c s
  | .powerCommit => Sys2Proof.Machine.execPowerCommit s
  | .wakeEvent src => Sys2Proof.Machine.execWakeEvent src s
  | .wakeExitDone => Sys2Proof.Machine.execWakeExitDone s
  | .governorStep => Sys2Proof.Machine.execGovernorStep s
  | .vddDroop => Sys2Proof.Machine.execVddDroop s
  | .vddDroopRecover => Sys2Proof.Machine.execVddDroopRecover s
  | .thermAlert celsius => Sys2Proof.Machine.execThermAlert celsius s
  | .pwrLimitChange low => Sys2Proof.Machine.execPwrLimitChange low s
  | .throttleEnd => Sys2Proof.Machine.execThrottleEnd s
  | .thermalShutdown celsius => Sys2Proof.Machine.execThermalShutdown celsius s
  | .pllLockLoss pll => Sys2Proof.Machine.execPllLockLoss pll s
  | .pwrWakeFire => Sys2Proof.Machine.execPwrWakeFire s
  | .pwrWakeHiWrite c v => Sys2Proof.Machine.execPwrWakeHiWrite c v s
  | .aliveToggle => Sys2Proof.Machine.execAliveToggle s
  | .cicPulseEvent n => Sys2Proof.Machine.execCicPulseEvent n s
  | .cicLevelRise n => Sys2Proof.Machine.execCicLevelRise n s
  | .cicLevelFall n => Sys2Proof.Machine.execCicLevelFall n s
  | .cicClaim c by_ => Sys2Proof.Machine.execCicClaim c by_ s
  | .cicEoi c by_ v => Sys2Proof.Machine.execCicEoi c by_ v s
  | .cicPendSet c w v => Sys2Proof.Machine.execCicPendSet c w v s
  | .cicPendClr c w v => Sys2Proof.Machine.execCicPendClr c w v s
  | .cicMaskSet c w v => Sys2Proof.Machine.execCicMaskSet c w v s
  | .cicMaskClr c w v => Sys2Proof.Machine.execCicMaskClr c w v s
  | .cicWakeSet c w v => Sys2Proof.Machine.execCicWakeSet c w v s
  | .cicWakeClr c w v => Sys2Proof.Machine.execCicWakeClr c w v s
  | .cicQuar c w v => Sys2Proof.Machine.execCicQuar c w v s
  | .cicRoute c n v => Sys2Proof.Machine.execCicRoute c n v s
  | .cicPrio c n v => Sys2Proof.Machine.execCicPrio c n v s
  | .stormQuarantine n => Sys2Proof.Machine.execStormQuarantine n s
  | .watcherWakeRequest n => Sys2Proof.Machine.execWatcherWakeRequest n s
  | .dspFlagSet c t v => Sys2Proof.Machine.execDspFlagSet c t v s
  | .dspFlagClr c t v => Sys2Proof.Machine.execDspFlagClr c t v s
  | .dspWait c t mask => Sys2Proof.Machine.execDspWait c t mask s
  | .start c t => Sys2Proof.Machine.execStart c t s
  | .stop c t => Sys2Proof.Machine.execStop c t s
  | .dspCtx c t v => Sys2Proof.Machine.execDspCtx c t v s
  | .dspRun c by_ v => Sys2Proof.Machine.execDspRun c by_ v s
  | .dspMode c by_ v => Sys2Proof.Machine.execDspMode c by_ v s
  | .dispatchSwitch c => Sys2Proof.Machine.execDispatchSwitch c s
  | .dspTimerFire c => Sys2Proof.Machine.execDspTimerFire c s
  | .skelkuYield c => Sys2Proof.Machine.execSkelkuYield c s
  | .skelkuWait c mask mode timeout => Sys2Proof.Machine.execSkelkuWait c mask mode timeout s
  | .skelkuSignal c t flags => Sys2Proof.Machine.execSkelkuSignal c t flags s
  | .skelkuClear c flags => Sys2Proof.Machine.execSkelkuClear c flags s
  | .skelkuStart c t entry stack cfg => Sys2Proof.Machine.execSkelkuStart c t entry stack cfg s
  | .skelkuStop c t => Sys2Proof.Machine.execSkelkuStop c t s
  | .skelkuSetPriority c t prio => Sys2Proof.Machine.execSkelkuSetPriority c t prio s
  | .skelkuTime c => Sys2Proof.Machine.execSkelkuTime c s
  | .skelkuSleep c ns => Sys2Proof.Machine.execSkelkuSleep c ns s
  | .skelkuHostCopy c dir offset local_ len => Sys2Proof.Machine.execSkelkuHostCopy c dir offset local_ len s
  | .skelkuAttach c source t flag => Sys2Proof.Machine.execSkelkuAttach c source t flag s
  | .skelkuRearm c source => Sys2Proof.Machine.execSkelkuRearm c source s
  | .tripSoft c v => Sys2Proof.Machine.execTripSoft c v s
  | .dbgHalt value be => Sys2Proof.Machine.execDbgHalt value be s
  | .etcLo f => Sys2Proof.Machine.execEtcLo f s
  | .frameExtLo f => Sys2Proof.Machine.execFrameExtLo f s
  | .arbiterSetDword0Read f offset => Sys2Proof.Machine.execArbiterSetDword0Read f offset s
  | .cntCtrl f selected value be => Sys2Proof.Machine.execCntCtrl f selected value be s
  | .testKey value => Sys2Proof.Machine.execTestKey value s
  | .tpCtl n value be => Sys2Proof.Machine.execTpCtl n value be s
  | .registerWrite port addr value be => Sys2Proof.Machine.execRegisterWrite port addr value be s
  | .pePerstNAssert => Sys2Proof.Machine.execPePerstNAssert s
  | .pePerstNRelease => Sys2Proof.Machine.execPePerstNRelease s
  | .flr f => Sys2Proof.Machine.execFlr f s
  | .holdingResetAbandon f => Sys2Proof.Machine.execHoldingResetAbandon f s
  | .holdingResetEnd f => Sys2Proof.Machine.execHoldingResetEnd f s
  | .vfEnableClear enable numVfs => Sys2Proof.Machine.execVfEnableClear enable numVfs s
  | .busMasterEnableSet f => Sys2Proof.Machine.execBusMasterEnableSet f s
  | .d3hotEntry f => Sys2Proof.Machine.execD3hotEntry f s
  | .readCompletionTimeout tag => Sys2Proof.Machine.execReadCompletionTimeout tag s
  | .porNAssert => Sys2Proof.Machine.execPorNAssert s
  | .pgAoRise => Sys2Proof.Machine.execPgAoRise s
  | .internalResetRelease boot yoke testN => Sys2Proof.Machine.execInternalResetRelease boot yoke testN s
  | .firmwareReady => Sys2Proof.Machine.execFirmwareReady s
  | .extest drive => Sys2Proof.Machine.execExtest drive s
  | .samplePreload preload => Sys2Proof.Machine.execSamplePreload preload s
  | .idcode => Sys2Proof.Machine.execIdcode s
  | .clamp => Sys2Proof.Machine.execClamp s
  | .l2Load dr => Sys2Proof.Machine.execL2Load dr s
  | .otpKey key => Sys2Proof.Machine.execOtpKey key s
  | .bypass code => Sys2Proof.Machine.execBypass code s
  | .tapReset => Sys2Proof.Machine.execTapReset s
  | .yokeLinkUp latency => Sys2Proof.Machine.execYokeLinkUp latency s
  | .heartbeatReceive path => Sys2Proof.Machine.execHeartbeatReceive path s
  | .journalRecordReceive r => Sys2Proof.Machine.execJournalRecordReceive r s
  | .commonsMirrorReceive c => Sys2Proof.Machine.execCommonsMirrorReceive c s
  | .pmeTurnOff => Sys2Proof.Machine.execPmeTurnOff s
  | .d0Return f => Sys2Proof.Machine.execD0Return f s
  | .busMasterEnableClear f => Sys2Proof.Machine.execBusMasterEnableClear f s
  | .vfEnableSet numVfs => Sys2Proof.Machine.execVfEnableSet numVfs s
  | .powerStateDrainTimeout => Sys2Proof.Machine.execPowerStateDrainTimeout s
  | .sleepRequestTimeout => Sys2Proof.Machine.execSleepRequestTimeout s
  | .yokeConfigureTimeout => Sys2Proof.Machine.execYokeConfigureTimeout s
  | .secondTallyRead => Sys2Proof.Machine.execSecondTallyRead s
  | .probeReadComplete f ring data => Sys2Proof.Machine.execProbeReadComplete f ring data s
  | .noValidImage => Sys2Proof.Machine.execNoValidImage s
  | .pllLock pll => Sys2Proof.Machine.execPllLock pll s
  | .entrySequenceEnd => Sys2Proof.Machine.execEntrySequenceEnd s
  | .plotStallEnd p => Sys2Proof.Machine.execPlotStallEnd p s
  | .journalResyncComplete => Sys2Proof.Machine.execJournalResyncComplete s
  | .datapathScrubComplete p => Sys2Proof.Machine.execDatapathScrubComplete p s
  | .contextReadComplete item ctx => Sys2Proof.Machine.execContextReadComplete item ctx s
  | .outDataReadComplete item data => Sys2Proof.Machine.execOutDataReadComplete item data s
  | .hostCopyComplete t data => Sys2Proof.Machine.execHostCopyComplete t data s
  | .windowLoad c addr data => Sys2Proof.Machine.execWindowLoad c addr data s

end Sys2Proof.Machine
end

