-- ==== Sys2Proof/Laws/Word.lean ====
section
/-! SUPPORT. The small lemmas of the word file: fixed arrays after an update, sparse tables after an update. -/

namespace Sys2Proof

@[simp] theorem vmod_same {α : Type} {n : Nat} (v : Vector α n) (i : Fin n) (f : α → α) :
    (vmod v i f)[i.val] = f v[i.val] := by
  simp [vmod]

theorem vmod_other {α : Type} {n : Nat} (v : Vector α n) (i : Fin n) (f : α → α) (j : Nat) (h : j < n)
    (ne : i.val ≠ j) : (vmod v i f)[j] = v[j] := by
  simp [vmod, Vector.getElem_set, ne]

theorem vmod_at {α : Type} {n : Nat} (v : Vector α n) (i j : Fin n) (f : α → α) :
    (vmod v i f)[j.val] = if i = j then f v[j.val] else v[j.val] := by
  by_cases h : i = j
  · subst h; simp
  · rw [if_neg h]; exact vmod_other v i f j.val j.isLt (fun e => h (Fin.ext e))

theorem vmod_id {α : Type} {n : Nat} (v : Vector α n) (i : Fin n) : vmod v i (fun x => x) = v := by
  simp [vmod]

@[simp] theorem mget_nil {α : Type} (i : Nat) : mget ([] : Map α) i = none := rfl

@[simp] theorem mget_mput_same {α : Type} (m : Map α) (i : Nat) (x : α) : mget (mput m i x) i = some x := by
  induction m with
  | nil => simp [mput, mget]
  | cons p t ih =>
    obtain ⟨k, v⟩ := p
    simp only [mput]
    split
    · simp [mget]
    · split
      · simp [mget]
      · rename_i h1 h2
        have : ¬ k = i := fun h => h2 h.symm
        simp [mget, this, ih]

theorem mget_mput_other {α : Type} (m : Map α) (i j : Nat) (x : α) (h : i ≠ j) :
    mget (mput m i x) j = mget m j := by
  induction m with
  | nil => simp [mput, mget, h]
  | cons p t ih =>
    obtain ⟨k, v⟩ := p
    simp only [mput]
    split
    · simp [mget, h]
    · split
      · rename_i h1 h2
        subst h2
        simp [mget, h]
      · simp only [mget, ih]

@[simp] theorem mget_mmod_same {α : Type} (f : α → α) (m : Map α) (i : Nat) :
    mget (mmod f m i) i = (mget m i).map f := by
  induction m with
  | nil => rfl
  | cons p t ih =>
    obtain ⟨k, v⟩ := p
    by_cases h : k = i <;> simp [mmod, mget, h, ih]

theorem mget_mmod_other {α : Type} (f : α → α) (m : Map α) (i j : Nat) (h : i ≠ j) :
    mget (mmod f m i) j = mget m j := by
  induction m with
  | nil => rfl
  | cons p t ih =>
    obtain ⟨k, v⟩ := p
    by_cases hk : k = i
    · subst hk; simp [mmod, mget, h]
    · by_cases hj : k = j
      · subst hj; simp [mmod, mget, hk]
      · simp [mmod, mget, hk, hj, ih]

theorem mget_mdel_other {α : Type} (m : Map α) (i j : Nat) (h : i ≠ j) : mget (mdel m i) j = mget m j := by
  induction m with
  | nil => rfl
  | cons p t ih =>
    obtain ⟨k, v⟩ := p
    by_cases hk : k = i
    · subst hk; simp [mdel, mget, h]
    · simp [mdel, mget, hk, ih]

/-- A folded step keeps what each of its steps keeps. -/
theorem foldl_keeps {α β : Type} {γ : Sort _} (p : β → γ) (f : β → α → β) (l : List α) (b : β)
    (h : ∀ b x, p (f b x) = p b) : p (l.foldl f b) = p b := by
  induction l generalizing b with
  | nil => rfl
  | cons x t ih => rw [List.foldl_cons, ih, h]

end Sys2Proof
end

