-- ==== Sys2Proof/Laws/State.lean ====
section
/-! SUPPORT. What each update of the state leaves alone, one lemma per field per update, and what it makes of the part it
updates. -/

namespace Sys2Proof.Machine

/-! ## modHold -/

@[simp] theorem modHold_clk (h : Fn) (f : Holding → Holding) (e : Engine) : (modHold h f e).clk = e.clk := rfl
@[simp] theorem modHold_pwr (h : Fn) (f : Holding → Holding) (e : Engine) : (modHold h f e).pwr = e.pwr := rfl
@[simp] theorem modHold_pins (h : Fn) (f : Holding → Holding) (e : Engine) : (modHold h f e).pins = e.pins := rfl
@[simp] theorem modHold_pcie (h : Fn) (f : Holding → Holding) (e : Engine) : (modHold h f e).pcie = e.pcie := rfl
@[simp] theorem modHold_fns (h : Fn) (f : Holding → Holding) (e : Engine) : (modHold h f e).fns = e.fns := rfl
@[simp] theorem modHold_ports (h : Fn) (f : Holding → Holding) (e : Engine) : (modHold h f e).ports = e.ports := rfl
@[simp] theorem modHold_plots (h : Fn) (f : Holding → Holding) (e : Engine) : (modHold h f e).plots = e.plots := rfl
@[simp] theorem modHold_commons (h : Fn) (f : Holding → Holding) (e : Engine) : (modHold h f e).commons = e.commons := rfl
@[simp] theorem modHold_items (h : Fn) (f : Holding → Holding) (e : Engine) : (modHold h f e).items = e.items := rfl
@[simp] theorem modHold_staged (h : Fn) (f : Holding → Holding) (e : Engine) : (modHold h f e).staged = e.staged := rfl
@[simp] theorem modHold_frameLogs (h : Fn) (f : Holding → Holding) (e : Engine) : (modHold h f e).frameLogs = e.frameLogs := rfl
@[simp] theorem modHold_headPaths (h : Fn) (f : Holding → Holding) (e : Engine) : (modHold h f e).headPaths = e.headPaths := rfl
@[simp] theorem modHold_admitted (h : Fn) (f : Holding → Holding) (e : Engine) : (modHold h f e).admitted = e.admitted := rfl
@[simp] theorem modHold_toSpare (h : Fn) (f : Holding → Holding) (e : Engine) : (modHold h f e).toSpare = e.toSpare := rfl
@[simp] theorem modHold_yoke (h : Fn) (f : Holding → Holding) (e : Engine) : (modHold h f e).yoke = e.yoke := rfl
@[simp] theorem modHold_fw (h : Fn) (f : Holding → Holding) (e : Engine) : (modHold h f e).fw = e.fw := rfl
@[simp] theorem modHold_jtag (h : Fn) (f : Holding → Holding) (e : Engine) : (modHold h f e).jtag = e.jtag := rfl
@[simp] theorem modHold_test (h : Fn) (f : Holding → Holding) (e : Engine) : (modHold h f e).test = e.test := rfl
@[simp] theorem modHold_cnt (h : Fn) (f : Holding → Holding) (e : Engine) : (modHold h f e).cnt = e.cnt := rfl
@[simp] theorem modHold_reads (h : Fn) (f : Holding → Holding) (e : Engine) : (modHold h f e).reads = e.reads := rfl
@[simp] theorem modHold_ids (h : Fn) (f : Holding → Holding) (e : Engine) : (modHold h f e).ids = e.ids := rfl
@[simp] theorem modHold_free (h : Fn) (f : Holding → Holding) (e : Engine) : (modHold h f e).free = e.free := rfl
@[simp] theorem modHold_readValue (h : Fn) (f : Holding → Holding) (e : Engine) : (modHold h f e).readValue = e.readValue := rfl
@[simp] theorem modHold_degraded (h : Fn) (f : Holding → Holding) (e : Engine) : (modHold h f e).degraded = e.degraded := rfl
@[simp] theorem modHold_pulses (h : Fn) (f : Holding → Holding) (e : Engine) : (modHold h f e).pulses = e.pulses := rfl
@[simp] theorem modHold_out (h : Fn) (f : Holding → Holding) (e : Engine) : (modHold h f e).out = e.out := rfl

/-! ## modFn -/

@[simp] theorem modFn_clk (h : Fn) (f : FnState → FnState) (e : Engine) : (modFn h f e).clk = e.clk := rfl
@[simp] theorem modFn_pwr (h : Fn) (f : FnState → FnState) (e : Engine) : (modFn h f e).pwr = e.pwr := rfl
@[simp] theorem modFn_pins (h : Fn) (f : FnState → FnState) (e : Engine) : (modFn h f e).pins = e.pins := rfl
@[simp] theorem modFn_pcie (h : Fn) (f : FnState → FnState) (e : Engine) : (modFn h f e).pcie = e.pcie := rfl
@[simp] theorem modFn_holdings (h : Fn) (f : FnState → FnState) (e : Engine) : (modFn h f e).holdings = e.holdings := rfl
@[simp] theorem modFn_ports (h : Fn) (f : FnState → FnState) (e : Engine) : (modFn h f e).ports = e.ports := rfl
@[simp] theorem modFn_plots (h : Fn) (f : FnState → FnState) (e : Engine) : (modFn h f e).plots = e.plots := rfl
@[simp] theorem modFn_commons (h : Fn) (f : FnState → FnState) (e : Engine) : (modFn h f e).commons = e.commons := rfl
@[simp] theorem modFn_items (h : Fn) (f : FnState → FnState) (e : Engine) : (modFn h f e).items = e.items := rfl
@[simp] theorem modFn_staged (h : Fn) (f : FnState → FnState) (e : Engine) : (modFn h f e).staged = e.staged := rfl
@[simp] theorem modFn_frameLogs (h : Fn) (f : FnState → FnState) (e : Engine) : (modFn h f e).frameLogs = e.frameLogs := rfl
@[simp] theorem modFn_headPaths (h : Fn) (f : FnState → FnState) (e : Engine) : (modFn h f e).headPaths = e.headPaths := rfl
@[simp] theorem modFn_admitted (h : Fn) (f : FnState → FnState) (e : Engine) : (modFn h f e).admitted = e.admitted := rfl
@[simp] theorem modFn_toSpare (h : Fn) (f : FnState → FnState) (e : Engine) : (modFn h f e).toSpare = e.toSpare := rfl
@[simp] theorem modFn_yoke (h : Fn) (f : FnState → FnState) (e : Engine) : (modFn h f e).yoke = e.yoke := rfl
@[simp] theorem modFn_fw (h : Fn) (f : FnState → FnState) (e : Engine) : (modFn h f e).fw = e.fw := rfl
@[simp] theorem modFn_jtag (h : Fn) (f : FnState → FnState) (e : Engine) : (modFn h f e).jtag = e.jtag := rfl
@[simp] theorem modFn_test (h : Fn) (f : FnState → FnState) (e : Engine) : (modFn h f e).test = e.test := rfl
@[simp] theorem modFn_cnt (h : Fn) (f : FnState → FnState) (e : Engine) : (modFn h f e).cnt = e.cnt := rfl
@[simp] theorem modFn_reads (h : Fn) (f : FnState → FnState) (e : Engine) : (modFn h f e).reads = e.reads := rfl
@[simp] theorem modFn_ids (h : Fn) (f : FnState → FnState) (e : Engine) : (modFn h f e).ids = e.ids := rfl
@[simp] theorem modFn_free (h : Fn) (f : FnState → FnState) (e : Engine) : (modFn h f e).free = e.free := rfl
@[simp] theorem modFn_readValue (h : Fn) (f : FnState → FnState) (e : Engine) : (modFn h f e).readValue = e.readValue := rfl
@[simp] theorem modFn_degraded (h : Fn) (f : FnState → FnState) (e : Engine) : (modFn h f e).degraded = e.degraded := rfl
@[simp] theorem modFn_pulses (h : Fn) (f : FnState → FnState) (e : Engine) : (modFn h f e).pulses = e.pulses := rfl
@[simp] theorem modFn_out (h : Fn) (f : FnState → FnState) (e : Engine) : (modFn h f e).out = e.out := rfl

/-! ## modPort -/

@[simp] theorem modPort_clk (p : PortId) (f : Port → Port) (e : Engine) : (modPort p f e).clk = e.clk := rfl
@[simp] theorem modPort_pwr (p : PortId) (f : Port → Port) (e : Engine) : (modPort p f e).pwr = e.pwr := rfl
@[simp] theorem modPort_pins (p : PortId) (f : Port → Port) (e : Engine) : (modPort p f e).pins = e.pins := rfl
@[simp] theorem modPort_pcie (p : PortId) (f : Port → Port) (e : Engine) : (modPort p f e).pcie = e.pcie := rfl
@[simp] theorem modPort_holdings (p : PortId) (f : Port → Port) (e : Engine) : (modPort p f e).holdings = e.holdings := rfl
@[simp] theorem modPort_fns (p : PortId) (f : Port → Port) (e : Engine) : (modPort p f e).fns = e.fns := rfl
@[simp] theorem modPort_plots (p : PortId) (f : Port → Port) (e : Engine) : (modPort p f e).plots = e.plots := rfl
@[simp] theorem modPort_commons (p : PortId) (f : Port → Port) (e : Engine) : (modPort p f e).commons = e.commons := rfl
@[simp] theorem modPort_items (p : PortId) (f : Port → Port) (e : Engine) : (modPort p f e).items = e.items := rfl
@[simp] theorem modPort_staged (p : PortId) (f : Port → Port) (e : Engine) : (modPort p f e).staged = e.staged := rfl
@[simp] theorem modPort_frameLogs (p : PortId) (f : Port → Port) (e : Engine) : (modPort p f e).frameLogs = e.frameLogs := rfl
@[simp] theorem modPort_headPaths (p : PortId) (f : Port → Port) (e : Engine) : (modPort p f e).headPaths = e.headPaths := rfl
@[simp] theorem modPort_admitted (p : PortId) (f : Port → Port) (e : Engine) : (modPort p f e).admitted = e.admitted := rfl
@[simp] theorem modPort_toSpare (p : PortId) (f : Port → Port) (e : Engine) : (modPort p f e).toSpare = e.toSpare := rfl
@[simp] theorem modPort_yoke (p : PortId) (f : Port → Port) (e : Engine) : (modPort p f e).yoke = e.yoke := rfl
@[simp] theorem modPort_fw (p : PortId) (f : Port → Port) (e : Engine) : (modPort p f e).fw = e.fw := rfl
@[simp] theorem modPort_jtag (p : PortId) (f : Port → Port) (e : Engine) : (modPort p f e).jtag = e.jtag := rfl
@[simp] theorem modPort_test (p : PortId) (f : Port → Port) (e : Engine) : (modPort p f e).test = e.test := rfl
@[simp] theorem modPort_cnt (p : PortId) (f : Port → Port) (e : Engine) : (modPort p f e).cnt = e.cnt := rfl
@[simp] theorem modPort_reads (p : PortId) (f : Port → Port) (e : Engine) : (modPort p f e).reads = e.reads := rfl
@[simp] theorem modPort_ids (p : PortId) (f : Port → Port) (e : Engine) : (modPort p f e).ids = e.ids := rfl
@[simp] theorem modPort_free (p : PortId) (f : Port → Port) (e : Engine) : (modPort p f e).free = e.free := rfl
@[simp] theorem modPort_readValue (p : PortId) (f : Port → Port) (e : Engine) : (modPort p f e).readValue = e.readValue := rfl
@[simp] theorem modPort_degraded (p : PortId) (f : Port → Port) (e : Engine) : (modPort p f e).degraded = e.degraded := rfl
@[simp] theorem modPort_pulses (p : PortId) (f : Port → Port) (e : Engine) : (modPort p f e).pulses = e.pulses := rfl
@[simp] theorem modPort_out (p : PortId) (f : Port → Port) (e : Engine) : (modPort p f e).out = e.out := rfl

/-! ## modPlot -/

@[simp] theorem modPlot_clk (p : PlotId) (f : Plot → Plot) (e : Engine) : (modPlot p f e).clk = e.clk := rfl
@[simp] theorem modPlot_pwr (p : PlotId) (f : Plot → Plot) (e : Engine) : (modPlot p f e).pwr = e.pwr := rfl
@[simp] theorem modPlot_pins (p : PlotId) (f : Plot → Plot) (e : Engine) : (modPlot p f e).pins = e.pins := rfl
@[simp] theorem modPlot_pcie (p : PlotId) (f : Plot → Plot) (e : Engine) : (modPlot p f e).pcie = e.pcie := rfl
@[simp] theorem modPlot_holdings (p : PlotId) (f : Plot → Plot) (e : Engine) : (modPlot p f e).holdings = e.holdings := rfl
@[simp] theorem modPlot_fns (p : PlotId) (f : Plot → Plot) (e : Engine) : (modPlot p f e).fns = e.fns := rfl
@[simp] theorem modPlot_ports (p : PlotId) (f : Plot → Plot) (e : Engine) : (modPlot p f e).ports = e.ports := rfl
@[simp] theorem modPlot_commons (p : PlotId) (f : Plot → Plot) (e : Engine) : (modPlot p f e).commons = e.commons := rfl
@[simp] theorem modPlot_items (p : PlotId) (f : Plot → Plot) (e : Engine) : (modPlot p f e).items = e.items := rfl
@[simp] theorem modPlot_staged (p : PlotId) (f : Plot → Plot) (e : Engine) : (modPlot p f e).staged = e.staged := rfl
@[simp] theorem modPlot_frameLogs (p : PlotId) (f : Plot → Plot) (e : Engine) : (modPlot p f e).frameLogs = e.frameLogs := rfl
@[simp] theorem modPlot_headPaths (p : PlotId) (f : Plot → Plot) (e : Engine) : (modPlot p f e).headPaths = e.headPaths := rfl
@[simp] theorem modPlot_admitted (p : PlotId) (f : Plot → Plot) (e : Engine) : (modPlot p f e).admitted = e.admitted := rfl
@[simp] theorem modPlot_toSpare (p : PlotId) (f : Plot → Plot) (e : Engine) : (modPlot p f e).toSpare = e.toSpare := rfl
@[simp] theorem modPlot_yoke (p : PlotId) (f : Plot → Plot) (e : Engine) : (modPlot p f e).yoke = e.yoke := rfl
@[simp] theorem modPlot_fw (p : PlotId) (f : Plot → Plot) (e : Engine) : (modPlot p f e).fw = e.fw := rfl
@[simp] theorem modPlot_jtag (p : PlotId) (f : Plot → Plot) (e : Engine) : (modPlot p f e).jtag = e.jtag := rfl
@[simp] theorem modPlot_test (p : PlotId) (f : Plot → Plot) (e : Engine) : (modPlot p f e).test = e.test := rfl
@[simp] theorem modPlot_cnt (p : PlotId) (f : Plot → Plot) (e : Engine) : (modPlot p f e).cnt = e.cnt := rfl
@[simp] theorem modPlot_reads (p : PlotId) (f : Plot → Plot) (e : Engine) : (modPlot p f e).reads = e.reads := rfl
@[simp] theorem modPlot_ids (p : PlotId) (f : Plot → Plot) (e : Engine) : (modPlot p f e).ids = e.ids := rfl
@[simp] theorem modPlot_free (p : PlotId) (f : Plot → Plot) (e : Engine) : (modPlot p f e).free = e.free := rfl
@[simp] theorem modPlot_readValue (p : PlotId) (f : Plot → Plot) (e : Engine) : (modPlot p f e).readValue = e.readValue := rfl
@[simp] theorem modPlot_degraded (p : PlotId) (f : Plot → Plot) (e : Engine) : (modPlot p f e).degraded = e.degraded := rfl
@[simp] theorem modPlot_pulses (p : PlotId) (f : Plot → Plot) (e : Engine) : (modPlot p f e).pulses = e.pulses := rfl
@[simp] theorem modPlot_out (p : PlotId) (f : Plot → Plot) (e : Engine) : (modPlot p f e).out = e.out := rfl

/-! ## modPfn -/

@[simp] theorem modPfn_clk (h : Fn) (f : FnPcie → FnPcie) (e : Engine) : (modPfn h f e).clk = e.clk := rfl
@[simp] theorem modPfn_pwr (h : Fn) (f : FnPcie → FnPcie) (e : Engine) : (modPfn h f e).pwr = e.pwr := rfl
@[simp] theorem modPfn_pins (h : Fn) (f : FnPcie → FnPcie) (e : Engine) : (modPfn h f e).pins = e.pins := rfl
@[simp] theorem modPfn_holdings (h : Fn) (f : FnPcie → FnPcie) (e : Engine) : (modPfn h f e).holdings = e.holdings := rfl
@[simp] theorem modPfn_fns (h : Fn) (f : FnPcie → FnPcie) (e : Engine) : (modPfn h f e).fns = e.fns := rfl
@[simp] theorem modPfn_ports (h : Fn) (f : FnPcie → FnPcie) (e : Engine) : (modPfn h f e).ports = e.ports := rfl
@[simp] theorem modPfn_plots (h : Fn) (f : FnPcie → FnPcie) (e : Engine) : (modPfn h f e).plots = e.plots := rfl
@[simp] theorem modPfn_commons (h : Fn) (f : FnPcie → FnPcie) (e : Engine) : (modPfn h f e).commons = e.commons := rfl
@[simp] theorem modPfn_items (h : Fn) (f : FnPcie → FnPcie) (e : Engine) : (modPfn h f e).items = e.items := rfl
@[simp] theorem modPfn_staged (h : Fn) (f : FnPcie → FnPcie) (e : Engine) : (modPfn h f e).staged = e.staged := rfl
@[simp] theorem modPfn_frameLogs (h : Fn) (f : FnPcie → FnPcie) (e : Engine) : (modPfn h f e).frameLogs = e.frameLogs := rfl
@[simp] theorem modPfn_headPaths (h : Fn) (f : FnPcie → FnPcie) (e : Engine) : (modPfn h f e).headPaths = e.headPaths := rfl
@[simp] theorem modPfn_admitted (h : Fn) (f : FnPcie → FnPcie) (e : Engine) : (modPfn h f e).admitted = e.admitted := rfl
@[simp] theorem modPfn_toSpare (h : Fn) (f : FnPcie → FnPcie) (e : Engine) : (modPfn h f e).toSpare = e.toSpare := rfl
@[simp] theorem modPfn_yoke (h : Fn) (f : FnPcie → FnPcie) (e : Engine) : (modPfn h f e).yoke = e.yoke := rfl
@[simp] theorem modPfn_fw (h : Fn) (f : FnPcie → FnPcie) (e : Engine) : (modPfn h f e).fw = e.fw := rfl
@[simp] theorem modPfn_jtag (h : Fn) (f : FnPcie → FnPcie) (e : Engine) : (modPfn h f e).jtag = e.jtag := rfl
@[simp] theorem modPfn_test (h : Fn) (f : FnPcie → FnPcie) (e : Engine) : (modPfn h f e).test = e.test := rfl
@[simp] theorem modPfn_cnt (h : Fn) (f : FnPcie → FnPcie) (e : Engine) : (modPfn h f e).cnt = e.cnt := rfl
@[simp] theorem modPfn_reads (h : Fn) (f : FnPcie → FnPcie) (e : Engine) : (modPfn h f e).reads = e.reads := rfl
@[simp] theorem modPfn_ids (h : Fn) (f : FnPcie → FnPcie) (e : Engine) : (modPfn h f e).ids = e.ids := rfl
@[simp] theorem modPfn_free (h : Fn) (f : FnPcie → FnPcie) (e : Engine) : (modPfn h f e).free = e.free := rfl
@[simp] theorem modPfn_readValue (h : Fn) (f : FnPcie → FnPcie) (e : Engine) : (modPfn h f e).readValue = e.readValue := rfl
@[simp] theorem modPfn_degraded (h : Fn) (f : FnPcie → FnPcie) (e : Engine) : (modPfn h f e).degraded = e.degraded := rfl
@[simp] theorem modPfn_pulses (h : Fn) (f : FnPcie → FnPcie) (e : Engine) : (modPfn h f e).pulses = e.pulses := rfl
@[simp] theorem modPfn_out (h : Fn) (f : FnPcie → FnPcie) (e : Engine) : (modPfn h f e).out = e.out := rfl

/-! ## modLink -/

@[simp] theorem modLink_clk (p : PortId) (f : Link → Link) (e : Engine) : (modLink p f e).clk = e.clk := rfl
@[simp] theorem modLink_pwr (p : PortId) (f : Link → Link) (e : Engine) : (modLink p f e).pwr = e.pwr := rfl
@[simp] theorem modLink_pins (p : PortId) (f : Link → Link) (e : Engine) : (modLink p f e).pins = e.pins := rfl
@[simp] theorem modLink_pcie (p : PortId) (f : Link → Link) (e : Engine) : (modLink p f e).pcie = e.pcie := rfl
@[simp] theorem modLink_holdings (p : PortId) (f : Link → Link) (e : Engine) : (modLink p f e).holdings = e.holdings := rfl
@[simp] theorem modLink_fns (p : PortId) (f : Link → Link) (e : Engine) : (modLink p f e).fns = e.fns := rfl
@[simp] theorem modLink_plots (p : PortId) (f : Link → Link) (e : Engine) : (modLink p f e).plots = e.plots := rfl
@[simp] theorem modLink_commons (p : PortId) (f : Link → Link) (e : Engine) : (modLink p f e).commons = e.commons := rfl
@[simp] theorem modLink_items (p : PortId) (f : Link → Link) (e : Engine) : (modLink p f e).items = e.items := rfl
@[simp] theorem modLink_staged (p : PortId) (f : Link → Link) (e : Engine) : (modLink p f e).staged = e.staged := rfl
@[simp] theorem modLink_frameLogs (p : PortId) (f : Link → Link) (e : Engine) : (modLink p f e).frameLogs = e.frameLogs := rfl
@[simp] theorem modLink_headPaths (p : PortId) (f : Link → Link) (e : Engine) : (modLink p f e).headPaths = e.headPaths := rfl
@[simp] theorem modLink_admitted (p : PortId) (f : Link → Link) (e : Engine) : (modLink p f e).admitted = e.admitted := rfl
@[simp] theorem modLink_toSpare (p : PortId) (f : Link → Link) (e : Engine) : (modLink p f e).toSpare = e.toSpare := rfl
@[simp] theorem modLink_yoke (p : PortId) (f : Link → Link) (e : Engine) : (modLink p f e).yoke = e.yoke := rfl
@[simp] theorem modLink_fw (p : PortId) (f : Link → Link) (e : Engine) : (modLink p f e).fw = e.fw := rfl
@[simp] theorem modLink_jtag (p : PortId) (f : Link → Link) (e : Engine) : (modLink p f e).jtag = e.jtag := rfl
@[simp] theorem modLink_test (p : PortId) (f : Link → Link) (e : Engine) : (modLink p f e).test = e.test := rfl
@[simp] theorem modLink_cnt (p : PortId) (f : Link → Link) (e : Engine) : (modLink p f e).cnt = e.cnt := rfl
@[simp] theorem modLink_reads (p : PortId) (f : Link → Link) (e : Engine) : (modLink p f e).reads = e.reads := rfl
@[simp] theorem modLink_ids (p : PortId) (f : Link → Link) (e : Engine) : (modLink p f e).ids = e.ids := rfl
@[simp] theorem modLink_free (p : PortId) (f : Link → Link) (e : Engine) : (modLink p f e).free = e.free := rfl
@[simp] theorem modLink_readValue (p : PortId) (f : Link → Link) (e : Engine) : (modLink p f e).readValue = e.readValue := rfl
@[simp] theorem modLink_degraded (p : PortId) (f : Link → Link) (e : Engine) : (modLink p f e).degraded = e.degraded := rfl
@[simp] theorem modLink_pulses (p : PortId) (f : Link → Link) (e : Engine) : (modLink p f e).pulses = e.pulses := rfl
@[simp] theorem modLink_out (p : PortId) (f : Link → Link) (e : Engine) : (modLink p f e).out = e.out := rfl

/-! ## modRh -/

@[simp] theorem modRh_clk (p : PortId) (f : Rh → Rh) (e : Engine) : (modRh p f e).clk = e.clk := rfl
@[simp] theorem modRh_pwr (p : PortId) (f : Rh → Rh) (e : Engine) : (modRh p f e).pwr = e.pwr := rfl
@[simp] theorem modRh_pins (p : PortId) (f : Rh → Rh) (e : Engine) : (modRh p f e).pins = e.pins := rfl
@[simp] theorem modRh_pcie (p : PortId) (f : Rh → Rh) (e : Engine) : (modRh p f e).pcie = e.pcie := rfl
@[simp] theorem modRh_holdings (p : PortId) (f : Rh → Rh) (e : Engine) : (modRh p f e).holdings = e.holdings := rfl
@[simp] theorem modRh_fns (p : PortId) (f : Rh → Rh) (e : Engine) : (modRh p f e).fns = e.fns := rfl
@[simp] theorem modRh_plots (p : PortId) (f : Rh → Rh) (e : Engine) : (modRh p f e).plots = e.plots := rfl
@[simp] theorem modRh_commons (p : PortId) (f : Rh → Rh) (e : Engine) : (modRh p f e).commons = e.commons := rfl
@[simp] theorem modRh_items (p : PortId) (f : Rh → Rh) (e : Engine) : (modRh p f e).items = e.items := rfl
@[simp] theorem modRh_staged (p : PortId) (f : Rh → Rh) (e : Engine) : (modRh p f e).staged = e.staged := rfl
@[simp] theorem modRh_frameLogs (p : PortId) (f : Rh → Rh) (e : Engine) : (modRh p f e).frameLogs = e.frameLogs := rfl
@[simp] theorem modRh_headPaths (p : PortId) (f : Rh → Rh) (e : Engine) : (modRh p f e).headPaths = e.headPaths := rfl
@[simp] theorem modRh_admitted (p : PortId) (f : Rh → Rh) (e : Engine) : (modRh p f e).admitted = e.admitted := rfl
@[simp] theorem modRh_toSpare (p : PortId) (f : Rh → Rh) (e : Engine) : (modRh p f e).toSpare = e.toSpare := rfl
@[simp] theorem modRh_yoke (p : PortId) (f : Rh → Rh) (e : Engine) : (modRh p f e).yoke = e.yoke := rfl
@[simp] theorem modRh_fw (p : PortId) (f : Rh → Rh) (e : Engine) : (modRh p f e).fw = e.fw := rfl
@[simp] theorem modRh_jtag (p : PortId) (f : Rh → Rh) (e : Engine) : (modRh p f e).jtag = e.jtag := rfl
@[simp] theorem modRh_test (p : PortId) (f : Rh → Rh) (e : Engine) : (modRh p f e).test = e.test := rfl
@[simp] theorem modRh_cnt (p : PortId) (f : Rh → Rh) (e : Engine) : (modRh p f e).cnt = e.cnt := rfl
@[simp] theorem modRh_reads (p : PortId) (f : Rh → Rh) (e : Engine) : (modRh p f e).reads = e.reads := rfl
@[simp] theorem modRh_ids (p : PortId) (f : Rh → Rh) (e : Engine) : (modRh p f e).ids = e.ids := rfl
@[simp] theorem modRh_free (p : PortId) (f : Rh → Rh) (e : Engine) : (modRh p f e).free = e.free := rfl
@[simp] theorem modRh_readValue (p : PortId) (f : Rh → Rh) (e : Engine) : (modRh p f e).readValue = e.readValue := rfl
@[simp] theorem modRh_degraded (p : PortId) (f : Rh → Rh) (e : Engine) : (modRh p f e).degraded = e.degraded := rfl
@[simp] theorem modRh_pulses (p : PortId) (f : Rh → Rh) (e : Engine) : (modRh p f e).pulses = e.pulses := rfl
@[simp] theorem modRh_out (p : PortId) (f : Rh → Rh) (e : Engine) : (modRh p f e).out = e.out := rfl

/-! ## modArb -/

@[simp] theorem modArb_clk (p : PortId) (f : PortArb → PortArb) (e : Engine) : (modArb p f e).clk = e.clk := rfl
@[simp] theorem modArb_pwr (p : PortId) (f : PortArb → PortArb) (e : Engine) : (modArb p f e).pwr = e.pwr := rfl
@[simp] theorem modArb_pins (p : PortId) (f : PortArb → PortArb) (e : Engine) : (modArb p f e).pins = e.pins := rfl
@[simp] theorem modArb_pcie (p : PortId) (f : PortArb → PortArb) (e : Engine) : (modArb p f e).pcie = e.pcie := rfl
@[simp] theorem modArb_holdings (p : PortId) (f : PortArb → PortArb) (e : Engine) : (modArb p f e).holdings = e.holdings := rfl
@[simp] theorem modArb_fns (p : PortId) (f : PortArb → PortArb) (e : Engine) : (modArb p f e).fns = e.fns := rfl
@[simp] theorem modArb_plots (p : PortId) (f : PortArb → PortArb) (e : Engine) : (modArb p f e).plots = e.plots := rfl
@[simp] theorem modArb_commons (p : PortId) (f : PortArb → PortArb) (e : Engine) : (modArb p f e).commons = e.commons := rfl
@[simp] theorem modArb_items (p : PortId) (f : PortArb → PortArb) (e : Engine) : (modArb p f e).items = e.items := rfl
@[simp] theorem modArb_staged (p : PortId) (f : PortArb → PortArb) (e : Engine) : (modArb p f e).staged = e.staged := rfl
@[simp] theorem modArb_frameLogs (p : PortId) (f : PortArb → PortArb) (e : Engine) : (modArb p f e).frameLogs = e.frameLogs := rfl
@[simp] theorem modArb_headPaths (p : PortId) (f : PortArb → PortArb) (e : Engine) : (modArb p f e).headPaths = e.headPaths := rfl
@[simp] theorem modArb_admitted (p : PortId) (f : PortArb → PortArb) (e : Engine) : (modArb p f e).admitted = e.admitted := rfl
@[simp] theorem modArb_toSpare (p : PortId) (f : PortArb → PortArb) (e : Engine) : (modArb p f e).toSpare = e.toSpare := rfl
@[simp] theorem modArb_yoke (p : PortId) (f : PortArb → PortArb) (e : Engine) : (modArb p f e).yoke = e.yoke := rfl
@[simp] theorem modArb_fw (p : PortId) (f : PortArb → PortArb) (e : Engine) : (modArb p f e).fw = e.fw := rfl
@[simp] theorem modArb_jtag (p : PortId) (f : PortArb → PortArb) (e : Engine) : (modArb p f e).jtag = e.jtag := rfl
@[simp] theorem modArb_test (p : PortId) (f : PortArb → PortArb) (e : Engine) : (modArb p f e).test = e.test := rfl
@[simp] theorem modArb_cnt (p : PortId) (f : PortArb → PortArb) (e : Engine) : (modArb p f e).cnt = e.cnt := rfl
@[simp] theorem modArb_reads (p : PortId) (f : PortArb → PortArb) (e : Engine) : (modArb p f e).reads = e.reads := rfl
@[simp] theorem modArb_ids (p : PortId) (f : PortArb → PortArb) (e : Engine) : (modArb p f e).ids = e.ids := rfl
@[simp] theorem modArb_free (p : PortId) (f : PortArb → PortArb) (e : Engine) : (modArb p f e).free = e.free := rfl
@[simp] theorem modArb_readValue (p : PortId) (f : PortArb → PortArb) (e : Engine) : (modArb p f e).readValue = e.readValue := rfl
@[simp] theorem modArb_degraded (p : PortId) (f : PortArb → PortArb) (e : Engine) : (modArb p f e).degraded = e.degraded := rfl
@[simp] theorem modArb_pulses (p : PortId) (f : PortArb → PortArb) (e : Engine) : (modArb p f e).pulses = e.pulses := rfl
@[simp] theorem modArb_out (p : PortId) (f : PortArb → PortArb) (e : Engine) : (modArb p f e).out = e.out := rfl

/-! ## modSq -/

@[simp] theorem modSq_clk (h : Fn) (n : Nat) (f : Sq → Sq) (e : Engine) : (modSq h n f e).clk = e.clk := rfl
@[simp] theorem modSq_pwr (h : Fn) (n : Nat) (f : Sq → Sq) (e : Engine) : (modSq h n f e).pwr = e.pwr := rfl
@[simp] theorem modSq_pins (h : Fn) (n : Nat) (f : Sq → Sq) (e : Engine) : (modSq h n f e).pins = e.pins := rfl
@[simp] theorem modSq_pcie (h : Fn) (n : Nat) (f : Sq → Sq) (e : Engine) : (modSq h n f e).pcie = e.pcie := rfl
@[simp] theorem modSq_fns (h : Fn) (n : Nat) (f : Sq → Sq) (e : Engine) : (modSq h n f e).fns = e.fns := rfl
@[simp] theorem modSq_ports (h : Fn) (n : Nat) (f : Sq → Sq) (e : Engine) : (modSq h n f e).ports = e.ports := rfl
@[simp] theorem modSq_plots (h : Fn) (n : Nat) (f : Sq → Sq) (e : Engine) : (modSq h n f e).plots = e.plots := rfl
@[simp] theorem modSq_commons (h : Fn) (n : Nat) (f : Sq → Sq) (e : Engine) : (modSq h n f e).commons = e.commons := rfl
@[simp] theorem modSq_items (h : Fn) (n : Nat) (f : Sq → Sq) (e : Engine) : (modSq h n f e).items = e.items := rfl
@[simp] theorem modSq_staged (h : Fn) (n : Nat) (f : Sq → Sq) (e : Engine) : (modSq h n f e).staged = e.staged := rfl
@[simp] theorem modSq_frameLogs (h : Fn) (n : Nat) (f : Sq → Sq) (e : Engine) : (modSq h n f e).frameLogs = e.frameLogs := rfl
@[simp] theorem modSq_headPaths (h : Fn) (n : Nat) (f : Sq → Sq) (e : Engine) : (modSq h n f e).headPaths = e.headPaths := rfl
@[simp] theorem modSq_admitted (h : Fn) (n : Nat) (f : Sq → Sq) (e : Engine) : (modSq h n f e).admitted = e.admitted := rfl
@[simp] theorem modSq_toSpare (h : Fn) (n : Nat) (f : Sq → Sq) (e : Engine) : (modSq h n f e).toSpare = e.toSpare := rfl
@[simp] theorem modSq_yoke (h : Fn) (n : Nat) (f : Sq → Sq) (e : Engine) : (modSq h n f e).yoke = e.yoke := rfl
@[simp] theorem modSq_fw (h : Fn) (n : Nat) (f : Sq → Sq) (e : Engine) : (modSq h n f e).fw = e.fw := rfl
@[simp] theorem modSq_jtag (h : Fn) (n : Nat) (f : Sq → Sq) (e : Engine) : (modSq h n f e).jtag = e.jtag := rfl
@[simp] theorem modSq_test (h : Fn) (n : Nat) (f : Sq → Sq) (e : Engine) : (modSq h n f e).test = e.test := rfl
@[simp] theorem modSq_cnt (h : Fn) (n : Nat) (f : Sq → Sq) (e : Engine) : (modSq h n f e).cnt = e.cnt := rfl
@[simp] theorem modSq_reads (h : Fn) (n : Nat) (f : Sq → Sq) (e : Engine) : (modSq h n f e).reads = e.reads := rfl
@[simp] theorem modSq_ids (h : Fn) (n : Nat) (f : Sq → Sq) (e : Engine) : (modSq h n f e).ids = e.ids := rfl
@[simp] theorem modSq_free (h : Fn) (n : Nat) (f : Sq → Sq) (e : Engine) : (modSq h n f e).free = e.free := rfl
@[simp] theorem modSq_readValue (h : Fn) (n : Nat) (f : Sq → Sq) (e : Engine) : (modSq h n f e).readValue = e.readValue := rfl
@[simp] theorem modSq_degraded (h : Fn) (n : Nat) (f : Sq → Sq) (e : Engine) : (modSq h n f e).degraded = e.degraded := rfl
@[simp] theorem modSq_pulses (h : Fn) (n : Nat) (f : Sq → Sq) (e : Engine) : (modSq h n f e).pulses = e.pulses := rfl
@[simp] theorem modSq_out (h : Fn) (n : Nat) (f : Sq → Sq) (e : Engine) : (modSq h n f e).out = e.out := rfl

/-! ## modCq -/

@[simp] theorem modCq_clk (h : Fn) (n : Nat) (f : Cq → Cq) (e : Engine) : (modCq h n f e).clk = e.clk := rfl
@[simp] theorem modCq_pwr (h : Fn) (n : Nat) (f : Cq → Cq) (e : Engine) : (modCq h n f e).pwr = e.pwr := rfl
@[simp] theorem modCq_pins (h : Fn) (n : Nat) (f : Cq → Cq) (e : Engine) : (modCq h n f e).pins = e.pins := rfl
@[simp] theorem modCq_pcie (h : Fn) (n : Nat) (f : Cq → Cq) (e : Engine) : (modCq h n f e).pcie = e.pcie := rfl
@[simp] theorem modCq_fns (h : Fn) (n : Nat) (f : Cq → Cq) (e : Engine) : (modCq h n f e).fns = e.fns := rfl
@[simp] theorem modCq_ports (h : Fn) (n : Nat) (f : Cq → Cq) (e : Engine) : (modCq h n f e).ports = e.ports := rfl
@[simp] theorem modCq_plots (h : Fn) (n : Nat) (f : Cq → Cq) (e : Engine) : (modCq h n f e).plots = e.plots := rfl
@[simp] theorem modCq_commons (h : Fn) (n : Nat) (f : Cq → Cq) (e : Engine) : (modCq h n f e).commons = e.commons := rfl
@[simp] theorem modCq_items (h : Fn) (n : Nat) (f : Cq → Cq) (e : Engine) : (modCq h n f e).items = e.items := rfl
@[simp] theorem modCq_staged (h : Fn) (n : Nat) (f : Cq → Cq) (e : Engine) : (modCq h n f e).staged = e.staged := rfl
@[simp] theorem modCq_frameLogs (h : Fn) (n : Nat) (f : Cq → Cq) (e : Engine) : (modCq h n f e).frameLogs = e.frameLogs := rfl
@[simp] theorem modCq_headPaths (h : Fn) (n : Nat) (f : Cq → Cq) (e : Engine) : (modCq h n f e).headPaths = e.headPaths := rfl
@[simp] theorem modCq_admitted (h : Fn) (n : Nat) (f : Cq → Cq) (e : Engine) : (modCq h n f e).admitted = e.admitted := rfl
@[simp] theorem modCq_toSpare (h : Fn) (n : Nat) (f : Cq → Cq) (e : Engine) : (modCq h n f e).toSpare = e.toSpare := rfl
@[simp] theorem modCq_yoke (h : Fn) (n : Nat) (f : Cq → Cq) (e : Engine) : (modCq h n f e).yoke = e.yoke := rfl
@[simp] theorem modCq_fw (h : Fn) (n : Nat) (f : Cq → Cq) (e : Engine) : (modCq h n f e).fw = e.fw := rfl
@[simp] theorem modCq_jtag (h : Fn) (n : Nat) (f : Cq → Cq) (e : Engine) : (modCq h n f e).jtag = e.jtag := rfl
@[simp] theorem modCq_test (h : Fn) (n : Nat) (f : Cq → Cq) (e : Engine) : (modCq h n f e).test = e.test := rfl
@[simp] theorem modCq_cnt (h : Fn) (n : Nat) (f : Cq → Cq) (e : Engine) : (modCq h n f e).cnt = e.cnt := rfl
@[simp] theorem modCq_reads (h : Fn) (n : Nat) (f : Cq → Cq) (e : Engine) : (modCq h n f e).reads = e.reads := rfl
@[simp] theorem modCq_ids (h : Fn) (n : Nat) (f : Cq → Cq) (e : Engine) : (modCq h n f e).ids = e.ids := rfl
@[simp] theorem modCq_free (h : Fn) (n : Nat) (f : Cq → Cq) (e : Engine) : (modCq h n f e).free = e.free := rfl
@[simp] theorem modCq_readValue (h : Fn) (n : Nat) (f : Cq → Cq) (e : Engine) : (modCq h n f e).readValue = e.readValue := rfl
@[simp] theorem modCq_degraded (h : Fn) (n : Nat) (f : Cq → Cq) (e : Engine) : (modCq h n f e).degraded = e.degraded := rfl
@[simp] theorem modCq_pulses (h : Fn) (n : Nat) (f : Cq → Cq) (e : Engine) : (modCq h n f e).pulses = e.pulses := rfl
@[simp] theorem modCq_out (h : Fn) (n : Nat) (f : Cq → Cq) (e : Engine) : (modCq h n f e).out = e.out := rfl

/-! ## modRing -/

@[simp] theorem modRing_clk (h : Fn) (n : Nat) (f : SheafRing → SheafRing) (e : Engine) : (modRing h n f e).clk = e.clk := rfl
@[simp] theorem modRing_pwr (h : Fn) (n : Nat) (f : SheafRing → SheafRing) (e : Engine) : (modRing h n f e).pwr = e.pwr := rfl
@[simp] theorem modRing_pins (h : Fn) (n : Nat) (f : SheafRing → SheafRing) (e : Engine) : (modRing h n f e).pins = e.pins := rfl
@[simp] theorem modRing_pcie (h : Fn) (n : Nat) (f : SheafRing → SheafRing) (e : Engine) : (modRing h n f e).pcie = e.pcie := rfl
@[simp] theorem modRing_fns (h : Fn) (n : Nat) (f : SheafRing → SheafRing) (e : Engine) : (modRing h n f e).fns = e.fns := rfl
@[simp] theorem modRing_ports (h : Fn) (n : Nat) (f : SheafRing → SheafRing) (e : Engine) : (modRing h n f e).ports = e.ports := rfl
@[simp] theorem modRing_plots (h : Fn) (n : Nat) (f : SheafRing → SheafRing) (e : Engine) : (modRing h n f e).plots = e.plots := rfl
@[simp] theorem modRing_commons (h : Fn) (n : Nat) (f : SheafRing → SheafRing) (e : Engine) : (modRing h n f e).commons = e.commons := rfl
@[simp] theorem modRing_items (h : Fn) (n : Nat) (f : SheafRing → SheafRing) (e : Engine) : (modRing h n f e).items = e.items := rfl
@[simp] theorem modRing_staged (h : Fn) (n : Nat) (f : SheafRing → SheafRing) (e : Engine) : (modRing h n f e).staged = e.staged := rfl
@[simp] theorem modRing_frameLogs (h : Fn) (n : Nat) (f : SheafRing → SheafRing) (e : Engine) : (modRing h n f e).frameLogs = e.frameLogs := rfl
@[simp] theorem modRing_headPaths (h : Fn) (n : Nat) (f : SheafRing → SheafRing) (e : Engine) : (modRing h n f e).headPaths = e.headPaths := rfl
@[simp] theorem modRing_admitted (h : Fn) (n : Nat) (f : SheafRing → SheafRing) (e : Engine) : (modRing h n f e).admitted = e.admitted := rfl
@[simp] theorem modRing_toSpare (h : Fn) (n : Nat) (f : SheafRing → SheafRing) (e : Engine) : (modRing h n f e).toSpare = e.toSpare := rfl
@[simp] theorem modRing_yoke (h : Fn) (n : Nat) (f : SheafRing → SheafRing) (e : Engine) : (modRing h n f e).yoke = e.yoke := rfl
@[simp] theorem modRing_fw (h : Fn) (n : Nat) (f : SheafRing → SheafRing) (e : Engine) : (modRing h n f e).fw = e.fw := rfl
@[simp] theorem modRing_jtag (h : Fn) (n : Nat) (f : SheafRing → SheafRing) (e : Engine) : (modRing h n f e).jtag = e.jtag := rfl
@[simp] theorem modRing_test (h : Fn) (n : Nat) (f : SheafRing → SheafRing) (e : Engine) : (modRing h n f e).test = e.test := rfl
@[simp] theorem modRing_cnt (h : Fn) (n : Nat) (f : SheafRing → SheafRing) (e : Engine) : (modRing h n f e).cnt = e.cnt := rfl
@[simp] theorem modRing_reads (h : Fn) (n : Nat) (f : SheafRing → SheafRing) (e : Engine) : (modRing h n f e).reads = e.reads := rfl
@[simp] theorem modRing_ids (h : Fn) (n : Nat) (f : SheafRing → SheafRing) (e : Engine) : (modRing h n f e).ids = e.ids := rfl
@[simp] theorem modRing_free (h : Fn) (n : Nat) (f : SheafRing → SheafRing) (e : Engine) : (modRing h n f e).free = e.free := rfl
@[simp] theorem modRing_readValue (h : Fn) (n : Nat) (f : SheafRing → SheafRing) (e : Engine) : (modRing h n f e).readValue = e.readValue := rfl
@[simp] theorem modRing_degraded (h : Fn) (n : Nat) (f : SheafRing → SheafRing) (e : Engine) : (modRing h n f e).degraded = e.degraded := rfl
@[simp] theorem modRing_pulses (h : Fn) (n : Nat) (f : SheafRing → SheafRing) (e : Engine) : (modRing h n f e).pulses = e.pulses := rfl
@[simp] theorem modRing_out (h : Fn) (n : Nat) (f : SheafRing → SheafRing) (e : Engine) : (modRing h n f e).out = e.out := rfl

/-! ## modCommons -/

@[simp] theorem modCommons_clk (f : Commons → Commons) (e : Engine) : (modCommons f e).clk = e.clk := rfl
@[simp] theorem modCommons_pwr (f : Commons → Commons) (e : Engine) : (modCommons f e).pwr = e.pwr := rfl
@[simp] theorem modCommons_pins (f : Commons → Commons) (e : Engine) : (modCommons f e).pins = e.pins := rfl
@[simp] theorem modCommons_pcie (f : Commons → Commons) (e : Engine) : (modCommons f e).pcie = e.pcie := rfl
@[simp] theorem modCommons_holdings (f : Commons → Commons) (e : Engine) : (modCommons f e).holdings = e.holdings := rfl
@[simp] theorem modCommons_fns (f : Commons → Commons) (e : Engine) : (modCommons f e).fns = e.fns := rfl
@[simp] theorem modCommons_ports (f : Commons → Commons) (e : Engine) : (modCommons f e).ports = e.ports := rfl
@[simp] theorem modCommons_plots (f : Commons → Commons) (e : Engine) : (modCommons f e).plots = e.plots := rfl
@[simp] theorem modCommons_items (f : Commons → Commons) (e : Engine) : (modCommons f e).items = e.items := rfl
@[simp] theorem modCommons_staged (f : Commons → Commons) (e : Engine) : (modCommons f e).staged = e.staged := rfl
@[simp] theorem modCommons_frameLogs (f : Commons → Commons) (e : Engine) : (modCommons f e).frameLogs = e.frameLogs := rfl
@[simp] theorem modCommons_headPaths (f : Commons → Commons) (e : Engine) : (modCommons f e).headPaths = e.headPaths := rfl
@[simp] theorem modCommons_admitted (f : Commons → Commons) (e : Engine) : (modCommons f e).admitted = e.admitted := rfl
@[simp] theorem modCommons_toSpare (f : Commons → Commons) (e : Engine) : (modCommons f e).toSpare = e.toSpare := rfl
@[simp] theorem modCommons_yoke (f : Commons → Commons) (e : Engine) : (modCommons f e).yoke = e.yoke := rfl
@[simp] theorem modCommons_fw (f : Commons → Commons) (e : Engine) : (modCommons f e).fw = e.fw := rfl
@[simp] theorem modCommons_jtag (f : Commons → Commons) (e : Engine) : (modCommons f e).jtag = e.jtag := rfl
@[simp] theorem modCommons_test (f : Commons → Commons) (e : Engine) : (modCommons f e).test = e.test := rfl
@[simp] theorem modCommons_cnt (f : Commons → Commons) (e : Engine) : (modCommons f e).cnt = e.cnt := rfl
@[simp] theorem modCommons_reads (f : Commons → Commons) (e : Engine) : (modCommons f e).reads = e.reads := rfl
@[simp] theorem modCommons_ids (f : Commons → Commons) (e : Engine) : (modCommons f e).ids = e.ids := rfl
@[simp] theorem modCommons_free (f : Commons → Commons) (e : Engine) : (modCommons f e).free = e.free := rfl
@[simp] theorem modCommons_readValue (f : Commons → Commons) (e : Engine) : (modCommons f e).readValue = e.readValue := rfl
@[simp] theorem modCommons_degraded (f : Commons → Commons) (e : Engine) : (modCommons f e).degraded = e.degraded := rfl
@[simp] theorem modCommons_pulses (f : Commons → Commons) (e : Engine) : (modCommons f e).pulses = e.pulses := rfl
@[simp] theorem modCommons_out (f : Commons → Commons) (e : Engine) : (modCommons f e).out = e.out := rfl

/-! ## modYoke -/

@[simp] theorem modYoke_clk (f : Yoke → Yoke) (e : Engine) : (modYoke f e).clk = e.clk := rfl
@[simp] theorem modYoke_pwr (f : Yoke → Yoke) (e : Engine) : (modYoke f e).pwr = e.pwr := rfl
@[simp] theorem modYoke_pins (f : Yoke → Yoke) (e : Engine) : (modYoke f e).pins = e.pins := rfl
@[simp] theorem modYoke_pcie (f : Yoke → Yoke) (e : Engine) : (modYoke f e).pcie = e.pcie := rfl
@[simp] theorem modYoke_holdings (f : Yoke → Yoke) (e : Engine) : (modYoke f e).holdings = e.holdings := rfl
@[simp] theorem modYoke_fns (f : Yoke → Yoke) (e : Engine) : (modYoke f e).fns = e.fns := rfl
@[simp] theorem modYoke_ports (f : Yoke → Yoke) (e : Engine) : (modYoke f e).ports = e.ports := rfl
@[simp] theorem modYoke_plots (f : Yoke → Yoke) (e : Engine) : (modYoke f e).plots = e.plots := rfl
@[simp] theorem modYoke_commons (f : Yoke → Yoke) (e : Engine) : (modYoke f e).commons = e.commons := rfl
@[simp] theorem modYoke_items (f : Yoke → Yoke) (e : Engine) : (modYoke f e).items = e.items := rfl
@[simp] theorem modYoke_staged (f : Yoke → Yoke) (e : Engine) : (modYoke f e).staged = e.staged := rfl
@[simp] theorem modYoke_frameLogs (f : Yoke → Yoke) (e : Engine) : (modYoke f e).frameLogs = e.frameLogs := rfl
@[simp] theorem modYoke_headPaths (f : Yoke → Yoke) (e : Engine) : (modYoke f e).headPaths = e.headPaths := rfl
@[simp] theorem modYoke_admitted (f : Yoke → Yoke) (e : Engine) : (modYoke f e).admitted = e.admitted := rfl
@[simp] theorem modYoke_toSpare (f : Yoke → Yoke) (e : Engine) : (modYoke f e).toSpare = e.toSpare := rfl
@[simp] theorem modYoke_fw (f : Yoke → Yoke) (e : Engine) : (modYoke f e).fw = e.fw := rfl
@[simp] theorem modYoke_jtag (f : Yoke → Yoke) (e : Engine) : (modYoke f e).jtag = e.jtag := rfl
@[simp] theorem modYoke_test (f : Yoke → Yoke) (e : Engine) : (modYoke f e).test = e.test := rfl
@[simp] theorem modYoke_cnt (f : Yoke → Yoke) (e : Engine) : (modYoke f e).cnt = e.cnt := rfl
@[simp] theorem modYoke_reads (f : Yoke → Yoke) (e : Engine) : (modYoke f e).reads = e.reads := rfl
@[simp] theorem modYoke_ids (f : Yoke → Yoke) (e : Engine) : (modYoke f e).ids = e.ids := rfl
@[simp] theorem modYoke_free (f : Yoke → Yoke) (e : Engine) : (modYoke f e).free = e.free := rfl
@[simp] theorem modYoke_readValue (f : Yoke → Yoke) (e : Engine) : (modYoke f e).readValue = e.readValue := rfl
@[simp] theorem modYoke_degraded (f : Yoke → Yoke) (e : Engine) : (modYoke f e).degraded = e.degraded := rfl
@[simp] theorem modYoke_pulses (f : Yoke → Yoke) (e : Engine) : (modYoke f e).pulses = e.pulses := rfl
@[simp] theorem modYoke_out (f : Yoke → Yoke) (e : Engine) : (modYoke f e).out = e.out := rfl

/-! ## modDev -/

@[simp] theorem modDev_clk (d : DevNum) (f : Dev → Dev) (e : Engine) : (modDev d f e).clk = e.clk := rfl
@[simp] theorem modDev_pwr (d : DevNum) (f : Dev → Dev) (e : Engine) : (modDev d f e).pwr = e.pwr := rfl
@[simp] theorem modDev_pins (d : DevNum) (f : Dev → Dev) (e : Engine) : (modDev d f e).pins = e.pins := rfl
@[simp] theorem modDev_pcie (d : DevNum) (f : Dev → Dev) (e : Engine) : (modDev d f e).pcie = e.pcie := rfl
@[simp] theorem modDev_holdings (d : DevNum) (f : Dev → Dev) (e : Engine) : (modDev d f e).holdings = e.holdings := rfl
@[simp] theorem modDev_fns (d : DevNum) (f : Dev → Dev) (e : Engine) : (modDev d f e).fns = e.fns := rfl
@[simp] theorem modDev_ports (d : DevNum) (f : Dev → Dev) (e : Engine) : (modDev d f e).ports = e.ports := rfl
@[simp] theorem modDev_plots (d : DevNum) (f : Dev → Dev) (e : Engine) : (modDev d f e).plots = e.plots := rfl
@[simp] theorem modDev_items (d : DevNum) (f : Dev → Dev) (e : Engine) : (modDev d f e).items = e.items := rfl
@[simp] theorem modDev_staged (d : DevNum) (f : Dev → Dev) (e : Engine) : (modDev d f e).staged = e.staged := rfl
@[simp] theorem modDev_frameLogs (d : DevNum) (f : Dev → Dev) (e : Engine) : (modDev d f e).frameLogs = e.frameLogs := rfl
@[simp] theorem modDev_headPaths (d : DevNum) (f : Dev → Dev) (e : Engine) : (modDev d f e).headPaths = e.headPaths := rfl
@[simp] theorem modDev_admitted (d : DevNum) (f : Dev → Dev) (e : Engine) : (modDev d f e).admitted = e.admitted := rfl
@[simp] theorem modDev_toSpare (d : DevNum) (f : Dev → Dev) (e : Engine) : (modDev d f e).toSpare = e.toSpare := rfl
@[simp] theorem modDev_yoke (d : DevNum) (f : Dev → Dev) (e : Engine) : (modDev d f e).yoke = e.yoke := rfl
@[simp] theorem modDev_fw (d : DevNum) (f : Dev → Dev) (e : Engine) : (modDev d f e).fw = e.fw := rfl
@[simp] theorem modDev_jtag (d : DevNum) (f : Dev → Dev) (e : Engine) : (modDev d f e).jtag = e.jtag := rfl
@[simp] theorem modDev_test (d : DevNum) (f : Dev → Dev) (e : Engine) : (modDev d f e).test = e.test := rfl
@[simp] theorem modDev_cnt (d : DevNum) (f : Dev → Dev) (e : Engine) : (modDev d f e).cnt = e.cnt := rfl
@[simp] theorem modDev_reads (d : DevNum) (f : Dev → Dev) (e : Engine) : (modDev d f e).reads = e.reads := rfl
@[simp] theorem modDev_ids (d : DevNum) (f : Dev → Dev) (e : Engine) : (modDev d f e).ids = e.ids := rfl
@[simp] theorem modDev_free (d : DevNum) (f : Dev → Dev) (e : Engine) : (modDev d f e).free = e.free := rfl
@[simp] theorem modDev_readValue (d : DevNum) (f : Dev → Dev) (e : Engine) : (modDev d f e).readValue = e.readValue := rfl
@[simp] theorem modDev_degraded (d : DevNum) (f : Dev → Dev) (e : Engine) : (modDev d f e).degraded = e.degraded := rfl
@[simp] theorem modDev_pulses (d : DevNum) (f : Dev → Dev) (e : Engine) : (modDev d f e).pulses = e.pulses := rfl
@[simp] theorem modDev_out (d : DevNum) (f : Dev → Dev) (e : Engine) : (modDev d f e).out = e.out := rfl

/-! ## modMbx -/

@[simp] theorem modMbx_clk (h : Fn) (f : Mailbox → Mailbox) (e : Engine) : (modMbx h f e).clk = e.clk := rfl
@[simp] theorem modMbx_pwr (h : Fn) (f : Mailbox → Mailbox) (e : Engine) : (modMbx h f e).pwr = e.pwr := rfl
@[simp] theorem modMbx_pins (h : Fn) (f : Mailbox → Mailbox) (e : Engine) : (modMbx h f e).pins = e.pins := rfl
@[simp] theorem modMbx_pcie (h : Fn) (f : Mailbox → Mailbox) (e : Engine) : (modMbx h f e).pcie = e.pcie := rfl
@[simp] theorem modMbx_holdings (h : Fn) (f : Mailbox → Mailbox) (e : Engine) : (modMbx h f e).holdings = e.holdings := rfl
@[simp] theorem modMbx_ports (h : Fn) (f : Mailbox → Mailbox) (e : Engine) : (modMbx h f e).ports = e.ports := rfl
@[simp] theorem modMbx_plots (h : Fn) (f : Mailbox → Mailbox) (e : Engine) : (modMbx h f e).plots = e.plots := rfl
@[simp] theorem modMbx_commons (h : Fn) (f : Mailbox → Mailbox) (e : Engine) : (modMbx h f e).commons = e.commons := rfl
@[simp] theorem modMbx_items (h : Fn) (f : Mailbox → Mailbox) (e : Engine) : (modMbx h f e).items = e.items := rfl
@[simp] theorem modMbx_staged (h : Fn) (f : Mailbox → Mailbox) (e : Engine) : (modMbx h f e).staged = e.staged := rfl
@[simp] theorem modMbx_frameLogs (h : Fn) (f : Mailbox → Mailbox) (e : Engine) : (modMbx h f e).frameLogs = e.frameLogs := rfl
@[simp] theorem modMbx_headPaths (h : Fn) (f : Mailbox → Mailbox) (e : Engine) : (modMbx h f e).headPaths = e.headPaths := rfl
@[simp] theorem modMbx_admitted (h : Fn) (f : Mailbox → Mailbox) (e : Engine) : (modMbx h f e).admitted = e.admitted := rfl
@[simp] theorem modMbx_toSpare (h : Fn) (f : Mailbox → Mailbox) (e : Engine) : (modMbx h f e).toSpare = e.toSpare := rfl
@[simp] theorem modMbx_yoke (h : Fn) (f : Mailbox → Mailbox) (e : Engine) : (modMbx h f e).yoke = e.yoke := rfl
@[simp] theorem modMbx_fw (h : Fn) (f : Mailbox → Mailbox) (e : Engine) : (modMbx h f e).fw = e.fw := rfl
@[simp] theorem modMbx_jtag (h : Fn) (f : Mailbox → Mailbox) (e : Engine) : (modMbx h f e).jtag = e.jtag := rfl
@[simp] theorem modMbx_test (h : Fn) (f : Mailbox → Mailbox) (e : Engine) : (modMbx h f e).test = e.test := rfl
@[simp] theorem modMbx_cnt (h : Fn) (f : Mailbox → Mailbox) (e : Engine) : (modMbx h f e).cnt = e.cnt := rfl
@[simp] theorem modMbx_reads (h : Fn) (f : Mailbox → Mailbox) (e : Engine) : (modMbx h f e).reads = e.reads := rfl
@[simp] theorem modMbx_ids (h : Fn) (f : Mailbox → Mailbox) (e : Engine) : (modMbx h f e).ids = e.ids := rfl
@[simp] theorem modMbx_free (h : Fn) (f : Mailbox → Mailbox) (e : Engine) : (modMbx h f e).free = e.free := rfl
@[simp] theorem modMbx_readValue (h : Fn) (f : Mailbox → Mailbox) (e : Engine) : (modMbx h f e).readValue = e.readValue := rfl
@[simp] theorem modMbx_degraded (h : Fn) (f : Mailbox → Mailbox) (e : Engine) : (modMbx h f e).degraded = e.degraded := rfl
@[simp] theorem modMbx_pulses (h : Fn) (f : Mailbox → Mailbox) (e : Engine) : (modMbx h f e).pulses = e.pulses := rfl
@[simp] theorem modMbx_out (h : Fn) (f : Mailbox → Mailbox) (e : Engine) : (modMbx h f e).out = e.out := rfl

/-! ## countPort -/

@[simp] theorem countPort_clk (p : PortId) (k : Nat) (e : Engine) : (countPort p k e).clk = e.clk := rfl
@[simp] theorem countPort_pwr (p : PortId) (k : Nat) (e : Engine) : (countPort p k e).pwr = e.pwr := rfl
@[simp] theorem countPort_pins (p : PortId) (k : Nat) (e : Engine) : (countPort p k e).pins = e.pins := rfl
@[simp] theorem countPort_pcie (p : PortId) (k : Nat) (e : Engine) : (countPort p k e).pcie = e.pcie := rfl
@[simp] theorem countPort_holdings (p : PortId) (k : Nat) (e : Engine) : (countPort p k e).holdings = e.holdings := rfl
@[simp] theorem countPort_fns (p : PortId) (k : Nat) (e : Engine) : (countPort p k e).fns = e.fns := rfl
@[simp] theorem countPort_plots (p : PortId) (k : Nat) (e : Engine) : (countPort p k e).plots = e.plots := rfl
@[simp] theorem countPort_commons (p : PortId) (k : Nat) (e : Engine) : (countPort p k e).commons = e.commons := rfl
@[simp] theorem countPort_items (p : PortId) (k : Nat) (e : Engine) : (countPort p k e).items = e.items := rfl
@[simp] theorem countPort_staged (p : PortId) (k : Nat) (e : Engine) : (countPort p k e).staged = e.staged := rfl
@[simp] theorem countPort_frameLogs (p : PortId) (k : Nat) (e : Engine) : (countPort p k e).frameLogs = e.frameLogs := rfl
@[simp] theorem countPort_headPaths (p : PortId) (k : Nat) (e : Engine) : (countPort p k e).headPaths = e.headPaths := rfl
@[simp] theorem countPort_admitted (p : PortId) (k : Nat) (e : Engine) : (countPort p k e).admitted = e.admitted := rfl
@[simp] theorem countPort_toSpare (p : PortId) (k : Nat) (e : Engine) : (countPort p k e).toSpare = e.toSpare := rfl
@[simp] theorem countPort_yoke (p : PortId) (k : Nat) (e : Engine) : (countPort p k e).yoke = e.yoke := rfl
@[simp] theorem countPort_fw (p : PortId) (k : Nat) (e : Engine) : (countPort p k e).fw = e.fw := rfl
@[simp] theorem countPort_jtag (p : PortId) (k : Nat) (e : Engine) : (countPort p k e).jtag = e.jtag := rfl
@[simp] theorem countPort_test (p : PortId) (k : Nat) (e : Engine) : (countPort p k e).test = e.test := rfl
@[simp] theorem countPort_cnt (p : PortId) (k : Nat) (e : Engine) : (countPort p k e).cnt = e.cnt := rfl
@[simp] theorem countPort_reads (p : PortId) (k : Nat) (e : Engine) : (countPort p k e).reads = e.reads := rfl
@[simp] theorem countPort_ids (p : PortId) (k : Nat) (e : Engine) : (countPort p k e).ids = e.ids := rfl
@[simp] theorem countPort_free (p : PortId) (k : Nat) (e : Engine) : (countPort p k e).free = e.free := rfl
@[simp] theorem countPort_readValue (p : PortId) (k : Nat) (e : Engine) : (countPort p k e).readValue = e.readValue := rfl
@[simp] theorem countPort_degraded (p : PortId) (k : Nat) (e : Engine) : (countPort p k e).degraded = e.degraded := rfl
@[simp] theorem countPort_pulses (p : PortId) (k : Nat) (e : Engine) : (countPort p k e).pulses = e.pulses := rfl
@[simp] theorem countPort_out (p : PortId) (k : Nat) (e : Engine) : (countPort p k e).out = e.out := rfl

/-! ## countDev -/

@[simp] theorem countDev_clk (k : Nat) (e : Engine) : (countDev k e).clk = e.clk := rfl
@[simp] theorem countDev_pwr (k : Nat) (e : Engine) : (countDev k e).pwr = e.pwr := rfl
@[simp] theorem countDev_pins (k : Nat) (e : Engine) : (countDev k e).pins = e.pins := rfl
@[simp] theorem countDev_pcie (k : Nat) (e : Engine) : (countDev k e).pcie = e.pcie := rfl
@[simp] theorem countDev_holdings (k : Nat) (e : Engine) : (countDev k e).holdings = e.holdings := rfl
@[simp] theorem countDev_fns (k : Nat) (e : Engine) : (countDev k e).fns = e.fns := rfl
@[simp] theorem countDev_ports (k : Nat) (e : Engine) : (countDev k e).ports = e.ports := rfl
@[simp] theorem countDev_plots (k : Nat) (e : Engine) : (countDev k e).plots = e.plots := rfl
@[simp] theorem countDev_commons (k : Nat) (e : Engine) : (countDev k e).commons = e.commons := rfl
@[simp] theorem countDev_items (k : Nat) (e : Engine) : (countDev k e).items = e.items := rfl
@[simp] theorem countDev_staged (k : Nat) (e : Engine) : (countDev k e).staged = e.staged := rfl
@[simp] theorem countDev_frameLogs (k : Nat) (e : Engine) : (countDev k e).frameLogs = e.frameLogs := rfl
@[simp] theorem countDev_headPaths (k : Nat) (e : Engine) : (countDev k e).headPaths = e.headPaths := rfl
@[simp] theorem countDev_admitted (k : Nat) (e : Engine) : (countDev k e).admitted = e.admitted := rfl
@[simp] theorem countDev_toSpare (k : Nat) (e : Engine) : (countDev k e).toSpare = e.toSpare := rfl
@[simp] theorem countDev_yoke (k : Nat) (e : Engine) : (countDev k e).yoke = e.yoke := rfl
@[simp] theorem countDev_fw (k : Nat) (e : Engine) : (countDev k e).fw = e.fw := rfl
@[simp] theorem countDev_jtag (k : Nat) (e : Engine) : (countDev k e).jtag = e.jtag := rfl
@[simp] theorem countDev_test (k : Nat) (e : Engine) : (countDev k e).test = e.test := rfl
@[simp] theorem countDev_reads (k : Nat) (e : Engine) : (countDev k e).reads = e.reads := rfl
@[simp] theorem countDev_ids (k : Nat) (e : Engine) : (countDev k e).ids = e.ids := rfl
@[simp] theorem countDev_free (k : Nat) (e : Engine) : (countDev k e).free = e.free := rfl
@[simp] theorem countDev_readValue (k : Nat) (e : Engine) : (countDev k e).readValue = e.readValue := rfl
@[simp] theorem countDev_degraded (k : Nat) (e : Engine) : (countDev k e).degraded = e.degraded := rfl
@[simp] theorem countDev_pulses (k : Nat) (e : Engine) : (countDev k e).pulses = e.pulses := rfl
@[simp] theorem countDev_out (k : Nat) (e : Engine) : (countDev k e).out = e.out := rfl

/-! ## countHP -/

@[simp] theorem countHP_clk (h : Fn) (p : PortId) (k : Nat) (e : Engine) : (countHP h p k e).clk = e.clk := rfl
@[simp] theorem countHP_pwr (h : Fn) (p : PortId) (k : Nat) (e : Engine) : (countHP h p k e).pwr = e.pwr := rfl
@[simp] theorem countHP_pins (h : Fn) (p : PortId) (k : Nat) (e : Engine) : (countHP h p k e).pins = e.pins := rfl
@[simp] theorem countHP_pcie (h : Fn) (p : PortId) (k : Nat) (e : Engine) : (countHP h p k e).pcie = e.pcie := rfl
@[simp] theorem countHP_holdings (h : Fn) (p : PortId) (k : Nat) (e : Engine) : (countHP h p k e).holdings = e.holdings := rfl
@[simp] theorem countHP_ports (h : Fn) (p : PortId) (k : Nat) (e : Engine) : (countHP h p k e).ports = e.ports := rfl
@[simp] theorem countHP_plots (h : Fn) (p : PortId) (k : Nat) (e : Engine) : (countHP h p k e).plots = e.plots := rfl
@[simp] theorem countHP_commons (h : Fn) (p : PortId) (k : Nat) (e : Engine) : (countHP h p k e).commons = e.commons := rfl
@[simp] theorem countHP_items (h : Fn) (p : PortId) (k : Nat) (e : Engine) : (countHP h p k e).items = e.items := rfl
@[simp] theorem countHP_staged (h : Fn) (p : PortId) (k : Nat) (e : Engine) : (countHP h p k e).staged = e.staged := rfl
@[simp] theorem countHP_frameLogs (h : Fn) (p : PortId) (k : Nat) (e : Engine) : (countHP h p k e).frameLogs = e.frameLogs := rfl
@[simp] theorem countHP_headPaths (h : Fn) (p : PortId) (k : Nat) (e : Engine) : (countHP h p k e).headPaths = e.headPaths := rfl
@[simp] theorem countHP_admitted (h : Fn) (p : PortId) (k : Nat) (e : Engine) : (countHP h p k e).admitted = e.admitted := rfl
@[simp] theorem countHP_toSpare (h : Fn) (p : PortId) (k : Nat) (e : Engine) : (countHP h p k e).toSpare = e.toSpare := rfl
@[simp] theorem countHP_yoke (h : Fn) (p : PortId) (k : Nat) (e : Engine) : (countHP h p k e).yoke = e.yoke := rfl
@[simp] theorem countHP_fw (h : Fn) (p : PortId) (k : Nat) (e : Engine) : (countHP h p k e).fw = e.fw := rfl
@[simp] theorem countHP_jtag (h : Fn) (p : PortId) (k : Nat) (e : Engine) : (countHP h p k e).jtag = e.jtag := rfl
@[simp] theorem countHP_test (h : Fn) (p : PortId) (k : Nat) (e : Engine) : (countHP h p k e).test = e.test := rfl
@[simp] theorem countHP_cnt (h : Fn) (p : PortId) (k : Nat) (e : Engine) : (countHP h p k e).cnt = e.cnt := rfl
@[simp] theorem countHP_reads (h : Fn) (p : PortId) (k : Nat) (e : Engine) : (countHP h p k e).reads = e.reads := rfl
@[simp] theorem countHP_ids (h : Fn) (p : PortId) (k : Nat) (e : Engine) : (countHP h p k e).ids = e.ids := rfl
@[simp] theorem countHP_free (h : Fn) (p : PortId) (k : Nat) (e : Engine) : (countHP h p k e).free = e.free := rfl
@[simp] theorem countHP_readValue (h : Fn) (p : PortId) (k : Nat) (e : Engine) : (countHP h p k e).readValue = e.readValue := rfl
@[simp] theorem countHP_degraded (h : Fn) (p : PortId) (k : Nat) (e : Engine) : (countHP h p k e).degraded = e.degraded := rfl
@[simp] theorem countHP_pulses (h : Fn) (p : PortId) (k : Nat) (e : Engine) : (countHP h p k e).pulses = e.pulses := rfl
@[simp] theorem countHP_out (h : Fn) (p : PortId) (k : Nat) (e : Engine) : (countHP h p k e).out = e.out := rfl

/-! ## countH -/

@[simp] theorem countH_clk (h : Fn) (k : Nat) (e : Engine) : (countH h k e).clk = e.clk := rfl
@[simp] theorem countH_pwr (h : Fn) (k : Nat) (e : Engine) : (countH h k e).pwr = e.pwr := rfl
@[simp] theorem countH_pins (h : Fn) (k : Nat) (e : Engine) : (countH h k e).pins = e.pins := rfl
@[simp] theorem countH_pcie (h : Fn) (k : Nat) (e : Engine) : (countH h k e).pcie = e.pcie := rfl
@[simp] theorem countH_holdings (h : Fn) (k : Nat) (e : Engine) : (countH h k e).holdings = e.holdings := rfl
@[simp] theorem countH_ports (h : Fn) (k : Nat) (e : Engine) : (countH h k e).ports = e.ports := rfl
@[simp] theorem countH_plots (h : Fn) (k : Nat) (e : Engine) : (countH h k e).plots = e.plots := rfl
@[simp] theorem countH_commons (h : Fn) (k : Nat) (e : Engine) : (countH h k e).commons = e.commons := rfl
@[simp] theorem countH_items (h : Fn) (k : Nat) (e : Engine) : (countH h k e).items = e.items := rfl
@[simp] theorem countH_staged (h : Fn) (k : Nat) (e : Engine) : (countH h k e).staged = e.staged := rfl
@[simp] theorem countH_frameLogs (h : Fn) (k : Nat) (e : Engine) : (countH h k e).frameLogs = e.frameLogs := rfl
@[simp] theorem countH_headPaths (h : Fn) (k : Nat) (e : Engine) : (countH h k e).headPaths = e.headPaths := rfl
@[simp] theorem countH_admitted (h : Fn) (k : Nat) (e : Engine) : (countH h k e).admitted = e.admitted := rfl
@[simp] theorem countH_toSpare (h : Fn) (k : Nat) (e : Engine) : (countH h k e).toSpare = e.toSpare := rfl
@[simp] theorem countH_yoke (h : Fn) (k : Nat) (e : Engine) : (countH h k e).yoke = e.yoke := rfl
@[simp] theorem countH_fw (h : Fn) (k : Nat) (e : Engine) : (countH h k e).fw = e.fw := rfl
@[simp] theorem countH_jtag (h : Fn) (k : Nat) (e : Engine) : (countH h k e).jtag = e.jtag := rfl
@[simp] theorem countH_test (h : Fn) (k : Nat) (e : Engine) : (countH h k e).test = e.test := rfl
@[simp] theorem countH_cnt (h : Fn) (k : Nat) (e : Engine) : (countH h k e).cnt = e.cnt := rfl
@[simp] theorem countH_reads (h : Fn) (k : Nat) (e : Engine) : (countH h k e).reads = e.reads := rfl
@[simp] theorem countH_ids (h : Fn) (k : Nat) (e : Engine) : (countH h k e).ids = e.ids := rfl
@[simp] theorem countH_free (h : Fn) (k : Nat) (e : Engine) : (countH h k e).free = e.free := rfl
@[simp] theorem countH_readValue (h : Fn) (k : Nat) (e : Engine) : (countH h k e).readValue = e.readValue := rfl
@[simp] theorem countH_degraded (h : Fn) (k : Nat) (e : Engine) : (countH h k e).degraded = e.degraded := rfl
@[simp] theorem countH_pulses (h : Fn) (k : Nat) (e : Engine) : (countH h k e).pulses = e.pulses := rfl
@[simp] theorem countH_out (h : Fn) (k : Nat) (e : Engine) : (countH h k e).out = e.out := rfl

/-! ## pushCompletion -/

@[simp] theorem pushCompletion_clk (h : Fn) (n : Nat) (c : Completion) (e : Engine) : (pushCompletion h n c e).clk = e.clk := rfl
@[simp] theorem pushCompletion_pwr (h : Fn) (n : Nat) (c : Completion) (e : Engine) : (pushCompletion h n c e).pwr = e.pwr := rfl
@[simp] theorem pushCompletion_pins (h : Fn) (n : Nat) (c : Completion) (e : Engine) : (pushCompletion h n c e).pins = e.pins := rfl
@[simp] theorem pushCompletion_pcie (h : Fn) (n : Nat) (c : Completion) (e : Engine) : (pushCompletion h n c e).pcie = e.pcie := rfl
@[simp] theorem pushCompletion_fns (h : Fn) (n : Nat) (c : Completion) (e : Engine) : (pushCompletion h n c e).fns = e.fns := rfl
@[simp] theorem pushCompletion_ports (h : Fn) (n : Nat) (c : Completion) (e : Engine) : (pushCompletion h n c e).ports = e.ports := rfl
@[simp] theorem pushCompletion_plots (h : Fn) (n : Nat) (c : Completion) (e : Engine) : (pushCompletion h n c e).plots = e.plots := rfl
@[simp] theorem pushCompletion_commons (h : Fn) (n : Nat) (c : Completion) (e : Engine) : (pushCompletion h n c e).commons = e.commons := rfl
@[simp] theorem pushCompletion_items (h : Fn) (n : Nat) (c : Completion) (e : Engine) : (pushCompletion h n c e).items = e.items := rfl
@[simp] theorem pushCompletion_staged (h : Fn) (n : Nat) (c : Completion) (e : Engine) : (pushCompletion h n c e).staged = e.staged := rfl
@[simp] theorem pushCompletion_frameLogs (h : Fn) (n : Nat) (c : Completion) (e : Engine) : (pushCompletion h n c e).frameLogs = e.frameLogs := rfl
@[simp] theorem pushCompletion_headPaths (h : Fn) (n : Nat) (c : Completion) (e : Engine) : (pushCompletion h n c e).headPaths = e.headPaths := rfl
@[simp] theorem pushCompletion_admitted (h : Fn) (n : Nat) (c : Completion) (e : Engine) : (pushCompletion h n c e).admitted = e.admitted := rfl
@[simp] theorem pushCompletion_toSpare (h : Fn) (n : Nat) (c : Completion) (e : Engine) : (pushCompletion h n c e).toSpare = e.toSpare := rfl
@[simp] theorem pushCompletion_yoke (h : Fn) (n : Nat) (c : Completion) (e : Engine) : (pushCompletion h n c e).yoke = e.yoke := rfl
@[simp] theorem pushCompletion_fw (h : Fn) (n : Nat) (c : Completion) (e : Engine) : (pushCompletion h n c e).fw = e.fw := rfl
@[simp] theorem pushCompletion_jtag (h : Fn) (n : Nat) (c : Completion) (e : Engine) : (pushCompletion h n c e).jtag = e.jtag := rfl
@[simp] theorem pushCompletion_test (h : Fn) (n : Nat) (c : Completion) (e : Engine) : (pushCompletion h n c e).test = e.test := rfl
@[simp] theorem pushCompletion_cnt (h : Fn) (n : Nat) (c : Completion) (e : Engine) : (pushCompletion h n c e).cnt = e.cnt := rfl
@[simp] theorem pushCompletion_reads (h : Fn) (n : Nat) (c : Completion) (e : Engine) : (pushCompletion h n c e).reads = e.reads := rfl
@[simp] theorem pushCompletion_ids (h : Fn) (n : Nat) (c : Completion) (e : Engine) : (pushCompletion h n c e).ids = e.ids := rfl
@[simp] theorem pushCompletion_free (h : Fn) (n : Nat) (c : Completion) (e : Engine) : (pushCompletion h n c e).free = e.free := rfl
@[simp] theorem pushCompletion_readValue (h : Fn) (n : Nat) (c : Completion) (e : Engine) : (pushCompletion h n c e).readValue = e.readValue := rfl
@[simp] theorem pushCompletion_degraded (h : Fn) (n : Nat) (c : Completion) (e : Engine) : (pushCompletion h n c e).degraded = e.degraded := rfl
@[simp] theorem pushCompletion_pulses (h : Fn) (n : Nat) (c : Completion) (e : Engine) : (pushCompletion h n c e).pulses = e.pulses := rfl
@[simp] theorem pushCompletion_out (h : Fn) (n : Nat) (c : Completion) (e : Engine) : (pushCompletion h n c e).out = e.out := rfl

/-! ## emitHost -/

@[simp] theorem emitHost_clk (o : HostOut) (e : Engine) : (emitHost o e).clk = e.clk := rfl
@[simp] theorem emitHost_pwr (o : HostOut) (e : Engine) : (emitHost o e).pwr = e.pwr := rfl
@[simp] theorem emitHost_pins (o : HostOut) (e : Engine) : (emitHost o e).pins = e.pins := rfl
@[simp] theorem emitHost_pcie (o : HostOut) (e : Engine) : (emitHost o e).pcie = e.pcie := rfl
@[simp] theorem emitHost_holdings (o : HostOut) (e : Engine) : (emitHost o e).holdings = e.holdings := rfl
@[simp] theorem emitHost_fns (o : HostOut) (e : Engine) : (emitHost o e).fns = e.fns := rfl
@[simp] theorem emitHost_ports (o : HostOut) (e : Engine) : (emitHost o e).ports = e.ports := rfl
@[simp] theorem emitHost_plots (o : HostOut) (e : Engine) : (emitHost o e).plots = e.plots := rfl
@[simp] theorem emitHost_commons (o : HostOut) (e : Engine) : (emitHost o e).commons = e.commons := rfl
@[simp] theorem emitHost_items (o : HostOut) (e : Engine) : (emitHost o e).items = e.items := rfl
@[simp] theorem emitHost_staged (o : HostOut) (e : Engine) : (emitHost o e).staged = e.staged := rfl
@[simp] theorem emitHost_frameLogs (o : HostOut) (e : Engine) : (emitHost o e).frameLogs = e.frameLogs := rfl
@[simp] theorem emitHost_headPaths (o : HostOut) (e : Engine) : (emitHost o e).headPaths = e.headPaths := rfl
@[simp] theorem emitHost_admitted (o : HostOut) (e : Engine) : (emitHost o e).admitted = e.admitted := rfl
@[simp] theorem emitHost_toSpare (o : HostOut) (e : Engine) : (emitHost o e).toSpare = e.toSpare := rfl
@[simp] theorem emitHost_yoke (o : HostOut) (e : Engine) : (emitHost o e).yoke = e.yoke := rfl
@[simp] theorem emitHost_fw (o : HostOut) (e : Engine) : (emitHost o e).fw = e.fw := rfl
@[simp] theorem emitHost_jtag (o : HostOut) (e : Engine) : (emitHost o e).jtag = e.jtag := rfl
@[simp] theorem emitHost_test (o : HostOut) (e : Engine) : (emitHost o e).test = e.test := rfl
@[simp] theorem emitHost_cnt (o : HostOut) (e : Engine) : (emitHost o e).cnt = e.cnt := rfl
@[simp] theorem emitHost_reads (o : HostOut) (e : Engine) : (emitHost o e).reads = e.reads := rfl
@[simp] theorem emitHost_ids (o : HostOut) (e : Engine) : (emitHost o e).ids = e.ids := rfl
@[simp] theorem emitHost_free (o : HostOut) (e : Engine) : (emitHost o e).free = e.free := rfl
@[simp] theorem emitHost_readValue (o : HostOut) (e : Engine) : (emitHost o e).readValue = e.readValue := rfl
@[simp] theorem emitHost_degraded (o : HostOut) (e : Engine) : (emitHost o e).degraded = e.degraded := rfl
@[simp] theorem emitHost_pulses (o : HostOut) (e : Engine) : (emitHost o e).pulses = e.pulses := rfl

/-! ## emitWire -/

@[simp] theorem emitWire_clk (o : WireOut) (e : Engine) : (emitWire o e).clk = e.clk := rfl
@[simp] theorem emitWire_pwr (o : WireOut) (e : Engine) : (emitWire o e).pwr = e.pwr := rfl
@[simp] theorem emitWire_pins (o : WireOut) (e : Engine) : (emitWire o e).pins = e.pins := rfl
@[simp] theorem emitWire_pcie (o : WireOut) (e : Engine) : (emitWire o e).pcie = e.pcie := rfl
@[simp] theorem emitWire_holdings (o : WireOut) (e : Engine) : (emitWire o e).holdings = e.holdings := rfl
@[simp] theorem emitWire_fns (o : WireOut) (e : Engine) : (emitWire o e).fns = e.fns := rfl
@[simp] theorem emitWire_ports (o : WireOut) (e : Engine) : (emitWire o e).ports = e.ports := rfl
@[simp] theorem emitWire_plots (o : WireOut) (e : Engine) : (emitWire o e).plots = e.plots := rfl
@[simp] theorem emitWire_commons (o : WireOut) (e : Engine) : (emitWire o e).commons = e.commons := rfl
@[simp] theorem emitWire_items (o : WireOut) (e : Engine) : (emitWire o e).items = e.items := rfl
@[simp] theorem emitWire_staged (o : WireOut) (e : Engine) : (emitWire o e).staged = e.staged := rfl
@[simp] theorem emitWire_frameLogs (o : WireOut) (e : Engine) : (emitWire o e).frameLogs = e.frameLogs := rfl
@[simp] theorem emitWire_headPaths (o : WireOut) (e : Engine) : (emitWire o e).headPaths = e.headPaths := rfl
@[simp] theorem emitWire_admitted (o : WireOut) (e : Engine) : (emitWire o e).admitted = e.admitted := rfl
@[simp] theorem emitWire_toSpare (o : WireOut) (e : Engine) : (emitWire o e).toSpare = e.toSpare := rfl
@[simp] theorem emitWire_yoke (o : WireOut) (e : Engine) : (emitWire o e).yoke = e.yoke := rfl
@[simp] theorem emitWire_fw (o : WireOut) (e : Engine) : (emitWire o e).fw = e.fw := rfl
@[simp] theorem emitWire_jtag (o : WireOut) (e : Engine) : (emitWire o e).jtag = e.jtag := rfl
@[simp] theorem emitWire_test (o : WireOut) (e : Engine) : (emitWire o e).test = e.test := rfl
@[simp] theorem emitWire_cnt (o : WireOut) (e : Engine) : (emitWire o e).cnt = e.cnt := rfl
@[simp] theorem emitWire_reads (o : WireOut) (e : Engine) : (emitWire o e).reads = e.reads := rfl
@[simp] theorem emitWire_ids (o : WireOut) (e : Engine) : (emitWire o e).ids = e.ids := rfl
@[simp] theorem emitWire_free (o : WireOut) (e : Engine) : (emitWire o e).free = e.free := rfl
@[simp] theorem emitWire_readValue (o : WireOut) (e : Engine) : (emitWire o e).readValue = e.readValue := rfl
@[simp] theorem emitWire_degraded (o : WireOut) (e : Engine) : (emitWire o e).degraded = e.degraded := rfl
@[simp] theorem emitWire_pulses (o : WireOut) (e : Engine) : (emitWire o e).pulses = e.pulses := rfl

/-! ## emitYoke -/

@[simp] theorem emitYoke_clk (o : YokeOut) (e : Engine) : (emitYoke o e).clk = e.clk := rfl
@[simp] theorem emitYoke_pwr (o : YokeOut) (e : Engine) : (emitYoke o e).pwr = e.pwr := rfl
@[simp] theorem emitYoke_pins (o : YokeOut) (e : Engine) : (emitYoke o e).pins = e.pins := rfl
@[simp] theorem emitYoke_pcie (o : YokeOut) (e : Engine) : (emitYoke o e).pcie = e.pcie := rfl
@[simp] theorem emitYoke_holdings (o : YokeOut) (e : Engine) : (emitYoke o e).holdings = e.holdings := rfl
@[simp] theorem emitYoke_fns (o : YokeOut) (e : Engine) : (emitYoke o e).fns = e.fns := rfl
@[simp] theorem emitYoke_ports (o : YokeOut) (e : Engine) : (emitYoke o e).ports = e.ports := rfl
@[simp] theorem emitYoke_plots (o : YokeOut) (e : Engine) : (emitYoke o e).plots = e.plots := rfl
@[simp] theorem emitYoke_commons (o : YokeOut) (e : Engine) : (emitYoke o e).commons = e.commons := rfl
@[simp] theorem emitYoke_items (o : YokeOut) (e : Engine) : (emitYoke o e).items = e.items := rfl
@[simp] theorem emitYoke_staged (o : YokeOut) (e : Engine) : (emitYoke o e).staged = e.staged := rfl
@[simp] theorem emitYoke_frameLogs (o : YokeOut) (e : Engine) : (emitYoke o e).frameLogs = e.frameLogs := rfl
@[simp] theorem emitYoke_headPaths (o : YokeOut) (e : Engine) : (emitYoke o e).headPaths = e.headPaths := rfl
@[simp] theorem emitYoke_admitted (o : YokeOut) (e : Engine) : (emitYoke o e).admitted = e.admitted := rfl
@[simp] theorem emitYoke_toSpare (o : YokeOut) (e : Engine) : (emitYoke o e).toSpare = e.toSpare := rfl
@[simp] theorem emitYoke_yoke (o : YokeOut) (e : Engine) : (emitYoke o e).yoke = e.yoke := rfl
@[simp] theorem emitYoke_fw (o : YokeOut) (e : Engine) : (emitYoke o e).fw = e.fw := rfl
@[simp] theorem emitYoke_jtag (o : YokeOut) (e : Engine) : (emitYoke o e).jtag = e.jtag := rfl
@[simp] theorem emitYoke_test (o : YokeOut) (e : Engine) : (emitYoke o e).test = e.test := rfl
@[simp] theorem emitYoke_cnt (o : YokeOut) (e : Engine) : (emitYoke o e).cnt = e.cnt := rfl
@[simp] theorem emitYoke_reads (o : YokeOut) (e : Engine) : (emitYoke o e).reads = e.reads := rfl
@[simp] theorem emitYoke_ids (o : YokeOut) (e : Engine) : (emitYoke o e).ids = e.ids := rfl
@[simp] theorem emitYoke_free (o : YokeOut) (e : Engine) : (emitYoke o e).free = e.free := rfl
@[simp] theorem emitYoke_readValue (o : YokeOut) (e : Engine) : (emitYoke o e).readValue = e.readValue := rfl
@[simp] theorem emitYoke_degraded (o : YokeOut) (e : Engine) : (emitYoke o e).degraded = e.degraded := rfl
@[simp] theorem emitYoke_pulses (o : YokeOut) (e : Engine) : (emitYoke o e).pulses = e.pulses := rfl

/-! ## pulse -/

@[simp] theorem pulse_clk (n : Nat) (e : Engine) : (pulse n e).clk = e.clk := rfl
@[simp] theorem pulse_pwr (n : Nat) (e : Engine) : (pulse n e).pwr = e.pwr := rfl
@[simp] theorem pulse_pins (n : Nat) (e : Engine) : (pulse n e).pins = e.pins := rfl
@[simp] theorem pulse_pcie (n : Nat) (e : Engine) : (pulse n e).pcie = e.pcie := rfl
@[simp] theorem pulse_holdings (n : Nat) (e : Engine) : (pulse n e).holdings = e.holdings := rfl
@[simp] theorem pulse_fns (n : Nat) (e : Engine) : (pulse n e).fns = e.fns := rfl
@[simp] theorem pulse_ports (n : Nat) (e : Engine) : (pulse n e).ports = e.ports := rfl
@[simp] theorem pulse_plots (n : Nat) (e : Engine) : (pulse n e).plots = e.plots := rfl
@[simp] theorem pulse_commons (n : Nat) (e : Engine) : (pulse n e).commons = e.commons := rfl
@[simp] theorem pulse_items (n : Nat) (e : Engine) : (pulse n e).items = e.items := rfl
@[simp] theorem pulse_staged (n : Nat) (e : Engine) : (pulse n e).staged = e.staged := rfl
@[simp] theorem pulse_frameLogs (n : Nat) (e : Engine) : (pulse n e).frameLogs = e.frameLogs := rfl
@[simp] theorem pulse_headPaths (n : Nat) (e : Engine) : (pulse n e).headPaths = e.headPaths := rfl
@[simp] theorem pulse_admitted (n : Nat) (e : Engine) : (pulse n e).admitted = e.admitted := rfl
@[simp] theorem pulse_toSpare (n : Nat) (e : Engine) : (pulse n e).toSpare = e.toSpare := rfl
@[simp] theorem pulse_yoke (n : Nat) (e : Engine) : (pulse n e).yoke = e.yoke := rfl
@[simp] theorem pulse_fw (n : Nat) (e : Engine) : (pulse n e).fw = e.fw := rfl
@[simp] theorem pulse_jtag (n : Nat) (e : Engine) : (pulse n e).jtag = e.jtag := rfl
@[simp] theorem pulse_test (n : Nat) (e : Engine) : (pulse n e).test = e.test := rfl
@[simp] theorem pulse_cnt (n : Nat) (e : Engine) : (pulse n e).cnt = e.cnt := rfl
@[simp] theorem pulse_reads (n : Nat) (e : Engine) : (pulse n e).reads = e.reads := rfl
@[simp] theorem pulse_ids (n : Nat) (e : Engine) : (pulse n e).ids = e.ids := rfl
@[simp] theorem pulse_free (n : Nat) (e : Engine) : (pulse n e).free = e.free := rfl
@[simp] theorem pulse_readValue (n : Nat) (e : Engine) : (pulse n e).readValue = e.readValue := rfl
@[simp] theorem pulse_degraded (n : Nat) (e : Engine) : (pulse n e).degraded = e.degraded := rfl
@[simp] theorem pulse_out (n : Nat) (e : Engine) : (pulse n e).out = e.out := rfl

/-! ## The updated parts -/

@[simp] theorem modPort_same (p : PortId) (f : Port → Port) (e : Engine) : (modPort p f e).ports[p.val] = f (e.port p) := by
  simp [modPort, Engine.port]

theorem modPort_at (p q : PortId) (f : Port → Port) (e : Engine) :
    (modPort p f e).ports[q.val] = if p = q then f (e.port q) else e.port q := by
  simp only [modPort, Engine.port, vmod_at]

@[simp] theorem modHold_same (h : Fn) (f : Holding → Holding) (e : Engine) :
    (modHold h f e).holdings[h.val] = f (e.hold h) := by
  simp [modHold, Engine.hold]

theorem modHold_at (h g : Fn) (f : Holding → Holding) (e : Engine) :
    (modHold h f e).holdings[g.val] = if h = g then f (e.hold g) else e.hold g := by
  simp only [modHold, Engine.hold, vmod_at]

@[simp] theorem modFn_same (h : Fn) (f : FnState → FnState) (e : Engine) : (modFn h f e).fns[h.val] = f (e.fn h) := by
  simp [modFn, Engine.fn]

theorem modFn_at (h g : Fn) (f : FnState → FnState) (e : Engine) :
    (modFn h f e).fns[g.val] = if h = g then f (e.fn g) else e.fn g := by
  simp only [modFn, Engine.fn, vmod_at]

@[simp] theorem modPlot_same (p : PlotId) (f : Plot → Plot) (e : Engine) : (modPlot p f e).plots[p.val] = f (e.plot p) := by
  simp [modPlot, Engine.plot]

theorem modPlot_at (p q : PlotId) (f : Plot → Plot) (e : Engine) :
    (modPlot p f e).plots[q.val] = if p = q then f (e.plot q) else e.plot q := by
  simp only [modPlot, Engine.plot, vmod_at]

@[simp] theorem modPfn_same (h : Fn) (f : FnPcie → FnPcie) (e : Engine) :
    (modPfn h f e).pcie.fns[h.val] = f (e.pfn h) := by
  simp [modPfn, Engine.pfn]

@[simp] theorem whenE_true (f : Engine → Engine) (e : Engine) : whenE true f e = f e := rfl

@[simp] theorem whenE_false (f : Engine → Engine) (e : Engine) : whenE false f e = e := rfl

/-- A repeated step keeps what each of its steps keeps. -/
theorem forAll_keeps {α : Type} {γ : Sort _} (p : Engine → γ) (f : α → Engine → Engine) (l : List α) (e : Engine)
    (h : ∀ x e, p (f x e) = p e) : p (forAll l f e) = p e :=
  foldl_keeps p (fun e x => f x e) l e (fun e x => h x e)

/-- A conditional step keeps what the step keeps. -/
theorem whenE_keeps {γ : Sort _} (p : Engine → γ) (c : Bool) (f : Engine → Engine) (e : Engine)
    (h : ∀ e, p (f e) = p e) : p (whenE c f e) = p e := by
  cases c
  · rfl
  · exact h e

end Sys2Proof.Machine
end

