-- ==== Sys2Proof/Safety.lean ====
section
/-! DEFINITION. What a safe run is, in the terms claims use: no step stops, and the state of the core cluster keeps the
form that the spec gives it. -/

namespace Sys2Proof.Machine

/-! ## The parts of the engine, for frames -/

/-- The parts of the engine that a reply to a command, an attention entry and a host request never touch. -/
structure Rest where
  clk : Clk
  pwr : Pwr
  pins : Pins
  ports : Vector Port 32
  plots : Vector Plot 272
  commons : Commons
  items : List Item
  staged : List Staged
  frameLogs : List FrameLog
  headPaths : List (BitVec 48 × Map (List (Nat × Nat)))
  admitted : List (Fn × BitVec 48 × Nat × PortId)
  toSpare : List PlotId
  yoke : Yoke
  jtag : Jtag
  test : Test
  reads : List HostRead
  ids : Nat
  free : Nat
  readValue : Qword
  degraded : Bool
  pulses : List Nat

/-- Those parts of an engine. -/
def Engine.rest (e : Engine) : Rest :=
  { clk := e.clk, pwr := e.pwr, pins := e.pins, ports := e.ports, plots := e.plots, commons := e.commons,
    items := e.items, staged := e.staged, frameLogs := e.frameLogs, headPaths := e.headPaths,
    admitted := e.admitted, toSpare := e.toSpare, yoke := e.yoke,
    jtag := e.jtag, test := e.test, reads := e.reads, ids := e.ids, free := e.free,
    readValue := e.readValue, degraded := e.degraded, pulses := e.pulses }

/-- Those parts, the reads at the memory port aside. -/
def Engine.restButReads (e : Engine) : Rest := { e.rest with reads := [] }

/-- The parts that commons-control work, the rebuilding of groups and their mirror never touch either. -/
structure BusRest where
  clk : Clk
  pwr : Pwr
  pins : Pins
  ports : Vector Port 32
  plots : Vector Plot 272
  items : List Item
  staged : List Staged
  frameLogs : List FrameLog
  headPaths : List (BitVec 48 × Map (List (Nat × Nat)))
  admitted : List (Fn × BitVec 48 × Nat × PortId)
  toSpare : List PlotId
  yoke : Yoke
  jtag : Jtag
  test : Test
  reads : List HostRead
  readValue : Qword
  degraded : Bool
  pulses : List Nat

/-- Those parts of the ones that a reply leaves. -/
def Rest.bus (r : Rest) : BusRest :=
  { clk := r.clk, pwr := r.pwr, pins := r.pins, ports := r.ports, plots := r.plots, items := r.items,
    staged := r.staged, frameLogs := r.frameLogs, headPaths := r.headPaths,
    admitted := r.admitted, toSpare := r.toSpare, yoke := r.yoke, jtag := r.jtag, test := r.test,
    reads := r.reads, readValue := r.readValue, degraded := r.degraded, pulses := r.pulses }

/-- Those parts of an engine. -/
def Engine.busRest (e : Engine) : BusRest := e.rest.bus

end Sys2Proof.Machine

namespace Sys2Proof.Safety

open Sys2Proof.Machine

/-- A step that answers a next state. -/
def Goes (s : State) : Prop := ∃ t, step s = .next t

/-- No step of `n` steps stops. -/
def SafeFor : Nat → State → Prop
  | 0, _ => True
  | n + 1, s => ∃ t, step s = .next t ∧ SafeFor n t

/-- What holds of the core cluster whatever is commanded: the memory keeps its canonical form; x0 of every core reads 0;
sources of the user set go to cores 4 and 5 only and every other source to cores 0 to 3 only (R306); user threads run on
cores 4 and 5 only and every other thread on cores 0 to 3 only (R295). -/
structure CoresOk (k : Cores) : Prop where
  mem : Memory.wf k.mem = true
  zero : ∀ c : CoreId, (k.at c).regs.x[0] = 0
  routes : ∀ n : SrcId, (k.s n).targets &&& (if isUser n then 0x0F#6 else 0x30#6) = 0
  threads : ∀ t : ThreadId, (k.th t).affinity &&& (if 192 ≤ t.val then 0x0F#6 else 0x30#6) = 0

/-- The invariant of the block. -/
def Inv (s : State) : Prop := CoresOk s.cores

/-! ## What an admin command finds -/

/-- The source holds a command of an opcode that firmware takes now (R199, R208), well formed (R201: one unit, no reserved
bit set, a response address that is a multiple of 8, APPLY_ONCE on a command of class A), and not a repetition (R227). -/
abbrev Taken (s : State) (src : AdminSrc) (c : BitVec 512) (op : Nat) (target : Bool) (fields : Fields) : Prop :=
  s.eng.command src = some c ∧ s.eng.fwRuns = true ∧ s.eng.fw.noImage = false ∧ cOp c = op
    ∧ s.eng.mayStart src c = true ∧ cf c 0 0 4 = 1 ∧ reservedSet c target fields = false ∧ cf c 16 0 3 = 0
    ∧ (classA c = true → cOnce c = true) ∧ (s.eng.fn src.fn).once c = none

/-- No reset of the issuing holding is in progress (R241). -/
abbrev Idle (s : State) (src : AdminSrc) : Prop := (s.eng.fn src.fn).reset = none

/-- The command was issued by the PF (R202). -/
abbrev FromPf (src : AdminSrc) : Prop := src.fn = pf

/-- The state after a command has been answered: its completion with a status, a dword2 and data, on an engine that holds
its effect, with the notes that changed conditions ask for (R228). -/
def answered (s : State) (src : AdminSrc) (c : BitVec 512) (status : Byte) (dword2 : Dword) (data : List Byte)
    (e : Engine) : State :=
  { s with eng := noted s.eng (finish src c status dword2 data false e) }

/-- The state with a command that has started, waits for an event and has not been answered (R218). -/
def waiting (s : State) (src : AdminSrc) (c : BitVec 512) (w : Defer) (e : Engine) : State :=
  { s with eng := noted s.eng { e with fw := { e.fw with running := e.fw.running ++ [{ src, cmd := c, wait := w }] } } }

end Sys2Proof.Safety
end

