-- ==== Sys2Proof/Laws/Ops.lean ====
section
/-! SUPPORT. The spec lemmas of the shared operations: what the attention log, the memory port, a reply and an admin command
can do to the engine, said once. -/

namespace Sys2Proof.Machine

/-! ## The three shapes of a meaning -/

@[simp] theorem onEng_eq (s : State) (f : Engine → Engine) :
    onEng s f = .next { s with eng := noted s.eng (f s.eng) } := rfl

@[simp] theorem onCores_eq (s : State) (f : Cores → Cores) : onCores s f = .next { s with cores := f s.cores } := rfl

@[simp] theorem onBoth_eq (s : State) (f : Engine → Cores → Engine × Cores) :
    onBoth s f = .next { s with eng := noted s.eng (f s.eng s.cores).1, cores := (f s.eng s.cores).2 } := rfl

/-! ## What the notes of changed conditions touch (R192, R228, R360) -/

/-- A change of conditions touches firmware's record of the holding's function only. -/
theorem noteChange_keeps {γ : Sort _} (p : Engine → γ) (hp : ∀ h f e, p (modFn h f e) = p e) (h : Fn) (b : BitVec 16)
    (e : Engine) : p (noteChange h b e) = p e := by
  unfold noteChange; dsimp only; split
  · rfl
  · exact hp ..

/-- The notes of a command touch firmware's records of the functions only. -/
theorem noted_keeps {γ : Sort _} (p : Engine → γ) (hp : ∀ h f e, p (modFn h f e) = p e) (b e : Engine) :
    p (noted b e) = p e :=
  forAll_keeps p _ _ e fun _ _ => noteChange_keeps p hp ..

/-- A command that changes no holding's conditions writes no note. -/
theorem noted_same (b e : Engine) (h : ∀ g, e.conds g = b.conds g) : noted b e = e := by
  have step : ∀ l : List Fn, forAll l (fun g => noteChange g (b.conds g)) e = e := by
    intro l
    induction l with
    | nil => rfl
    | cons g l ih =>
      show forAll l _ (noteChange g (b.conds g) e) = e
      rw [show noteChange g (b.conds g) e = e from by simp [noteChange, h g]]
      exact ih
  exact step _

@[simp] theorem noted_self (e : Engine) : noted e e = e := noted_same e e fun _ => rfl

@[simp] theorem noted_clk (b e : Engine) : (noted b e).clk = e.clk := noted_keeps (·.clk) (fun _ _ _ => rfl) b e
@[simp] theorem noted_pwr (b e : Engine) : (noted b e).pwr = e.pwr := noted_keeps (·.pwr) (fun _ _ _ => rfl) b e
@[simp] theorem noted_pins (b e : Engine) : (noted b e).pins = e.pins := noted_keeps (·.pins) (fun _ _ _ => rfl) b e
@[simp] theorem noted_pcie (b e : Engine) : (noted b e).pcie = e.pcie := noted_keeps (·.pcie) (fun _ _ _ => rfl) b e
@[simp] theorem noted_holdings (b e : Engine) : (noted b e).holdings = e.holdings := noted_keeps (·.holdings) (fun _ _ _ => rfl) b e
@[simp] theorem noted_ports (b e : Engine) : (noted b e).ports = e.ports := noted_keeps (·.ports) (fun _ _ _ => rfl) b e
@[simp] theorem noted_plots (b e : Engine) : (noted b e).plots = e.plots := noted_keeps (·.plots) (fun _ _ _ => rfl) b e
@[simp] theorem noted_commons (b e : Engine) : (noted b e).commons = e.commons := noted_keeps (·.commons) (fun _ _ _ => rfl) b e
@[simp] theorem noted_items (b e : Engine) : (noted b e).items = e.items := noted_keeps (·.items) (fun _ _ _ => rfl) b e
@[simp] theorem noted_staged (b e : Engine) : (noted b e).staged = e.staged := noted_keeps (·.staged) (fun _ _ _ => rfl) b e
@[simp] theorem noted_frameLogs (b e : Engine) : (noted b e).frameLogs = e.frameLogs := noted_keeps (·.frameLogs) (fun _ _ _ => rfl) b e
@[simp] theorem noted_headPaths (b e : Engine) : (noted b e).headPaths = e.headPaths := noted_keeps (·.headPaths) (fun _ _ _ => rfl) b e
@[simp] theorem noted_admitted (b e : Engine) : (noted b e).admitted = e.admitted := noted_keeps (·.admitted) (fun _ _ _ => rfl) b e
@[simp] theorem noted_toSpare (b e : Engine) : (noted b e).toSpare = e.toSpare := noted_keeps (·.toSpare) (fun _ _ _ => rfl) b e
@[simp] theorem noted_yoke (b e : Engine) : (noted b e).yoke = e.yoke := noted_keeps (·.yoke) (fun _ _ _ => rfl) b e
@[simp] theorem noted_fw (b e : Engine) : (noted b e).fw = e.fw := noted_keeps (·.fw) (fun _ _ _ => rfl) b e
@[simp] theorem noted_jtag (b e : Engine) : (noted b e).jtag = e.jtag := noted_keeps (·.jtag) (fun _ _ _ => rfl) b e
@[simp] theorem noted_test (b e : Engine) : (noted b e).test = e.test := noted_keeps (·.test) (fun _ _ _ => rfl) b e
@[simp] theorem noted_cnt (b e : Engine) : (noted b e).cnt = e.cnt := noted_keeps (·.cnt) (fun _ _ _ => rfl) b e
@[simp] theorem noted_reads (b e : Engine) : (noted b e).reads = e.reads := noted_keeps (·.reads) (fun _ _ _ => rfl) b e
@[simp] theorem noted_ids (b e : Engine) : (noted b e).ids = e.ids := noted_keeps (·.ids) (fun _ _ _ => rfl) b e
@[simp] theorem noted_free (b e : Engine) : (noted b e).free = e.free := noted_keeps (·.free) (fun _ _ _ => rfl) b e
@[simp] theorem noted_readValue (b e : Engine) : (noted b e).readValue = e.readValue := noted_keeps (·.readValue) (fun _ _ _ => rfl) b e
@[simp] theorem noted_degraded (b e : Engine) : (noted b e).degraded = e.degraded := noted_keeps (·.degraded) (fun _ _ _ => rfl) b e
@[simp] theorem noted_pulses (b e : Engine) : (noted b e).pulses = e.pulses := noted_keeps (·.pulses) (fun _ _ _ => rfl) b e
@[simp] theorem noted_out (b e : Engine) : (noted b e).out = e.out := noted_keeps (·.out) (fun _ _ _ => rfl) b e

/-! ## What a reply cannot touch -/

theorem busRest_of_rest {e e' : Engine} (h : e.rest = e'.rest) : e.busRest = e'.busRest := congrArg Rest.bus h

@[simp] theorem modHold_rest (h : Fn) (f : Holding → Holding) (e : Engine) : (modHold h f e).rest = e.rest := rfl

@[simp] theorem modFn_rest (h : Fn) (f : FnState → FnState) (e : Engine) : (modFn h f e).rest = e.rest := rfl

@[simp] theorem modPfn_rest (h : Fn) (f : FnPcie → FnPcie) (e : Engine) : (modPfn h f e).rest = e.rest := rfl

@[simp] theorem modMbx_rest (h : Fn) (f : Mailbox → Mailbox) (e : Engine) : (modMbx h f e).rest = e.rest := rfl

@[simp] theorem modSq_rest (h : Fn) (n : Nat) (f : Sq → Sq) (e : Engine) : (modSq h n f e).rest = e.rest := rfl

@[simp] theorem countH_rest (h : Fn) (k : Nat) (e : Engine) : (countH h k e).rest = e.rest := rfl

@[simp] theorem countHP_rest (h : Fn) (p : PortId) (k : Nat) (e : Engine) : (countHP h p k e).rest = e.rest := rfl

@[simp] theorem pushCompletion_rest (h : Fn) (n : Nat) (c : Completion) (e : Engine) :
    (pushCompletion h n c e).rest = e.rest := rfl

@[simp] theorem emitHost_rest (o : HostOut) (e : Engine) : (emitHost o e).rest = e.rest := rfl

@[simp] theorem emitYoke_rest (o : YokeOut) (e : Engine) : (emitYoke o e).rest = e.rest := rfl

@[simp] theorem attn_rest (h : Fn) (kind : Nat) (object : DevNum) (port : Nat) (index argument : Dword) (commons : Bool)
    (e : Engine) : (attn h kind object port index argument commons e).rest = e.rest := rfl

@[simp] theorem toPartner_rest (o : YokeOut) (e : Engine) : (toPartner o e).rest = e.rest :=
  whenE_keeps Engine.rest _ _ e fun _ => rfl

@[simp] theorem shadow_rest (r : ShadowRecord) (e : Engine) : (shadow r e).rest = e.rest := toPartner_rest _ e

@[simp] theorem mirror_rest (c : CommonsChange) (e : Engine) : (mirror c e).rest = e.rest := toPartner_rest _ e

@[simp] theorem hostWrite_rest (h : Fn) (a : Qword) (d : List Byte) (r : Bool) (e : Engine) :
    (hostWrite h a d r e).rest = e.rest := by
  unfold hostWrite; split
  · rfl
  · split
    · rfl
    · exact forAll_keeps Engine.rest _ _ e fun _ _ => rfl

@[simp] theorem msix_rest (h : Fn) (v : Nat) (e : Engine) : (msix h v e).rest = e.rest := by
  unfold msix; split
  · rfl
  · split <;> rfl

@[simp] theorem recordOnce_rest (f : Fn) (c : BitVec 512) (st : Byte) (d : Dword) (e : Engine) :
    (recordOnce f c st d e).rest = e.rest := by
  unfold recordOnce; split <;> rfl

@[simp] theorem account_rest (h : Fn) (o : Outcome) (e : Engine) : (account h o e).rest = e.rest := by
  unfold account; split <;> rfl

@[simp] theorem mailboxReply_rest (f : Fn) (c : BitVec 512) (st : Byte) (d : Dword) (data : List Byte) (w : Bool)
    (e : Engine) : (mailboxReply f c st d data w e).rest = e.rest := by
  unfold mailboxReply
  rw [whenE_keeps Engine.rest _ _ _ (msix_rest f 0)]
  rfl

@[simp] theorem writeResponse_rest (f : Fn) (c : BitVec 512) (data : List Byte) (e : Engine) :
    (writeResponse f c data e).rest = e.rest := by
  unfold writeResponse; dsimp only; split
  · rfl
  · exact hostWrite_rest ..

@[simp] theorem reply_rest (src : AdminSrc) (c : BitVec 512) (st : Byte) (d : Dword) (data : List Byte) (w : Bool)
    (e : Engine) : (reply src c st d data w e).rest = e.rest := by
  unfold reply
  cases src with
  | mailbox f =>
    dsimp only
    rw [mailboxReply_rest, writeResponse_rest]
  | queue f unit =>
    dsimp only
    split
    · rw [account_rest, writeResponse_rest]
    · rw [pushCompletion_rest, writeResponse_rest]

/-- The end of a command touches the function's record, its CQ 0, its mailbox and the host stream only. -/
@[simp] theorem finish_rest (src : AdminSrc) (c : BitVec 512) (st : Byte) (d : Dword) (data : List Byte) (w : Bool)
    (e : Engine) : (finish src c st d data w e).rest = e.rest := by
  unfold finish; rw [reply_rest, recordOnce_rest]

@[simp] theorem endDiscarded_rest (r : Running) (kept : Bool) (st : Byte) (d : Dword) (e : Engine) :
    (endDiscarded r kept st d e).rest = e.rest := by
  unfold endDiscarded; dsimp only
  rw [whenE_keeps Engine.rest _ _ _ (modMbx_rest _ _), account_rest, recordOnce_rest]

/-- The end of a started command touches the function's record, its CQ 0, its mailbox and the host stream only. -/
@[simp] theorem endCommand_rest (r : Running) (st : Byte) (d : Dword) (data : List Byte) (w : Bool) (e : Engine) :
    (endCommand r st d data w e).rest = e.rest := by
  unfold endCommand; split
  · rfl
  · dsimp only
    split
    · exact endDiscarded_rest ..
    · exact finish_rest ..

@[simp] theorem finishWaiting_rest (p : Running → Bool) (st : Byte) (d : Dword) (data : List Byte) (w : Bool)
    (e : Engine) : (finishWaiting p st d data w e).rest = e.rest := by
  unfold finishWaiting; split
  · rfl
  · exact endCommand_rest ..

theorem sweepAssign_rest (e : Engine) : (sweepAssign e).rest = e.rest := by
  unfold sweepAssign; dsimp only; split
  · rfl
  · exact finishWaiting_rest ..

@[simp] theorem attnAll_rest (kind : Nat) (index argument : Dword) (commons : Bool) (e : Engine) :
    (attnAll kind index argument commons e).rest = e.rest :=
  forAll_keeps Engine.rest _ _ e fun _ _ => rfl

@[simp] theorem attnOwner_rest (owner : Fn) (kind : Nat) (object : DevNum) (port : Nat) (index argument : Dword)
    (e : Engine) : (attnOwner owner kind object port index argument e).rest = e.rest := by
  unfold attnOwner; cases owner != pf <;> rfl

/-! ## The attention log (R222, R224) -/

/-- An entry goes into a log that has room; the lost count is reported in it and starts again. -/
theorem attn_stored (h : Fn) (kind : Nat) (object : DevNum) (port : Nat) (index argument : Dword) (commons : Bool)
    (e : Engine) (room : (e.fn h).log.length < attnCapacity h) :
    ((attn h kind object port index argument commons e).fn h).log = (e.fn h).log ++
      [{ seq := (e.fn h).logNext, kind, commons, lost := (e.fn h).logLost, etc := e.clk.etc, epoch := e.clk.epoch,
         object, port, index, argument }] := by
  have : ¬ attnCapacity h ≤ (e.fn h).log.length := by omega
  simp only [attn, modFn_same, Engine.fn, this, decide_false, Bool.false_eq_true, if_false]

/-- A full log stores nothing and counts the entry as lost. -/
theorem attn_lost (h : Fn) (kind : Nat) (object : DevNum) (port : Nat) (index argument : Dword) (commons : Bool)
    (e : Engine) (full : attnCapacity h ≤ (e.fn h).log.length) :
    (attn h kind object port index argument commons e).fn h = { e.fn h with logLost := (e.fn h).logLost + 1 } := by
  simp only [attn, modFn_same, Engine.fn, full, decide_true, if_true]

/-! ## Admin commands (R201, R218) -/

/-- The engine on which a command's own checks and effect run: its read of host memory has been issued. -/
def readFor (r : AdminRow) (f : Fn) (c : BitVec 512) (e : Engine) : Engine :=
  whenE (verdict (sharedChecks r f c e)).isNone (r.reads f c) e

/-- A command that passes every check has its effect and is answered as the effect says. -/
theorem runAdmin_ok {r : AdminRow} {src : AdminSrc} {checks : Fn → BitVec 512 → Engine → List Check}
    {effect : Fn → BitVec 512 → Engine → AdminStep} {e e' : Engine} {c : BitVec 512} (g : gate r src e = .run c e')
    (ok : verdict (sharedChecks r src.fn c (readFor r src.fn c e') ++ checks src.fn c (readFor r src.fn c e')) = none) :
    runAdmin r src checks effect e = concludeAdmin src c (effect src.fn c (readFor r src.fn c e')) := by
  unfold readFor at ok ⊢
  simp only [runAdmin, g, ok]

/-- A command that fails a check is answered with the status of the check that decides, and has no effect. -/
theorem runAdmin_fails {r : AdminRow} {src : AdminSrc} {checks : Fn → BitVec 512 → Engine → List Check}
    {effect : Fn → BitVec 512 → Engine → AdminStep} {e e' : Engine} {c : BitVec 512} {k : Check}
    (g : gate r src e = .run c e')
    (bad : verdict (sharedChecks r src.fn c (readFor r src.fn c e') ++ checks src.fn c (readFor r src.fn c e')) = some k) :
    runAdmin r src checks effect e =
      finish src c (BitVec.ofNat 8 k.status) k.dword2 [] false (readFor r src.fn c e') := by
  unfold readFor at bad ⊢
  simp only [runAdmin, g, bad]

/-- A row that reads no host memory for its checks runs on the engine as it stands. -/
theorem readFor_none {r : AdminRow} (h : r.reads = fun _ _ e => e) (f : Fn) (c : BitVec 512) (e : Engine) :
    readFor r f c e = e := by
  unfold readFor; rw [h]; cases (verdict (sharedChecks r f c e)).isNone <;> rfl

/-- A source that holds no command changes nothing. -/
theorem runAdmin_none {r : AdminRow} {src : AdminSrc} {checks : Fn → BitVec 512 → Engine → List Check}
    {effect : Fn → BitVec 512 → Engine → AdminStep} {e : Engine} (h : e.command src = none) :
    runAdmin r src checks effect e = e := by
  simp only [runAdmin, gate, h]

end Sys2Proof.Machine
end

