-- ==== Sys2Proof/Laws/Admin.lean ====
section
/-! SUPPORT. The spec lemmas of the admin commands' gate and checks: a command that firmware takes passes the gate, and a
list of checks none of which is bad decides nothing. -/

namespace Sys2Proof.Machine

open Sys2Proof.Safety

/-- No check is bad: the command goes on. -/
theorem verdict_none {l : List Check} (h : ∀ k ∈ l, k.bad = false) : verdict l = none := by
  unfold verdict
  rw [List.filter_eq_nil_iff.mpr fun k hk => by simp [h k hk]]
  rfl

/-! ## Taking a command off its source -/

/-- What issuing reads keeps: everything but the reads and the host stream. -/
theorem pumpReads_keeps {γ : Sort _} (p : Engine → γ) (hr : ∀ e l, p { e with reads := l } = p e)
    (ho : ∀ o e, p (emitHost o e) = p e) (e : Engine) : p (pumpReads e) = p e := by
  refine forAll_keeps p _ _ e fun k e => ?_
  unfold sendRead; split
  · rfl
  · dsimp only; split
    · rfl
    · split
      · exact hr ..
      · rw [forAll_keeps p _ _ _ fun x e => ho ..]; exact hr ..

/-- What a fetch read of a queue keeps: everything but its SQ, the reads and the host stream. -/
theorem fetchIssue_keeps {γ : Sort _} (p : Engine → γ) (h : Fn) (n : Nat) (hr : ∀ e l, p { e with reads := l } = p e)
    (ho : ∀ o e, p (emitHost o e) = p e) (hs : ∀ f e, p (modSq h n f e) = p e) (e : Engine) :
    p (fetchIssue h n e) = p e := by
  unfold fetchIssue; split
  · rfl
  · split
    · rfl
    · dsimp only; split
      · rfl
      · unfold hostRead readParts
        rw [pumpReads_keeps p hr ho, hr]; exact hs ..

/-- What taking the front entry of a queue keeps: everything but its SQ, the reads and the streams. -/
theorem popEntry_keeps {γ : Sort _} (p : Engine → γ) (h : Fn) (n : Nat) (c : Cached) (b : Bool)
    (hr : ∀ e l, p { e with reads := l } = p e) (ho : ∀ o e, p (emitHost o e) = p e)
    (hy : ∀ o e, p (emitYoke o e) = p e) (hs : ∀ f e, p (modSq h n f e) = p e) (e : Engine) :
    p (popEntry h n c b e) = p e := by
  unfold popEntry; dsimp only
  rw [fetchIssue_keeps p h n hr ho hs]
  split
  · exact hs ..
  · unfold journalSq journal toPartner
    rw [whenE_keeps p _ _ _ fun e => hy ..]
    exact hs ..

/-- Taking a command off its source touches only the mailbox, or SQ 0, of the issuing function, the reads and the
streams. -/
theorem takeCommand_keeps {γ : Sort _} (p : Engine → γ) (src : AdminSrc) (hr : ∀ e l, p { e with reads := l } = p e)
    (ho : ∀ o e, p (emitHost o e) = p e) (hy : ∀ o e, p (emitYoke o e) = p e)
    (hs : ∀ f e, p (modSq src.fn 0 f e) = p e) (hm : ∀ f e, p (modMbx src.fn f e) = p e) (e : Engine) :
    p (takeCommand src e) = p e := by
  unfold takeCommand
  cases src with
  | mailbox f => exact hm ..
  | queue f u =>
    dsimp only
    split
    · rfl
    · split
      · rfl
      · exact popEntry_keeps p f 0 _ _ hr ho hy hs e

/-- It leaves the rest of the engine. -/
theorem takeCommand_rest (src : AdminSrc) (e : Engine) : (takeCommand src e).restButReads = e.restButReads :=
  takeCommand_keeps _ src (fun _ _ => rfl) (fun _ _ => rfl) (fun _ _ => rfl) (fun _ _ => rfl) (fun _ _ => rfl) e

@[simp] theorem takeCommand_fw (src : AdminSrc) (e : Engine) : (takeCommand src e).fw = e.fw :=
  takeCommand_keeps _ src (fun _ _ => rfl) (fun _ _ => rfl) (fun _ _ => rfl) (fun _ _ => rfl) (fun _ _ => rfl) e

@[simp] theorem takeCommand_pcie (src : AdminSrc) (e : Engine) : (takeCommand src e).pcie = e.pcie :=
  takeCommand_keeps _ src (fun _ _ => rfl) (fun _ _ => rfl) (fun _ _ => rfl) (fun _ _ => rfl) (fun _ _ => rfl) e

/-- Of the function's record only the mailbox changes. -/
theorem takeCommand_fn (src : AdminSrc) (e : Engine) (h : Fn) :
    ∃ m, (takeCommand src e).fn h = { e.fn h with mbx := m } := by
  unfold takeCommand
  cases src with
  | mailbox f =>
    by_cases x : f = h
    · subst x; exact ⟨{ (e.fn f).mbx with taken := true }, by simp [modMbx, Engine.fn]⟩
    · have y : f.val ≠ h.val := fun k => x (Fin.ext k)
      exact ⟨(e.fn h).mbx, by
        show (vmod e.fns f _)[h.val] = _
        rw [vmod_other _ _ _ _ h.isLt y]⟩
  | queue f u =>
    dsimp only
    split
    · exact ⟨_, rfl⟩
    · split
      · exact ⟨_, rfl⟩
      · rename_i q _ c l _
        refine ⟨(e.fn h).mbx, ?_⟩
        rw [popEntry_keeps (fun e => e.fn h) f 0 _ _ (fun _ _ => rfl) (fun _ _ => rfl) (fun _ _ => rfl) (fun _ _ => rfl)]

theorem takeCommand_reset (src : AdminSrc) (e : Engine) (h : Fn) :
    ((takeCommand src e).fn h).reset = (e.fn h).reset := by
  obtain ⟨m, x⟩ := takeCommand_fn src e h; rw [x]

theorem takeCommand_once (src : AdminSrc) (e : Engine) (h : Fn) (c : BitVec 512) :
    ((takeCommand src e).fn h).once c = (e.fn h).once c := by
  obtain ⟨m, x⟩ := takeCommand_fn src e h; rw [x]; rfl

/-- A command that firmware takes passes the gate of its row. -/
theorem taken_gate {r : AdminRow} {s : State} {src : AdminSrc} {c : BitVec 512} {op : Nat} {target : Bool}
    {fields : Fields} (t : Taken s src c op target fields) (ho : r.op = op) :
    gate r src s.eng = .run c (takeCommand src s.eng) := by
  obtain ⟨h1, h2, h3, h4, h5, -, -, -, -, h10⟩ := t
  unfold gate
  simp [h1, h2, h3, h4, h5, ho, takeCommand_once, h10]

/-- The shared checks pass for a command that firmware takes. -/
theorem taken_shared {r : AdminRow} {s : State} {src : AdminSrc} {c : BitVec 512} {op : Nat} {target : Bool}
    {fields : Fields} (t : Taken s src c op target fields) (hp : r.pfOnly = true → src.fn = pf)
    (hg : r.target = target) (hu : r.used c = fields) (hi : r.inReset = false → (s.eng.fn src.fn).reset = none) :
    ∀ k ∈ sharedChecks r src.fn c (takeCommand src s.eng), k.bad = false := by
  obtain ⟨-, -, -, -, -, h6, h7, h8, h9, -⟩ := t
  intro k hk
  simp only [sharedChecks, List.mem_cons, List.not_mem_nil, or_false] at hk
  rcases hk with rfl | rfl | rfl | rfl | rfl | rfl
  · cases hr : r.pfOnly
    · rfl
    · simp [hp hr]
  · simp [h6]
  · simp [hg, hu, h7]
  · cases hc : classA c
    · rfl
    · simp [h9 hc]
  · simp [h8]
  · dsimp only
    rw [takeCommand_reset]
    cases hr : r.inReset
    · simp [hi hr]
    · rfl

/-- The shared checks decide nothing for a command that firmware takes, so its row's read is issued. -/
theorem taken_reads {r : AdminRow} {s : State} {src : AdminSrc} {c : BitVec 512} {op : Nat} {target : Bool}
    {fields : Fields} (t : Taken s src c op target fields) (hp : r.pfOnly = true → src.fn = pf)
    (hg : r.target = target) (hu : r.used c = fields) (hi : r.inReset = false → (s.eng.fn src.fn).reset = none) :
    readFor r src.fn c (takeCommand src s.eng) = r.reads src.fn c (takeCommand src s.eng) := by
  unfold readFor
  rw [verdict_none (taken_shared t hp hg hu hi)]; rfl

/-- The shared checks look at the function's reset state only. -/
theorem sharedChecks_congr (r : AdminRow) (f : Fn) (c : BitVec 512) (e e' : Engine)
    (h : (e'.fn f).reset = (e.fn f).reset) : sharedChecks r f c e' = sharedChecks r f c e := by
  unfold sharedChecks; rw [h]

/-- A command that firmware takes and whose own checks pass has its effect. -/
theorem taken_runs {r : AdminRow} {s : State} {src : AdminSrc} {c : BitVec 512} {op : Nat} {target : Bool}
    {fields : Fields} {checks : Fn → BitVec 512 → Engine → List Check} {effect : Fn → BitVec 512 → Engine → AdminStep}
    (t : Taken s src c op target fields) (ho : r.op = op) (hp : r.pfOnly = true → src.fn = pf)
    (hg : r.target = target) (hu : r.used c = fields) (hi : r.inReset = false → (s.eng.fn src.fn).reset = none)
    (hr : r.reads = fun _ _ e => e)
    (own : ∀ k ∈ checks src.fn c (takeCommand src s.eng), k.bad = false) :
    runAdmin r src checks effect s.eng = concludeAdmin src c (effect src.fn c (takeCommand src s.eng)) := by
  have n := readFor_none hr src.fn c (takeCommand src s.eng)
  have ok : verdict (sharedChecks r src.fn c (readFor r src.fn c (takeCommand src s.eng))
      ++ checks src.fn c (readFor r src.fn c (takeCommand src s.eng))) = none := by
    rw [n]
    refine verdict_none fun k hk => ?_
    rcases List.mem_append.mp hk with h | h
    · exact taken_shared t hp hg hu hi k h
    · exact own k h
  rw [runAdmin_ok (taken_gate t ho) ok, n]

/-- A command that reads host memory for its checks: they and its effect see the engine that has issued the read. -/
theorem taken_runs_reading {r : AdminRow} {s : State} {src : AdminSrc} {c : BitVec 512} {op : Nat} {target : Bool}
    {fields : Fields} {checks : Fn → BitVec 512 → Engine → List Check} {effect : Fn → BitVec 512 → Engine → AdminStep}
    (t : Taken s src c op target fields) (ho : r.op = op) (hp : r.pfOnly = true → src.fn = pf)
    (hg : r.target = target) (hu : r.used c = fields) (hi : r.inReset = false → (s.eng.fn src.fn).reset = none)
    (hf : ((r.reads src.fn c (takeCommand src s.eng)).fn src.fn).reset = ((takeCommand src s.eng).fn src.fn).reset)
    (own : ∀ k ∈ checks src.fn c (r.reads src.fn c (takeCommand src s.eng)), k.bad = false) :
    runAdmin r src checks effect s.eng =
      concludeAdmin src c (effect src.fn c (r.reads src.fn c (takeCommand src s.eng))) := by
  have n := taken_reads t hp hg hu hi
  have ok : verdict (sharedChecks r src.fn c (readFor r src.fn c (takeCommand src s.eng))
      ++ checks src.fn c (readFor r src.fn c (takeCommand src s.eng))) = none := by
    rw [n, sharedChecks_congr r src.fn c _ _ hf]
    refine verdict_none fun k hk => ?_
    rcases List.mem_append.mp hk with h | h
    · exact taken_shared t hp hg hu hi k h
    · exact own k h
  rw [runAdmin_ok (taken_gate t ho) ok, n]

/-- The same for a command whose effect lies in the engine and the cores. -/
theorem taken_runs_cores {r : AdminRow} {s : State} {src : AdminSrc} {c : BitVec 512} {op : Nat} {target : Bool}
    {fields : Fields} {checks : Fn → BitVec 512 → Engine → Cores → List Check}
    {effect : Fn → BitVec 512 → Engine → Cores → AdminStep × Cores} (k : Cores)
    (t : Taken s src c op target fields) (ho : r.op = op) (hp : r.pfOnly = true → src.fn = pf)
    (hg : r.target = target) (hu : r.used c = fields) (hi : r.inReset = false → (s.eng.fn src.fn).reset = none)
    (hf : ((r.reads src.fn c (takeCommand src s.eng)).fn src.fn).reset = ((takeCommand src s.eng).fn src.fn).reset)
    (own : ∀ x ∈ checks src.fn c (r.reads src.fn c (takeCommand src s.eng)) k, x.bad = false) :
    runAdminCores r src checks effect s.eng k =
      (concludeAdmin src c (effect src.fn c (r.reads src.fn c (takeCommand src s.eng)) k).1,
        (effect src.fn c (r.reads src.fn c (takeCommand src s.eng)) k).2) := by
  have n := verdict_none (taken_shared t hp hg hu hi)
  have ok : verdict (sharedChecks r src.fn c (r.reads src.fn c (takeCommand src s.eng))
      ++ checks src.fn c (r.reads src.fn c (takeCommand src s.eng)) k) = none := by
    rw [sharedChecks_congr r src.fn c _ _ hf]
    refine verdict_none fun x hx => ?_
    rcases List.mem_append.mp hx with h | h
    · exact taken_shared t hp hg hu hi x h
    · exact own x h
  simp only [runAdminCores, taken_gate t ho, n, Option.isNone_none, whenE_true, ok]

/-- A read that a command brings with it touches the host stream only. -/
theorem readNow_keeps {γ : Sort _} (p : Engine → γ) (ho : ∀ o e, p (emitHost o e) = p e) (h : Fn) (a : Qword) (n : Nat)
    (t : ReadTag) (e : Engine) : p (readNow h a n t e) = p e := by
  unfold readNow; split
  · rfl
  · exact forAll_keeps p _ _ e fun _ _ => ho ..

end Sys2Proof.Machine
end

