-- ==== Sys2Proof/Laws/Memory.lean ====
section
/-! SUPPORT. The memory of the cores: a read after a write, the bytes that a write leaves alone, and that every memory
operation keeps the canonical form. -/

namespace Sys2Proof.Machine

/-! ## The canonical form -/

theorem memWf_mono {m : List Host.Cell} {lo lo' : Nat} (h : memWf m lo = true) (le : lo' ≤ lo) : memWf m lo' = true := by
  cases m with
  | nil => rfl
  | cons c t =>
    simp only [memWf, Bool.and_eq_true, decide_eq_true_eq] at h ⊢
    exact ⟨⟨by omega, h.1.2⟩, h.2⟩

/-- An address below the first listed one is unlisted. -/
theorem memByte_below {m : List Host.Cell} {lo a : Nat} (h : memWf m lo = true) (lt : a < lo) : memByte m a = 0 := by
  induction m generalizing lo with
  | nil => rfl
  | cons c t ih =>
    simp only [memWf, Bool.and_eq_true, decide_eq_true_eq] at h
    have : ¬ c.1 = a := by omega
    simp only [memByte, this, if_false]
    exact ih h.2 (by omega)

theorem memPut_wf {m : List Host.Cell} {lo a : Nat} {b : Byte} (h : memWf m lo = true) (le : lo ≤ a) :
    memWf (memPut m a b) lo = true := by
  induction m generalizing lo with
  | nil =>
    by_cases hb : b = 0#8 <;> simp [memPut, memWf, hb, le]
  | cons c t ih =>
    obtain ⟨k, v⟩ := c
    simp only [memWf, Bool.and_eq_true, decide_eq_true_eq] at h
    simp only [memPut]
    split
    · rename_i hk
      split
      · simp only [memWf, Bool.and_eq_true, decide_eq_true_eq]
        exact h
      · rename_i hb
        have hv : v ≠ 0#8 := by simpa using h.1.2
        have hb : b ≠ 0#8 := hb
        have ha : a + 1 ≤ k := by omega
        simp [memWf, le, hb, ha, hv, h.2]
    · split
      · rename_i h1 h2
        subst h2
        split
        · exact memWf_mono h.2 (by omega)
        · rename_i hb
          have hb : b ≠ 0#8 := hb
          simp [memWf, le, hb, h.2]
      · rename_i h1 h2
        have hv : v ≠ 0#8 := by simpa using h.1.2
        simp [memWf, h.1.1, hv, ih h.2 (by omega : k + 1 ≤ a)]

theorem memPuts_wf {m : List Host.Cell} {a : Nat} {bs : List Byte} (h : Memory.wf m = true) :
    Memory.wf (memPuts m a bs) = true := by
  induction bs generalizing m a with
  | nil => exact h
  | cons b bs ih => exact ih (memPut_wf h (Nat.zero_le a))

theorem memWf_filter {m : List Host.Cell} {lo : Nat} (q : Host.Cell → Bool) (h : memWf m lo = true) :
    memWf (m.filter q) lo = true := by
  induction m generalizing lo with
  | nil => rfl
  | cons c t ih =>
    simp only [memWf, Bool.and_eq_true, decide_eq_true_eq] at h
    rw [List.filter_cons]
    split
    · simp only [memWf, Bool.and_eq_true, decide_eq_true_eq]
      exact ⟨h.1, ih h.2⟩
    · exact ih (memWf_mono h.2 (by omega))

theorem memZero_wf {m : List Host.Cell} {a n : Nat} (h : Memory.wf m = true) : Memory.wf (memZero m a n) = true :=
  memWf_filter _ h

theorem storeBytes_wf {m : List Host.Cell} {a : Nat} {v : Dword} {be : BitVec 4} (h : Memory.wf m = true) :
    Memory.wf (storeBytes a v be m) = true := by
  unfold storeBytes
  generalize List.range 4 = l
  induction l generalizing m with
  | nil => exact h
  | cons i l ih =>
    rw [List.foldl_cons]
    apply ih
    split
    · exact memPut_wf h (Nat.zero_le _)
    · exact h

theorem loseL2_wf {keep : BitVec 10} {k : Cores} (h : Memory.wf k.mem = true) : Memory.wf (loseL2 keep k).mem = true := by
  unfold loseL2
  dsimp only
  generalize (List.range 10).filter (fun b => !bitOf keep b) = l
  generalize k.mem = m at h
  induction l generalizing m with
  | nil => exact h
  | cons b l ih => exact ih _ (memZero_wf h)

/-! ## Reads after writes -/

theorem memByte_put {m : List Host.Cell} {lo a : Nat} {b : Byte} (h : memWf m lo = true) (x : Nat) :
    memByte (memPut m a b) x = if a = x then b else memByte m x := by
  induction m generalizing lo with
  | nil =>
    by_cases hb : b = 0#8 <;> by_cases hx : a = x <;> simp [memPut, memByte, hb, hx]
  | cons c t ih =>
    obtain ⟨k, v⟩ := c
    simp only [memWf, Bool.and_eq_true, decide_eq_true_eq] at h
    simp only [memPut]
    split
    · rename_i hk
      split
      · rename_i hb
        split
        · rename_i hx
          subst hx
          have : ¬ k = a := by omega
          simp only [memByte, this, if_false]
          rw [hb]
          exact memByte_below h.2 (by omega)
        · rfl
      · simp only [memByte]
    · split
      · rename_i h1 h2
        subst h2
        split
        · rename_i hb
          split
          · rename_i hx
            subst hx
            rw [hb]
            exact memByte_below h.2 (by omega)
          · rename_i hx
            simp [memByte, hx]
        · simp only [memByte]
          split <;> rfl
      · rename_i h1 h2
        simp only [memByte]
        rw [ih h.2]
        split
        · rename_i hk
          subst hk
          simp [h2]
        · rfl

/-- Bytes outside the written ones read as before. -/
theorem memByte_puts_out {m : List Host.Cell} {a x : Nat} {bs : List Byte} (h : Memory.wf m = true)
    (out : x < a ∨ a + bs.length ≤ x) : memByte (memPuts m a bs) x = memByte m x := by
  induction bs generalizing m a with
  | nil => rfl
  | cons b bs ih =>
    simp only [List.length_cons] at out
    unfold memPuts
    rw [ih (memPut_wf h (Nat.zero_le a)) (by omega), memByte_put h]
    have : ¬ a = x := by omega
    simp [this]

/-- A written byte reads as written. -/
theorem memByte_puts_in {m : List Host.Cell} {a i : Nat} {bs : List Byte} (h : Memory.wf m = true)
    (lt : i < bs.length) : memByte (memPuts m a bs) (a + i) = bs[i] := by
  induction bs generalizing m a i with
  | nil => simp at lt
  | cons b bs ih =>
    unfold memPuts
    cases i with
    | zero =>
      rw [memByte_puts_out (memPut_wf h (Nat.zero_le a)) (by omega), memByte_put h]
      simp
    | succ i =>
      have e : a + (i + 1) = a + 1 + i := by omega
      rw [e, ih (memPut_wf h (Nat.zero_le a)) (by simpa using lt)]
      simp

theorem memByte_zero {m : List Host.Cell} {a n x : Nat} :
    memByte (memZero m a n) x = if a ≤ x ∧ x < a + n then 0 else memByte m x := by
  induction m with
  | nil => simp [memZero, memByte]
  | cons c t ih =>
    obtain ⟨k, v⟩ := c
    simp only [memZero] at ih
    simp only [memZero, List.filter_cons]
    by_cases hk : a ≤ k ∧ k < a + n
    · simp only [hk.1, hk.2, decide_true, Bool.and_self, Bool.not_true, Bool.false_eq_true, if_false]
      rw [ih]
      by_cases hx : k = x
      · subst hx; simp [hk]
      · simp [memByte, hx]
    · have : (!(decide (a ≤ k) && decide (k < a + n))) = true := by simp; omega
      rw [if_pos this]
      by_cases hx : k = x
      · subst hx; simp [memByte, hk]
      · simp only [memByte, hx, if_false]
        rw [ih]

end Sys2Proof.Machine
end

