-- ==== Sys2Proof/Laws/Cores.lean ====
section
/-! SUPPORT. The operations of the core cluster keep its form (`Safety.CoresOk`): one lemma for each. -/

namespace Sys2Proof.Machine

open Sys2Proof.Safety

theorem modCore_ok {k : Cores} (c : CoreId) {f : Core → Core} (h : CoresOk k)
    (z : ∀ x : Core, x.regs.x[0] = 0 → (f x).regs.x[0] = 0) : CoresOk (modCore c f k) :=
  { mem := h.mem, routes := h.routes, threads := h.threads
    zero := fun d => by
      show ((vmod k.core c f)[d.val]).regs.x[0] = 0
      rw [vmod_at]
      split
      · exact z _ (h.zero d)
      · exact h.zero d }

theorem modThread_ok {k : Cores} (t : ThreadId) {f : Thread → Thread} (h : CoresOk k)
    (a : ∀ x : Thread, (f x).affinity = x.affinity) : CoresOk (modThread t f k) :=
  { mem := h.mem, zero := h.zero, routes := h.routes
    threads := fun u => by
      show ((vmod k.threads t f)[u.val]).affinity &&& _ = 0
      rw [vmod_at]
      split
      · rw [a]; exact h.threads u
      · exact h.threads u }

theorem modSrc_ok {k : Cores} (n : SrcId) {f : CicSrc → CicSrc} (h : CoresOk k)
    (a : ∀ x : CicSrc, (f x).targets = x.targets) : CoresOk (modSrc n f k) :=
  { mem := h.mem, zero := h.zero, threads := h.threads
    routes := fun m => by
      show ((vmod k.src n f)[m.val]).targets &&& _ = 0
      rw [vmod_at]
      split
      · rw [a]; exact h.routes m
      · exact h.routes m }

/-- A change that leaves cores, threads and sources alone and keeps the memory's form. -/
theorem setMem_ok {k k' : Cores} (h : CoresOk k) (m : Memory.wf k'.mem = true) (core : k'.core = k.core)
    (threads : k'.threads = k.threads) (src : k'.src = k.src) : CoresOk k' :=
  { mem := m, zero := fun c => by simp only [Cores.at, core]; exact h.zero c
    routes := fun n => by simp only [Cores.s, src]; exact h.routes n
    threads := fun t => by simp only [Cores.th, threads]; exact h.threads t }

/-- A change of the tables beside them. -/
theorem same_ok {k k' : Cores} (h : CoresOk k) (mem : k'.mem = k.mem) (core : k'.core = k.core)
    (threads : k'.threads = k.threads) (src : k'.src = k.src) : CoresOk k' :=
  setMem_ok h (by rw [mem]; exact h.mem) core threads src

theorem forCores_ok {α : Type} (l : List α) {f : α → Cores → Cores} {k : Cores} (h : CoresOk k)
    (s : ∀ x k, CoresOk k → CoresOk (f x k)) : CoresOk (forCores l f k) := by
  unfold forCores
  induction l generalizing k with
  | nil => exact h
  | cons x t ih => exact ih (s x k h)

theorem whenC_ok (c : Bool) {f : Cores → Cores} {k : Cores} (h : CoresOk k) (s : CoresOk (f k)) :
    CoresOk (whenC c f k) := by
  cases c
  · exact h
  · exact s

theorem modRegs_ok {k : Cores} (c : CoreId) {f : CoreRegs → CoreRegs} (h : CoresOk k)
    (z : ∀ g : CoreRegs, g.x[0] = 0 → (f g).x[0] = 0) : CoresOk (modRegs c f k) :=
  modCore_ok c h fun x => z x.regs

theorem setX_ok {k : Cores} (c : CoreId) (r : Fin 32) (v : Dword) (h : CoresOk k) : CoresOk (setX c r v k) := by
  unfold setX
  split
  · exact h
  · rename_i hr
    refine modRegs_ok c h fun g hg => ?_
    show (vmod g.x r _)[0] = 0
    rw [vmod_other _ _ _ 0 (by decide) hr]
    exact hg

theorem takeTrap_ok {k : Cores} (c : CoreId) (cause tval : Dword) (h : CoresOk k) : CoresOk (takeTrap c cause tval k) :=
  modRegs_ok c h fun _ hg => hg

theorem handledTrap_ok {k : Cores} (c : CoreId) (cause pc : Dword) (h : CoresOk k) : CoresOk (handledTrap c cause pc k) :=
  modRegs_ok c h fun _ hg => hg

theorem loadFault_ok {k : Cores} (c : CoreId) (a : Nat) (h : CoresOk k) : CoresOk (loadFault c a k) := takeTrap_ok c _ _ h

theorem storeFault_ok {k : Cores} (c : CoreId) (a : Nat) (h : CoresOk k) : CoresOk (storeFault c a k) := takeTrap_ok c _ _ h

theorem pend_ok {k : Cores} (now : Nat) (n : SrcId) (h : CoresOk k) : CoresOk (pend now n k) := modSrc_ok n h fun _ => rfl

theorem pendRise_ok {k : Cores} (now : Nat) (n : SrcId) (h : CoresOk k) : CoresOk (pendRise now n k) := by
  unfold pendRise; split
  · exact h
  · exact pend_ok now n h

theorem watchHold_ok {k : Cores} (now : Nat) (n : SrcId) (b : Bool) (h : CoresOk k) : CoresOk (watchHold now n b k) :=
  same_ok h rfl rfl rfl rfl

theorem claim_ok {k : Cores} (c : CoreId) (n : SrcId) (h : CoresOk k) : CoresOk (claim c n k) :=
  modCore_ok c (modSrc_ok n h fun _ => rfl) fun _ hx => hx

theorem endActive_ok {k : Cores} (e : Engine) (n : SrcId) (h : CoresOk k) : CoresOk (endActive e n k) :=
  whenC_ok _ (modSrc_ok n h fun _ => rfl) (pend_ok _ n (modSrc_ok n h fun _ => rfl))

theorem eoi_ok {k : Cores} (e : Engine) (c : CoreId) (v : Nat) (h : CoresOk k) : CoresOk (eoi e c v k) := by
  unfold eoi
  split
  · exact h
  · split
    · split
      · exact endActive_ok e _ (modCore_ok c h fun _ hx => hx)
      · exact modCore_ok c h fun _ hx => hx
    · exact modCore_ok c h fun _ hx => hx

theorem dropStack_ok {k : Cores} (e : Engine) (c : CoreId) (h : CoresOk k) : CoresOk (dropStack e c k) :=
  forCores_ok _ (modCore_ok c h fun _ hx => hx) fun n _ hk => endActive_ok e n hk

theorem low_high (x : BitVec 6) : x &&& 0x0F#6 &&& 0x30#6 = 0 := by
  rw [BitVec.and_assoc]; exact BitVec.and_zero

theorem high_low (x : BitVec 6) : x &&& 0x30#6 &&& 0x0F#6 = 0 := by
  rw [BitVec.and_assoc]; exact BitVec.and_zero

theorem setRoute_ok {k : Cores} (n : SrcId) (v : Dword) (h : CoresOk k) : CoresOk (setRoute n v k) :=
  { mem := h.mem, zero := h.zero, threads := h.threads
    routes := fun m => by
      show ((vmod k.src n _)[m.val]).targets &&& _ = 0
      rw [vmod_at]
      split
      · rename_i e
        subst e
        cases isUser n
        · exact low_high _
        · exact high_low _
      · exact h.routes m }

theorem setMask_ok {k : Cores} (b : Bool) (n : SrcId) (h : CoresOk k) : CoresOk (setMask b n k) :=
  modSrc_ok n h fun x => by
    split
    · rfl
    · split <;> rfl

theorem threadErr_ok {k : Cores} (t : ThreadId) (h : CoresOk k) : CoresOk (threadErr t k) := modThread_ok t h fun _ => rfl

theorem makeReady_ok {k : Cores} (t : ThreadId) (h : CoresOk k) : CoresOk (makeReady t k) := by
  have g := modThread_ok (f := fun x => { x with state := .ready, age := k.ages, call := .none }) t h fun _ => rfl
  exact same_ok g rfl rfl rfl rfl

/-- An affinity as it can be set names cores of the thread's own kind (R295). -/
theorem affinityOf_ok (t : ThreadId) (v : Dword) :
    affinityOf t v &&& (if 192 ≤ t.val then 0x0F#6 else 0x30#6) = 0 := by
  unfold affinityOf
  split
  · exact high_low _
  · exact low_high _

/-- Setting a thread's configuration to an affinity that it can have. -/
theorem setAffinity_ok {k : Cores} (t : ThreadId) (v : Dword) {f : Thread → Thread} (h : CoresOk k)
    (a : ∀ x : Thread, (f x).affinity = affinityOf t v) : CoresOk (modThread t f k) :=
  { mem := h.mem, zero := h.zero, routes := h.routes
    threads := fun u => by
      show ((vmod k.threads t f)[u.val]).affinity &&& _ = 0
      rw [vmod_at]
      split
      · rename_i e
        subst e
        rw [a]
        exact affinityOf_ok t v
      · exact h.threads u }

theorem puts_ok {k : Cores} (a : Nat) (bs : List Byte) (h : CoresOk k) :
    CoresOk { k with mem := memPuts k.mem a bs } := setMem_ok h (memPuts_wf h.mem) rfl rfl rfl

theorem saveContext_ok {k : Cores} (c : CoreId) (t : ThreadId) (b : Bool) (h : CoresOk k) :
    CoresOk (saveContext c t b k) := by
  unfold saveContext; dsimp only; split
  · exact puts_ok _ _ h
  · exact h

theorem fetchAt_ok {k : Cores} (c : CoreId) (h : CoresOk k) : CoresOk (fetchAt c k) := by
  unfold fetchAt
  dsimp only
  split
  · exact h
  · exact takeTrap_ok c _ _ h

theorem restoreContext_ok {k : Cores} (c : CoreId) (t : ThreadId) (h : CoresOk k) : CoresOk (restoreContext c t k) :=
  fetchAt_ok c (modThread_ok t (modCore_ok c h fun _ _ => by simp) fun _ => rfl)

theorem setThreadX_ok {k : Cores} (t : ThreadId) (r : Fin 32) (v : Dword) (h : CoresOk k) :
    CoresOk (setThreadX t r v k) := by
  unfold setThreadX; split
  · exact setX_ok _ r v h
  · dsimp only; split
    · exact puts_ok _ _ h
    · exact h

theorem takeFlags_ok {k : Cores} (t : ThreadId) (h : CoresOk k) : CoresOk (takeFlags t k) := by
  unfold takeFlags
  dsimp only
  have h1 : CoresOk (modThread t (fun x => { x with
      got := (k.th t).flags &&& (k.th t).mask
      flags := if x.keep then x.flags else x.flags &&& ~~~x.mask }) k) := modThread_ok t h fun _ => rfl
  split
  · exact whenC_ok _ (puts_ok _ _ h1) (setThreadX_ok t 11 _ (puts_ok _ _ h1))
  · exact whenC_ok _ h1 (setThreadX_ok t 11 _ h1)

theorem checkWait_ok {k : Cores} (t : ThreadId) (h : CoresOk k) : CoresOk (checkWait t k) := by
  unfold checkWait; split
  · exact makeReady_ok t (same_ok (takeFlags_ok t h) rfl rfl rfl rfl)
  · exact h

theorem setFlags_ok {k : Cores} (t : ThreadId) (v : Dword) (h : CoresOk k) : CoresOk (setFlags t v k) :=
  checkWait_ok t (modThread_ok t h fun _ => rfl)

theorem leaveCore_ok {k : Cores} (t : ThreadId) (b : Bool) (h : CoresOk k) : CoresOk (leaveCore t b k) :=
  forCores_ok _ h fun c _ hk => modCore_ok c hk fun x hx => by
    split
    · exact hx
    · exact hx

theorem startThread_ok {k : Cores} (t : ThreadId) (h : CoresOk k) : CoresOk (startThread t k) := by
  unfold startThread; split
  · exact makeReady_ok t h
  · exact threadErr_ok t h

theorem unsave_ok {k : Cores} (t : ThreadId) (h : CoresOk k) :
    CoresOk (forCores (allFin 6) (fun c => modCore c fun x =>
      if x.unsaved == some t then { x with unsaved := none } else x) k) :=
  forCores_ok _ h fun c _ hk => modCore_ok c hk fun x hx => by
    split
    · exact hx
    · exact hx

theorem dormant_ok {k : Cores} (t : ThreadId) (h : CoresOk k) :
    CoresOk { modThread t (fun x => { x with state := .dormant, call := .none, copy := none }) k with
      timers := k.timers.filter fun y => y.thread != t } := by
  have g := modThread_ok (f := fun x => { x with state := .dormant, call := .none, copy := none }) t h fun _ => rfl
  exact same_ok g rfl rfl rfl rfl

theorem stopThread_ok {k : Cores} (t : ThreadId) (h : CoresOk k) : CoresOk (stopThread t k) := by
  unfold stopThread; split
  · exact threadErr_ok t h
  · refine dormant_ok t (unsave_ok t (leaveCore_ok t false ?_))
    split
    · exact whenC_ok _ h (saveContext_ok _ t false h)
    · exact h

theorem waitThread_ok {k : Cores} (c : CoreId) (t : ThreadId) (m : Dword) (h : CoresOk k) :
    CoresOk (waitThread c t m k) := by
  unfold waitThread; split
  · exact threadErr_ok t h
  · dsimp only
    have h1 : CoresOk (modThread t (fun x => { x with mask := m }) k) := modThread_ok t h fun _ => rfl
    split
    · exact takeFlags_ok t h1
    · exact leaveCore_ok t true (modThread_ok t h1 fun _ => rfl)

theorem switchTail_ok {k : Cores} (c : CoreId) (t : ThreadId) (h : CoresOk k) :
    CoresOk (if k.ctxValid t then restoreContext c t k
      else modCore c (fun x => { x with noThread := x.run.isNone })
        (threadErr t (modThread t (fun x => { x with state := .dormant }) k))) := by
  split
  · exact restoreContext_ok c t h
  · exact modCore_ok c (threadErr_ok t (modThread_ok t h fun _ => rfl)) fun _ hx => hx

theorem switchTo_ok {k : Cores} (c : CoreId) (next : Option ThreadId) (h : CoresOk k) :
    CoresOk (match next with
      | none => if (k.at c).run.isNone then modCore c (fun x => { x with noThread := true }) k else k
      | some t =>
        let k := match (k.at c).run with
          | some old => makeReady old (modCore c (fun x => { x with run := none }) (saveContext c old true k))
          | none => k
        if k.ctxValid t then restoreContext c t k
        else modCore c (fun x => { x with noThread := x.run.isNone })
          (threadErr t (modThread t (fun x => { x with state := .dormant }) k))) := by
  cases next with
  | none =>
    dsimp only
    split
    · exact modCore_ok c h fun _ hx => hx
    · exact h
  | some t =>
    refine switchTail_ok c t ?_
    split
    · exact makeReady_ok _ (modCore_ok c (saveContext_ok c _ true h) fun _ hx => hx)
    · exact h

theorem switchCore_ok {k : Cores} (e : Engine) (c : CoreId) (h : CoresOk k) : CoresOk (switchCore e c k) := by
  refine switchTo_ok c _ ?_
  split
  · exact modCore_ok c (saveContext_ok c _ true h) fun _ hx => hx
  · exact h

theorem serveAttached_ok {k : Cores} (e : Engine) (n : SrcId) (h : CoresOk k) : CoresOk (serveAttached e n k) := by
  unfold serveAttached; split
  · exact h
  · dsimp only; split
    · exact h
    · exact eoi_ok e _ _ (setMask_ok true n (setFlags_ok _ _ (modCore_ok _ (claim_ok _ n (handledTrap_ok _ _ _ h)) fun _ hx => hx)))

theorem endWfi_ok {k : Cores} (e : Engine) (c : CoreId) (h : CoresOk k) : CoresOk (endWfi e c k) := by
  unfold endWfi; split
  · exact modCore_ok c h fun _ hx => hx
  · exact h

theorem programTimer_ok {k : Cores} (c : CoreId) (h : CoresOk k) : CoresOk (programTimer c k) := by
  unfold programTimer; split
  · exact h
  · exact modCore_ok c h fun _ hx => hx

/-- What follows a change in the CIC or the dispatcher keeps the cluster's form. -/
theorem settleCores_ok {k : Cores} (e : Engine) (h : CoresOk k) : CoresOk (settleCores e k) :=
  forCores_ok _ (forCores_ok _ (forCores_ok _ h fun n _ hk => serveAttached_ok e n hk) fun c _ hk => endWfi_ok e c hk)
    fun c _ hk => programTimer_ok c hk

theorem resetThread_ok {k : Cores} (t : ThreadId) (h : CoresOk k) : CoresOk (resetThread t k) := by
  have l := leaveCore_ok t false h
  refine same_ok (k := modThread t (fun _ => {}) (leaveCore t false k)) ?_ rfl rfl rfl rfl
  exact { mem := l.mem, zero := l.zero, routes := l.routes
          threads := fun u => by
            show ((vmod (leaveCore t false k).threads t _)[u.val]).affinity &&& _ = 0
            rw [vmod_at]
            split
            · exact BitVec.zero_and
            · exact l.threads u }

theorem and_sub {x m y : BitVec 6} (h : x &&& m = 0) : x &&& y &&& m = 0 := by
  rw [BitVec.and_assoc, BitVec.and_comm y m, ← BitVec.and_assoc, h]
  exact BitVec.zero_and

theorem stopCore_ok {k : Cores} (e : Engine) (c : CoreId) (h : CoresOk k) : CoresOk (stopCore e c k) := by
  unfold stopCore
  dsimp only
  refine modCore_ok c (dropStack_ok e c ?_) fun _ hx => hx
  have h1 : CoresOk (match (k.at c).run with
      | some t => modThread t (fun x => { x with state := .dormant }) k
      | none => k) := by
    split
    · exact modThread_ok _ h fun _ => rfl
    · exact h
  have h2 := forCores_ok ((allFin 256).filter (ownedBy c)) h1 fun t _ hk => resetThread_ok t hk
  exact { mem := h2.mem, zero := h2.zero, threads := h2.threads
          routes := fun n => by
            simp only [Cores.s, Vector.getElem_map]
            exact and_sub (h2.routes n) }

theorem restartCores_ok {k : Cores} (e : Engine) (h : CoresOk k) : CoresOk (restartCores e k) :=
  forCores_ok _ h fun c _ hk => dropStack_ok e c hk

/-- The cluster at its reset values, with the memory kept but for L2 bank 7. -/
theorem resetCores_ok {k : Cores} (h : CoresOk k) : CoresOk (resetCores k) where
  mem := memZero_wf h.mem
  zero c := by
    simp only [resetCores, Cores.at, Vector.getElem_replicate]
  routes n := by
    simp only [resetCores, Cores.s, Vector.getElem_replicate]
    exact BitVec.zero_and
  threads t := by
    simp only [resetCores, Cores.th, Vector.getElem_replicate]
    exact BitVec.zero_and

theorem watch_ok {k : Cores} (p : BitVec 64) (c : Vector Byte 64) (f : Vector (Option Nat) 64) (w : BitVec 64)
    (h : CoresOk k) : CoresOk { k with wPend := p, wCount := c, wFirst := f, wHot := w } := same_ok h rfl rfl rfl rfl

theorem handOver_ok {k : Cores} (h : CoresOk k) : CoresOk (handOver k) := by
  unfold handOver
  dsimp only
  exact watch_ok _ _ _ _ (forCores_ok _ h fun n _ hk => modSrc_ok n hk fun _ => rfl)

theorem loseL2_ok {k : Cores} (keep : BitVec 10) (h : CoresOk k) : CoresOk (loseL2 keep k) :=
  setMem_ok h (loseL2_wf h.mem) rfl rfl rfl

end Sys2Proof.Machine
end

