-- ==== Sys2Proof/Laws/Tree.lean ====
section
/-! SUPPORT. What firmware's upkeep of the tree can do beside the command it follows: `treeWork` leaves every part of
`Engine.busRest` as the command made it. -/

namespace Sys2Proof.Machine

@[simp] theorem modCommons_busRest (f : Commons → Commons) (e : Engine) : (modCommons f e).busRest = e.busRest := rfl

@[simp] theorem newId_busRest (e : Engine) : (newId e).2.busRest = e.busRest := rfl

@[simp] theorem freshValue_busRest (e : Engine) : (freshValue e).2.busRest = e.busRest := rfl

@[simp] theorem modHold_busRest (h : Fn) (f : Holding → Holding) (e : Engine) : (modHold h f e).busRest = e.busRest := rfl

@[simp] theorem hostWrite_busRest (h : Fn) (a : Qword) (d : List Byte) (r : Bool) (e : Engine) :
    (hostWrite h a d r e).busRest = e.busRest := busRest_of_rest (hostWrite_rest ..)

@[simp] theorem finishWaiting_busRest (p : Running → Bool) (st : Byte) (d : Dword) (data : List Byte) (w : Bool)
    (e : Engine) : (finishWaiting p st d data w e).busRest = e.busRest := busRest_of_rest (finishWaiting_rest ..)

@[simp] theorem shadow_busRest (r : ShadowRecord) (e : Engine) : (shadow r e).busRest = e.busRest :=
  busRest_of_rest (shadow_rest ..)

@[simp] theorem mirror_busRest (c : CommonsChange) (e : Engine) : (mirror c e).busRest = e.busRest :=
  busRest_of_rest (mirror_rest ..)

@[simp] theorem addXfer_busRest (p : PortId) (d : DevNum) (r : Dword) (n : Nat) (s : BitVec 96) (o : List Byte)
    (u : Purpose) (e : Engine) : (addXfer p d r n s o u e).busRest = e.busRest := rfl

@[simp] theorem addXferTo_busRest (d : DevNum) (s : BitVec 96) (o : List Byte) (u : Purpose) (e : Engine) :
    (addXferTo d s o u e).busRest = e.busRest := by
  unfold addXferTo; split
  · rfl
  · exact addXfer_busRest ..

@[simp] theorem dropXfer_busRest (id : Nat) (e : Engine) : (dropXfer id e).busRest = e.busRest := rfl

@[simp] theorem plantXfer_busRest (l : PlantedList) (u : Purpose) (e : Engine) : (plantXfer l u e).busRest = e.busRest :=
  addXferTo_busRest ..

@[simp] theorem clearXfer_busRest (hub : DevNum) (v : Nat) (e : Engine) : (clearXfer hub v e).busRest = e.busRest :=
  addXferTo_busRest ..

@[simp] theorem recordList_busRest (l : PlantedList) (e : Engine) : (recordList l e).busRest = e.busRest := by
  unfold recordList; rw [shadow_busRest, modCommons_busRest]

@[simp] theorem clearLists_busRest (q : PlantedList → Bool) (g : BitVec 48) (e : Engine) :
    (clearLists q g e).busRest = e.busRest := by
  unfold clearLists
  dsimp only
  rw [forAll_keeps Engine.busRest _ _ _ fun l e => by rw [shadow_busRest, clearXfer_busRest]]
  rfl

theorem publishSlot_busRest (h : Fn) (slot : Nat) (e : Engine) : (publishSlot h slot e).busRest = e.busRest := by
  unfold publishSlot; split
  · rfl
  · dsimp only; split
    · exact hostWrite_busRest ..
    · simp only [hostWrite_busRest, modHold_busRest, freshValue_busRest]

@[simp] theorem publish_busRest (h : Fn) (phase interval : Nat) (e : Engine) :
    (publish h phase interval e).busRest = e.busRest :=
  forAll_keeps Engine.busRest _ _ e fun x e => publishSlot_busRest h x e

theorem makeList_busRest {h : Fn} {n : Nat} {hub : DevNum} {es : List Qword} {e e' : Engine} {l : PlantedList}
    (m : makeList h n hub es e = some (l, e')) : e'.busRest = e.busRest := by
  unfold makeList at m
  split at m
  · cases m
  · simp only [Option.some.injEq, Prod.mk.injEq] at m
    rw [← m.2, recordList_busRest, hostWrite_busRest, freshValue_busRest]

/-- A folded step that can fail keeps, while it succeeds, what each of its steps keeps. -/
theorem foldl_option_keeps {σ α γ : Type} (p : σ → γ) (f : Option σ → α → Option σ) (none_ : ∀ x, f none x = none)
    (some_ : ∀ s x t, f (some s) x = some t → p t = p s) (l : List α) (s t : σ)
    (h : l.foldl f (some s) = some t) : p t = p s := by
  induction l generalizing s with
  | nil => cases h; rfl
  | cons x xs ih =>
    rw [List.foldl_cons] at h
    match hx : f (some s) x with
    | none =>
      rw [hx] at h
      have stuck : ∀ ys : List α, ys.foldl f none = none := by
        intro ys
        induction ys with
        | nil => rfl
        | cons y ys ih => rw [List.foldl_cons, none_, ih]
      rw [stuck] at h
      cases h
    | some u =>
      rw [hx] at h
      rw [ih u h, some_ s x u hx]

theorem makeLists_busRest {h : Fn} {n : Nat} {hub : DevNum} {ls : List (List Qword)} {e e' : Engine} {t : Tops}
    (m : makeLists h n hub ls e = some (t, e')) : e'.busRest = e.busRest := by
  refine foldl_option_keeps (fun x : Tops × Engine => x.2.busRest) _ (fun _ => rfl) ?_ ls ([], e) (t, e') m
  rintro ⟨done, e⟩ x t hx
  dsimp only at hx
  cases hm : makeList h n hub x e with
  | none => simp [hm] at hx
  | some y =>
    simp only [hm, Option.map_some, Option.some.injEq] at hx
    rw [← hx]
    exact makeList_busRest (l := y.1) (e' := y.2) hm

theorem stripeHub_busRest {h : Fn} {n : Nat} {hub : DevNum} {a b : Tops × List PlantedList × Engine}
    (m : stripeHub h n (some a) hub = some b) : b.2.2.busRest = a.2.2.busRest := by
  obtain ⟨tops, all, e⟩ := a
  unfold stripeHub at m
  dsimp only at m
  split at m
  · simp only [Option.some.injEq] at m; rw [← m]
  · split at m
    · simp only [Option.some.injEq] at m; rw [← m]
    · rw [Option.map_eq_some_iff] at m
      obtain ⟨⟨t, e1⟩, hx, hb⟩ := m
      rw [← hb]
      exact makeLists_busRest hx

theorem buildGroup_busRest {h : Fn} {n : Nat} {g : ReapGroup} {e e' : Engine}
    {tops : List (DevNum × Nat)} {ls : List PlantedList}
    (b : buildGroup h n g e = some (tops, ls, e')) : e'.busRest = e.busRest := by
  unfold buildGroup at b
  dsimp only at b
  split at b
  · cases b
  · rename_i t e1 h1
    rw [Option.map_eq_some_iff] at b
    obtain ⟨⟨ts, all, x⟩, hx, hb⟩ := b
    simp only [Prod.mk.injEq] at hb
    rw [← hb.2.2]
    have k2 : x.busRest = e1.busRest :=
      foldl_option_keeps (fun y : Tops × List PlantedList × Engine => y.2.2.busRest) _ (fun _ => rfl)
        (fun _ _ _ hs => stripeHub_busRest hs) _ _ _ hx
    rw [k2]
    refine foldl_option_keeps (fun y : Tops × Engine => y.2.busRest) _ (fun _ => rfl) ?_ _ _ _ h1
    rintro ⟨ts, e1⟩ hub ⟨ts', e2⟩ hs
    dsimp only at hs
    rw [Option.map_eq_some_iff] at hs
    obtain ⟨⟨t, e3⟩, hx, hb⟩ := hs
    simp only [Prod.mk.injEq] at hb
    rw [← hb.2]
    exact makeLists_busRest hx

theorem placeTops_busRest (h : Fn) (n interval : Nat) (l : List (DevNum × Nat)) (e e' : Engine)
    (p : placeTops h n interval l e = some e') : e'.busRest = e.busRest := by
  induction l generalizing e with
  | nil => cases p; rfl
  | cons x rest ih =>
    obtain ⟨hub, li⟩ := x
    unfold placeTops at p
    split at p
    · dsimp only at p
      split at p
      · cases p
      · rw [ih _ p, modHold_busRest]
    · cases p

@[simp] theorem plantGroup_busRest (ls : List PlantedList) (e : Engine) : (plantGroup ls e).busRest = e.busRest :=
  forAll_keeps Engine.busRest _ _ e fun _ _ => plantXfer_busRest ..

@[simp] theorem groupPlanted_busRest (h : Fn) (n : Nat) (e : Engine) : (groupPlanted h n e).busRest = e.busRest := by
  unfold groupPlanted
  split
  · rfl
  · dsimp only
    split
    · rename_i e1 h1
      rw [finishWaiting_busRest, clearLists_busRest, publish_busRest, modHold_busRest, placeTops_busRest _ _ _ _ _ _ h1,
        modHold_busRest]
    · rw [finishWaiting_busRest]
      split
      · rw [modHold_busRest, clearLists_busRest, modHold_busRest]
      · rw [clearLists_busRest, modHold_busRest]

@[simp] theorem groupFailed_busRest (h : Fn) (n : Nat) (st : Byte) (d : Dword) (e : Engine) :
    (groupFailed h n st d e).busRest = e.busRest := by
  unfold groupFailed
  split
  · rfl
  · dsimp only
    rw [finishWaiting_busRest]
    split
    · rw [modHold_busRest, clearLists_busRest, modHold_busRest]
    · rw [clearLists_busRest, modHold_busRest]

@[simp] theorem groupPlant_busRest (l : PlantedList) (good : Bool) (st : Byte) (e : Engine) :
    (groupPlant l good st e).busRest = e.busRest := by
  unfold groupPlant
  split
  · rfl
  · split
    · rfl
    · split
      · rfl
      · split
        · dsimp only
          split
          · rw [groupPlanted_busRest, modHold_busRest]
          · rw [modHold_busRest]
        · exact groupFailed_busRest ..

@[simp] theorem readTableOf_busRest (d : DevNum) (e : Engine) : (readTableOf d e).busRest = e.busRest := by
  unfold readTableOf; split
  · rfl
  · exact addXferTo_busRest ..

@[simp] theorem readTables_busRest (l : List DevNum) (e : Engine) : (forAll l readTableOf e).busRest = e.busRest :=
  forAll_keeps Engine.busRest _ _ e fun d e => readTableOf_busRest d e

@[simp] theorem startGroup_busRest (h : Fn) (n : Nat) (e : Engine) : (startGroup h n e).busRest = e.busRest := by
  unfold startGroup
  split
  · rfl
  · dsimp only
    split
    · rw [readTables_busRest, modHold_busRest, clearLists_busRest]
    · split
      · rw [groupFailed_busRest, modHold_busRest, clearLists_busRest]
      · split
        · rw [groupFailed_busRest, modHold_busRest, clearLists_busRest]
        · rename_i tops ls e1 hb
          have := buildGroup_busRest hb
          split
          · rw [groupPlanted_busRest, modHold_busRest, this, modHold_busRest, clearLists_busRest]
          · rw [plantGroup_busRest, modHold_busRest, this, modHold_busRest, clearLists_busRest]

@[simp] theorem sweepPlants_busRest (e : Engine) : (sweepPlants e).busRest = e.busRest :=
  forAll_keeps Engine.busRest _ _ e fun x e => by
    split
    · rw [groupPlant_busRest, dropXfer_busRest]
    · rfl

@[simp] theorem rebuildGroups_busRest (before e : Engine) : (rebuildGroups before e).busRest = e.busRest := by
  unfold rebuildGroups
  split
  · rfl
  · refine forAll_keeps Engine.busRest _ _ e fun h e => forAll_keeps Engine.busRest _ _ e fun x e => ?_
    dsimp only
    split
    · exact readTables_busRest ..
    · split
      · exact startGroup_busRest ..
      · rfl

@[simp] theorem mirrorDevs_busRest (before e : Engine) : (mirrorDevs before e).busRest = e.busRest := by
  unfold mirrorDevs
  dsimp only
  split
  · rfl
  · rw [forAll_keeps Engine.busRest _ _ _ fun _ _ => mirror_busRest .., forAll_keeps Engine.busRest _ _ _ fun _ _ => mirror_busRest ..]

/-- The upkeep of the tree that follows a command changes none of these parts. -/
@[simp] theorem treeWork_busRest (f : Engine → Engine) (e : Engine) : (treeWork f e).busRest = (f e).busRest := by
  unfold treeWork
  rw [mirrorDevs_busRest, rebuildGroups_busRest, sweepPlants_busRest]

/-- A command that leaves the hub tables alone, with no plant of a group ended, has no upkeep after it. -/
theorem treeWork_quiet (f : Engine → Engine) (e : Engine) (devs : (f e).commons.devs = e.commons.devs)
    (xfers : (f e).commons.xfers.all fun x => x.result.isNone) : treeWork f e = f e := by
  have none_ : sweepPlants (f e) = f e := by
    refine (?_ : forAll _ _ (f e) = f e)
    have stay : ∀ (l : List Xfer) (g : Xfer → Engine → Engine), l = [] → forAll l g (f e) = f e := by
      rintro _ _ rfl; rfl
    apply stay
    rw [List.filter_eq_nil_iff]
    intro x hx
    have := List.all_eq_true.mp xfers x hx
    cases hr : x.result
    · split <;> simp
    · simp [hr] at this
  unfold treeWork
  rw [none_]
  simp [rebuildGroups, mirrorDevs, devs]

end Sys2Proof.Machine
end

