-- ==== Sys2Proof/Certificates/Slice0/Obligations.lean ====
section
/-! DEFINITION. The statements about the QG9208 block. In `Sys2Proof.Claim` each command has its hypotheses, a predicate on
the state and the operands that can be decided (`<command>Ok`), and its claim; `Obligations.<Name>` gathers the claims of a
family. In every claim `after s src` is the engine once firmware has taken the command off its source. -/

namespace Sys2Proof.Claim

open Sys2Proof.Machine Sys2Proof.Safety

/-- The engine once firmware has taken an admin command off its source (R178, R204). -/
abbrev after (s : State) (src : AdminSrc) : Engine := takeCommand src s.eng

/-- The engine once firmware, having taken a command, has read `n` bytes at `a` for the holding `h` (R204, R234). -/
abbrev having (h : Fn) (a : Qword) (n : Nat) (t : ReadTag) (s : State) (src : AdminSrc) : Engine :=
  readNow h a n t (after s src)

/-- The holding that a command issues for or names, as it stands then. -/
abbrev own (s : State) (src : AdminSrc) : Holding := (after s src).hold src.fn

/-- A holding with an SQ stored under a number. -/
abbrev withSq (n : Nat) (q : Sq) (x : Holding) : Holding := { x with sqs := mput x.sqs n q }

/-- A holding with a CQ stored under a number. -/
abbrev withCq (n : Nat) (q : Cq) (x : Holding) : Holding := { x with cqs := mput x.cqs n q }

/-- A holding with a sheaf ring stored under a number. -/
abbrev withRing (n : Nat) (r : SheafRing) (x : Holding) : Holding := { x with rings := mput x.rings n r }

/-- A function's MSI-X table with an entry stored under a vector. -/
abbrev withVector (n : Nat) (m : MsixEntry) (x : FnPcie) : FnPcie := { x with msix := mput x.msix n m }

/-! ## IDENTIFY, QUICK START and undefined opcodes -/

/-- IDENTIFY is well formed. -/
abbrev identifyOk (s : State) (src : AdminSrc) (c : BitVec 512) : Prop :=
  Taken s src c 0x01 false [(32, 0, 8)] ∧ cf c 32 0 8 ≤ 1

/-- IDENTIFY (R219, R221) answers 0x80 with the controller data (CNS 0) or the issuing holding's (CNS 1), its length in
dword2, and has no other effect; it runs although the holding is in reset (R241). -/
def identify : Prop := ∀ s src c, identifyOk s src c →
  (cf c 32 0 8 = 0 → exec (.identify src) s =
    .next (answered s src c 0x80 (BitVec.ofNat 32 (identifyController (after s src)).length) (identifyController (after s src))
      (after s src))) ∧
  (cf c 32 0 8 = 1 → exec (.identify src) s =
    .next (answered s src c 0x80 (BitVec.ofNat 32 (identifyFunction src.fn (after s src)).length)
      (identifyFunction src.fn (after s src)) (after s src)))

/-- QUICK START may create SQ 1 and CQ 1. -/
abbrev quickStartOk (s : State) (src : AdminSrc) (c : BitVec 512) : Prop :=
  Taken s src c 0x02 false [(32, 0, 64), (40, 0, 64)] ∧ Idle s src ∧ src.isMailbox = true ∧ cf c 32 0 12 = 0
    ∧ 196624 ≤ cf c 40 0 64 ∧ (after s src).frozen src.fn = false
    ∧ mhas (own s src).sqs 1 = false ∧ mhas (own s src).cqs 1 = false
    ∧ (after s src).sqShort src.fn = false ∧ (after s src).cqShort src.fn = false
    ∧ (after s src).creditsShort src.fn 0 65536 = false

/-- QUICK START (R170) creates CQ 1 (4,096 entries at offset 131,072, release word at 196,616, messages on vector 1 by 16
completions or 50 us) and SQ 1 (4,096 units at offset 0, head mirror at 196,608, poll exponent 2, ceiling 12). -/
def quickStart : Prop := ∀ s src c, quickStartOk s src c →
  exec (.quickStart src) s = .next (answered s src c 0x80 0 []
    (shadow (.sq src.fn 1 (some { base := fld c 256 64, size := 4096, cq := 1, headMirror := fld c 256 64 + 196608,
                                  kb := 2, kc := 12 }))
      (modHold src.fn (withSq 1
          { par := { base := fld c 256 64, size := 4096, cq := 1, headMirror := fld c 256 64 + 196608, kb := 2, kc := 12 },
            k := 2 })
        (shadow (.cq src.fn 1 (some { base := fld c 256 64 + 131072, size := 4096, release := fld c 256 64 + 196616,
                                      ien := true, vector := 1, modCount := 16, modTime := 50 }))
          (modHold src.fn (withCq 1
              { par := { base := fld c 256 64 + 131072, size := 4096, release := fld c 256 64 + 196616, ien := true,
                         vector := 1, modCount := 16, modTime := 50 } })
            (after s src))))))

/-- A command of an opcode that interface 3.2 does not define is taken. -/
abbrev undefinedAdminOpcodeOk (s : State) (src : AdminSrc) (c : BitVec 512) : Prop :=
  s.eng.command src = some c ∧ s.eng.fwRuns = true ∧ s.eng.fw.noImage = false ∧ s.eng.mayStart src c = true
    ∧ definedOpcodes.contains (cOp c) = false

/-- It completes with 0x81 and does nothing else (R1). -/
def undefinedAdminOpcode : Prop := ∀ s src c, undefinedAdminOpcodeOk s src c →
  exec (.undefinedAdminOpcode src) s = .next (answered s src c 0x81 0 [] (after s src))

/-! ## Submission queues -/

/-- CREATE SQ names a new SQ with parameters in range, within the quota and the credits. -/
abbrev createSqOk (s : State) (src : AdminSrc) (c : BitVec 512) : Prop :=
  Taken s src c 0x04 false [(32, 0, 64), (40, 0, 32), (44, 0, 16), (46, 0, 16), (48, 0, 64), (56, 0, 5), (57, 0, 5)]
    ∧ Idle s src ∧ cf c 44 0 16 ≤ 4095 ∧ (fld c 256 64).toNat % 4096 = 0 ∧ isPow2 (cf c 40 0 32) = true ∧ 64 ≤ cf c 40 0 32
    ∧ cf c 40 0 32 ≤ 1048576 ∧ (fld c 384 64).toNat % 8 = 0 ∧ cf c 56 0 5 ≤ 18 ∧ cf c 56 0 5 ≤ cf c 57 0 5 ∧ cf c 57 0 5 ≤ 18
    ∧ mhas (own s src).ownCqs (cf c 46 0 16) = true ∧ (cf c 44 0 16 = 0 → cf c 46 0 16 = 0 ∧ src.isMailbox = true)
    ∧ (after s src).frozen src.fn = false ∧ mhas (own s src).sqs (cf c 44 0 16) = false
    ∧ (after s src).sqShort src.fn = false ∧ (after s src).creditsShort src.fn 0 (2 ^ (18 - cf c 56 0 5)) = false

/-- CREATE SQ (R168, R181): the SQ exists, ENABLED, its head at unit 0 expecting phase 1, polled at its base exponent; the
answer carries its cost in poll credits. -/
def createSq : Prop := ∀ s src c, createSqOk s src c →
  exec (.createSq src) s = .next (answered s src c 0x80 (BitVec.ofNat 32 (2 ^ (18 - cf c 56 0 5))) []
    (shadow (.sq src.fn (cf c 44 0 16) (some (cSqParams c)))
      (modHold src.fn (withSq (cf c 44 0 16)
        { par := cSqParams c, state := .enabled, head := { at_ := 0, phase := true }, next := { at_ := 0, phase := true },
          k := cf c 56 0 5 }) (after s src))))

/-- DELETE SQ names an SQ that is DISABLED with no started entry unwritten. -/
abbrev deleteSqOk (s : State) (src : AdminSrc) (c : BitVec 512) (q : Sq) : Prop :=
  Taken s src c 0x05 false [(44, 0, 16)] ∧ Idle s src ∧ cf c 44 0 16 < 4096
    ∧ mget (own s src).sqs (cf c 44 0 16) = some q ∧ (after s src).frozen src.fn = false
    ∧ (cf c 44 0 16 = 0 → src.isMailbox = true) ∧ q.state = .disabled
    ∧ (after s src).sqBusy src.fn (cf c 44 0 16) = false

/-- DELETE SQ (R169): the SQ is gone; the answer carries the credits that it gives back. -/
def deleteSq : Prop := ∀ s src c q, deleteSqOk s src c q →
  exec (.deleteSq src) s = .next (answered s src c 0x80 (BitVec.ofNat 32 (2 ^ (18 - q.par.kb))) []
    (shadow (.sq src.fn (cf c 44 0 16) none)
      (modHold src.fn (fun x => { x with sqs := mdel x.sqs (cf c 44 0 16) }) (after s src))))

/-- DISABLE SQ names an SQ that is not STOPPING. -/
abbrev disableSqOk (s : State) (src : AdminSrc) (c : BitVec 512) (q : Sq) : Prop :=
  Taken s src c 0x08 false [(44, 0, 16)] ∧ Idle s src ∧ cf c 44 0 16 < 4096
    ∧ mget (own s src).sqs (cf c 44 0 16) = some q ∧ (after s src).frozen src.fn = false
    ∧ (cf c 44 0 16 = 0 → src.isMailbox = true) ∧ q.state ≠ .stopping

/-- What DISABLE SQ does first to an ENABLED SQ: the discard of R197, then the head mirror (R196). -/
def quiet (s : State) (src : AdminSrc) (n : Nat) (q : Sq) : Engine :=
  if q.state = .enabled then writeMirror src.fn n (discard src.fn n (after s src)) else after s src

/-- DISABLE SQ (R196): with no started entry unwritten the SQ is DISABLED and the command answers 0x80; otherwise it is
STOPPING and the command waits until it is DISABLED. -/
def disableSq : Prop := ∀ s src c q, disableSqOk s src c q →
  ((quiet s src (cf c 44 0 16) q).sqBusy src.fn (cf c 44 0 16) = false → exec (.disableSq src) s =
    .next (answered s src c 0x80 0 []
      (modSq src.fn (cf c 44 0 16) (fun q => { q with state := .disabled }) (quiet s src (cf c 44 0 16) q)))) ∧
  ((quiet s src (cf c 44 0 16) q).sqBusy src.fn (cf c 44 0 16) = true → exec (.disableSq src) s =
    .next (waiting s src c (.sqDisabled src.fn (cf c 44 0 16))
      (modSq src.fn (cf c 44 0 16) (fun q => { q with state := .stopping }) (quiet s src (cf c 44 0 16) q))))

/-- ENABLE SQ names a DISABLED SQ, with no started entry unwritten where it asks for RESTART. -/
abbrev enableSqOk (s : State) (src : AdminSrc) (c : BitVec 512) (q : Sq) : Prop :=
  Taken s src c 0x09 false [(44, 0, 16), (48, 0, 1)] ∧ Idle s src ∧ cf c 44 0 16 < 4096
    ∧ mget (own s src).sqs (cf c 44 0 16) = some q ∧ (after s src).frozen src.fn = false
    ∧ (cf c 44 0 16 = 0 → src.isMailbox = true) ∧ q.state = .disabled
    ∧ (cf c 48 0 1 = 1 → (after s src).sqBusy src.fn (cf c 44 0 16) = false)

/-- ENABLE SQ (R196, R198): polling resumes at the published head, which dword2 carries. -/
def enableSq : Prop := ∀ s src c q, enableSqOk s src c q →
  (cf c 48 0 1 = 0 → exec (.enableSq src) s = .next (answered s src c 0x80 (BitVec.ofNat 32 (ringForm q.head)) []
    (modSq src.fn (cf c 44 0 16) (fun q => { q with state := .enabled, next := q.head, seen := [], k := q.par.kb })
      (after s src)))) ∧
  (cf c 48 0 1 = 1 → exec (.enableSq src) s = .next (answered s src c 0x80 (BitVec.ofNat 32 (2 ^ 31)) []
    (writeMirror src.fn (cf c 44 0 16) (modSq src.fn (cf c 44 0 16) (fun q => { q with
      state := .enabled, head := { at_ := 0, phase := true }, next := { at_ := 0, phase := true }, seen := [],
      k := q.par.kb }) (after s src)))))

/-- RECALL SQ names an SQ. -/
abbrev recallSqOk (s : State) (src : AdminSrc) (c : BitVec 512) (q : Sq) : Prop :=
  Taken s src c 0x0A false [(44, 0, 16)] ∧ Idle s src ∧ cf c 44 0 16 < 4096
    ∧ mget (own s src).sqs (cf c 44 0 16) = some q ∧ (after s src).frozen src.fn = false
    ∧ (cf c 44 0 16 = 0 → src.isMailbox = true)

/-- RECALL SQ (R196, R197): the cached entries of an ENABLED SQ are dropped, the SQ is DISABLED and its mirror written; dword2
holds the head's unit and how many entries were dropped. An SQ that is not ENABLED keeps its state. -/
def recallSq : Prop := ∀ s src c q, recallSqOk s src c q →
  (q.state = .enabled → exec (.recallSq src) s =
    .next (answered s src c 0x80 (BitVec.ofNat 32 (q.head.at_ + 1048576 * q.cached.length)) []
      (writeMirror src.fn (cf c 44 0 16) (modSq src.fn (cf c 44 0 16) (fun q => { q with state := .disabled })
        (discard src.fn (cf c 44 0 16) (after s src)))))) ∧
  (q.state ≠ .enabled → exec (.recallSq src) s = .next (answered s src c 0x80 (BitVec.ofNat 32 q.head.at_) [] (after s src)))

/-- SET POLL names an SQ that is not STOPPING, with exponents in range that the credits allow. -/
abbrev setPollOk (s : State) (src : AdminSrc) (c : BitVec 512) (q : Sq) : Prop :=
  Taken s src c 0x0B false [(44, 0, 16), (56, 0, 8), (57, 0, 8)] ∧ Idle s src ∧ cf c 44 0 16 < 4096
    ∧ mget (own s src).sqs (cf c 44 0 16) = some q ∧ (after s src).frozen src.fn = false ∧ q.state ≠ .stopping
    ∧ cf c 56 0 8 ≤ 18 ∧ cf c 56 0 8 ≤ cf c 57 0 8 ∧ cf c 57 0 8 ≤ 18
    ∧ (after s src).creditsShort src.fn (sqCost q.par.kb) (sqCost (cf c 56 0 8)) = false

/-- SET POLL (R180, R181): the SQ has the new base exponent, at which it is polled from now on, and ceiling; dword2 is its
new cost. -/
def setPoll : Prop := ∀ s src c q, setPollOk s src c q →
  exec (.setPoll src) s = .next (answered s src c 0x80 (BitVec.ofNat 32 (2 ^ (18 - cf c 56 0 8))) []
    (shadow (.sq src.fn (cf c 44 0 16) (some { q.par with kb := cf c 56 0 8, kc := cf c 57 0 8 }))
      (modSq src.fn (cf c 44 0 16) (fun q => { q with
        par := { q.par with kb := cf c 56 0 8, kc := cf c 57 0 8 }, k := cf c 56 0 8 }) (after s src))))

/-! ## Completion queues -/

/-- CREATE CQ names a new CQ with parameters in range, within the quota. -/
abbrev createCqOk (s : State) (src : AdminSrc) (c : BitVec 512) : Prop :=
  Taken s src c 0x06 false
      [(32, 0, 64), (40, 0, 32), (46, 0, 16), (48, 0, 64), (56, 0, 1), (57, 0, 8), (58, 0, 8), (60, 0, 10)]
    ∧ Idle s src ∧ cf c 46 0 16 ≤ 4095 ∧ (fld c 256 64).toNat % 4096 = 0 ∧ isPow2 (cf c 40 0 32) = true
    ∧ 64 ≤ cf c 40 0 32 ∧ cf c 40 0 32 ≤ 1048576 ∧ (fld c 384 64).toNat % 8 = 0
    ∧ (after s src).frozen src.fn = false ∧ (cf c 46 0 16 = 0 → src.isMailbox = true)
    ∧ mhas (own s src).cqs (cf c 46 0 16) = false ∧ (after s src).cqShort src.fn = false

/-- CREATE CQ (R169): the CQ exists, written from entry 0 with phase 1, nothing released beyond entry 0. -/
def createCq : Prop := ∀ s src c, createCqOk s src c →
  exec (.createCq src) s = .next (answered s src c 0x80 0 []
    (shadow (.cq src.fn (cf c 46 0 16) (some (cCqParams c)))
      (modHold src.fn (withCq (cf c 46 0 16)
        { par := cCqParams c, write := { at_ := 0, phase := true }, release := { at_ := 0, phase := true } })
        (after s src))))

/-- DELETE CQ names a CQ to which no SQ is bound. -/
abbrev deleteCqOk (s : State) (src : AdminSrc) (c : BitVec 512) : Prop :=
  Taken s src c 0x07 false [(46, 0, 16)] ∧ Idle s src ∧ cf c 46 0 16 ≤ 4095
    ∧ mhas (own s src).cqs (cf c 46 0 16) = true ∧ (after s src).frozen src.fn = false
    ∧ (cf c 46 0 16 = 0 → src.isMailbox = true)
    ∧ ((own s src).ownSqs.any fun q => q.2.par.cq == cf c 46 0 16) = false

/-- DELETE CQ (R169): the CQ is gone. -/
def deleteCq : Prop := ∀ s src c, deleteCqOk s src c →
  exec (.deleteCq src) s = .next (answered s src c 0x80 0 []
    (shadow (.cq src.fn (cf c 46 0 16) none)
      (modHold src.fn (fun x => { x with cqs := mdel x.cqs (cf c 46 0 16) }) (after s src))))

/-! ## Context table, field map, reservations, managed maps -/

/-- SET CONTEXT TABLE, TABLE form: an aligned base, a size within the quota, no ENABLED SQ but SQ 0 and no field map. -/
abbrev contextTableOk (s : State) (src : AdminSrc) (c : BitVec 512) : Prop :=
  Taken s src c 0x10 false [(40, 0, 64), (48, 0, 32)] ∧ Idle s src ∧ cf c 32 0 8 = 0 ∧ cf c 40 0 12 = 0
    ∧ cf c 48 0 32 % 4096 = 0 ∧ (after s src).frozen src.fn = false
    ∧ ((own s src).ownSqs.any fun q => q.1 != 0 && q.2.state == .enabled) = false
    ∧ (own s src).mapFor (after s src).nextG = none ∧ (own s src).fieldMap = none
    ∧ cf c 48 0 32 ≤ (after s src).ctxQuota src.fn

/-- The engine once INSTALL has read the contexts that it names. -/
abbrev installing (s : State) (src : AdminSrc) (c : BitVec 512) : Engine :=
  having src.fn (fld c 320 64) (32 * cf c 48 0 32) (.image src.fn) s src

/-- SET CONTEXT TABLE, INSTALL form: `l` is what the read brought, contexts that R212 allows inside the table, for endpoints
without a started entry. -/
abbrev installOk (s : State) (src : AdminSrc) (c : BitVec 512) (l : List (BitVec 256)) : Prop :=
  Taken s src c 0x10 false [(32, 0, 8), (36, 0, 32), (40, 0, 64), (48, 0, 32)] ∧ Idle s src ∧ cf c 32 0 8 = 1
    ∧ l.length = cf c 48 0 32 ∧ cf c 48 0 32 ≠ 0 ∧ cf c 48 0 32 ≤ 4096
    ∧ cf c 36 0 32 + cf c 48 0 32 ≤ ((installing s src c).hold src.fn).ctxEntries ∧ (installing s src c).held src.fn = false
    ∧ (installing s src c).frozen src.fn = false ∧ (l.any fun k => ctxKind k != 0 && !ctxOk k) = false
    ∧ (l.any fun k => !((installing s src c).itemsFor src.fn (ctxDev k) (ctxEp k)).isEmpty) = false

/-- SET CONTEXT TABLE (R211, R212). TABLE: cached contexts are written back and dropped, then base and size are set and no
endpoint has a context; INSTALL: each context is written to the table at its index, its cached copy written back and dropped
first. dword2 is the number of entries. -/
def setContextTable : Prop :=
  (∀ s src c l, contextTableOk s src c → exec (.setContextTable src l) s =
    .next (answered s src c 0x80 (BitVec.ofNat 32 (cf c 48 0 32)) []
      (shadow (.contextTable src.fn (fld c 320 64) (cf c 48 0 32))
        (modHold src.fn (fun x => { x with ctxBase := fld c 320 64, ctxEntries := cf c 48 0 32, ctxOf := [] })
          (dropCache src.fn (writeBackAll src.fn (after s src))))))) ∧
  (∀ s src c l, installOk s src c l → exec (.setContextTable src (some l)) s =
    .next (answered s src c 0x80 (BitVec.ofNat 32 (cf c 48 0 32)) [] (installCtxs src.fn (cf c 36 0 32) l (installing s src c))))

/-- SET FIELD MAP gives an aligned table, and a managed one 16 MiB of work area at least. -/
abbrev setFieldMapOk (s : State) (src : AdminSrc) (c : BitVec 512) : Prop :=
  Taken s src c 0x11 false
      ([(32, 0, 1), (40, 0, 64)] ++ if cf c 32 0 1 = 1 then [(48, 0, 64), (56, 0, 32)] else [])
    ∧ Idle s src ∧ cf c 40 0 13 = 0 ∧ (cf c 32 0 1 = 1 → 16777216 ≤ cf c 56 0 32)
    ∧ (after s src).frozen src.fn = false

/-- The field map that the command describes; an address of 0 stands for none (R104). -/
def cMap (c : BitVec 512) : Option FieldMap :=
  if cf c 40 0 64 = 0 then none
  else some { addr := fld c 320 64, managed := cf c 32 0 1 == 1, workArea := fld c 384 64, workSize := cf c 56 0 32 }

/-- SET FIELD MAP (R104): the command completes with 0x80 and the map holds from frame G on, the first frame whose headland
follows; dword2 is the low half of G. -/
def setFieldMap : Prop := ∀ s src c, setFieldMapOk s src c → ∃ e data,
  exec (.setFieldMap src) s = .next (answered s src c 0x80 ((after s src).nextG.setWidth 32) data e)
    ∧ data = leBytes 8 (after s src).nextG.toNat
    ∧ (e.hold src.fn).fieldMapNext = some (cMap c, (after s src).nextG)
    ∧ (cf c 32 0 1 = 0 → (after s src).managed src.fn = false →
        e = shadowRowrate src.fn (shadow (.fieldMap src.fn (cMap c))
          (modHold src.fn (fun x => { x with fieldMapNext := some (cMap c, (after s src).nextG) }) (after s src))))

/-- The reservation that RESERVE gives. -/
def cReserve (c : BitVec 512) : Reserve := { s := cf c 34 0 16, c := cf c 36 0 16, p := cf c 38 0 8, w := cf c 39 0 8 }

/-- RESERVE from the PF names a holding and a region that neither overlaps another nor takes a place too many. -/
abbrev reserveOk (s : State) (src : AdminSrc) (c : BitVec 512) : Prop :=
  Taken s src c 0x12 false [(32, 0, 8), (34, 0, 16), (36, 0, 16), (38, 0, 8), (39, 0, 8), (40, 0, 32)] ∧ Idle s src
    ∧ FromPf src ∧ cf c 32 0 8 ≤ 63 ∧ ((after s src).hold (finOf 64 (cf c 32 0 8))).created = true
    ∧ ((after s src).fn (finOf 64 (cf c 32 0 8))).reset = none ∧ 200 ≤ (cReserve c).s ∧ (cReserve c).s + (cReserve c).c ≤ 5200 ∧ (cReserve c).c ≤ 5000 ∧ (cReserve c).p ≤ 8
    ∧ ∀ p ∈ portsOf (fld c 320 32),
        (((after s src).others (finOf 64 (cf c 32 0 8)) p).any ((cReserve c).overlaps ·)) = false
        ∧ (cReserve c).p + (((after s src).others (finOf 64 (cf c 32 0 8)) p).map (·.p)).sum
            ≤ ((after s src).port p).arb.places

/-- RESERVE (R115): on each masked port the region, places and weight hold from frame G on; dword2 is G. -/
def reserve : Prop := ∀ s src c, reserveOk s src c →
  exec (.reserve src) s = .next (answered s src c 0x80 ((after s src).nextG.setWidth 32) []
    (mirror (.reserve (finOf 64 (cf c 32 0 8)) (fld c 320 32) (cf c 34 0 16) (cf c 36 0 16) (cf c 38 0 8) (cf c 39 0 8))
      (setReserve (finOf 64 (cf c 32 0 8)) (fld c 320 32) (cReserve c) (after s src).nextG (after s src))))

/-- SCHEDULE ENDPOINT, row-rate form (interval 0xFFFF): an endpoint of a device of the holding that is not yet scheduled. -/
abbrev scheduleOk (s : State) (src : AdminSrc) (c : BitVec 512) (v : Dev) : Prop :=
  Taken s src c 0x13 true ([(32, 0, 8), (34, 0, 16), (36, 0, 16), (48, 0, 23)]
      ++ if cf c 32 0 8 = 3 then [(40, 0, 64)] else [(33, 0, 8)])
    ∧ Idle s src ∧ (after s src).dev? (cDev c) = some v ∧ v.owner = src.fn ∧ v.hub = none
    ∧ bitOf (own s src).portSet v.root.val = true ∧ (cf c 32 0 8 = 2 ∨ cf c 32 0 8 = 3) ∧ cEp c ≠ 0
    ∧ cf c 36 0 16 ≤ 1024 ∧ (cScheduled c).outSlot.toNat % 8 = 0 ∧ cf c 48 0 32 < (own s src).ctxEntries
    ∧ (after s src).frozen src.fn = false ∧ (after s src).managed src.fn = true
    ∧ ((own s src).scheduled.any fun y => y.dev == cDev c && y.ep == cEp c) = false

/-- The endpoint with its place: phase, row, and the first frame from G on that serves it. -/
def placedAt (c : BitVec 512) (g : BitVec 48) (phase row step : Nat) : Scheduled :=
  { cScheduled c with phase, row, first := firstServed g phase step }

/-- SCHEDULE ENDPOINT (R133): a row-rate endpoint goes to phase 0, row 0; another one to the place that R133 picks. The row
lists of its slots are written, and the answer holds the place and the first frame served. -/
def scheduleEndpoint : Prop := ∀ s src c v, scheduleOk s src c v →
  (cf c 34 0 16 = 0xFFFF → (after s src).rowrateShort src.fn = false → exec (.scheduleEndpoint src) s =
    .next (answered s src c 0x80 0 (leBytes 8 (firstServed (after s src).nextG 0 1).toNat)
      (publish src.fn 0 1 (shadowRowrate src.fn (modHold src.fn (fun h => { h with
        scheduled := h.scheduled ++ [placedAt c (after s src).nextG 0 0 1] }) (after s src)))))) ∧
  (∀ phase row, cf c 34 0 16 ≠ 0xFFFF → isPow2 (cf c 34 0 16) = true → cf c 34 0 16 ≤ 1024 →
    (after s src).findPlace src.fn v.root (cf c 34 0 16) (schedDesc (cScheduled c)) = some (phase, row) →
    exec (.scheduleEndpoint src) s = .next (answered s src c 0x80 (BitVec.ofNat 32 (phase + 65536 * row))
      (leBytes 8 (firstServed (after s src).nextG phase (cf c 34 0 16)).toNat)
      (publish src.fn phase (cf c 34 0 16) (shadowRowrate src.fn (modHold src.fn (fun h => { h with
        scheduled := h.scheduled ++ [placedAt c (after s src).nextG phase row (cf c 34 0 16)] }) (after s src))))))

/-- UNSCHEDULE ENDPOINT in a managed map. -/
abbrev unscheduleOk (s : State) (src : AdminSrc) (c : BitVec 512) : Prop :=
  Taken s src c 0x14 true [(32, 0, 8)] ∧ Idle s src
    ∧ (src.fn ≠ pf → ∀ v ∈ (after s src).dev? (cDev c), v.owner = src.fn)
    ∧ (cf c 32 0 8 = 2 ∨ cf c 32 0 8 = 3) ∧ (after s src).frozen src.fn = false
    ∧ (after s src).managed src.fn = true

/-- The scheduled endpoint that the command names. -/
def names (c : BitVec 512) (y : Scheduled) : Bool := y.dev == cDev c && y.ep == cEp c && y.kind == cf c 32 0 8

/-- UNSCHEDULE ENDPOINT (R133): the endpoint leaves the schedule, its slots are written again, and the command answers 0x80 at
once or waits for FRAME_RETIRED. An endpoint that is not scheduled is answered 0x80 with nothing changed. -/
def unscheduleEndpoint : Prop := ∀ s src c, unscheduleOk s src c →
  ((own s src).scheduled.find? (names c) = none → exec (.unscheduleEndpoint src) s = .next (answered s src c 0x80 0 [] (after s src))) ∧
  (∀ y, (own s src).scheduled.find? (names c) = some y → ∃ last : BitVec 48,
    let e := publish src.fn y.phase (if y.interval = 0 then 1 else y.interval)
      (shadowRowrate src.fn (modHold src.fn (fun h => { h with scheduled := h.scheduled.filter fun z => !names c z })
        (after s src)))
    exec (.unscheduleEndpoint src) s = .next (answered s src c 0x80 (last.setWidth 32) [] e) ∨
    exec (.unscheduleEndpoint src) s = .next (waiting s src c (.retired last) e))

/-! ## Reap lists, groups, rings, trip rules -/

/-- The engine once LOAD REAP LIST has read the image that it names. -/
abbrev loading (s : State) (src : AdminSrc) (c : BitVec 512) : Engine :=
  having src.fn (fld c 320 64) (cf c 48 0 16) (.image src.fn) s src

/-- LOAD REAP LIST: the image read is whole and passes every check of R154 (among them the form of R137 and the bounds of
R138) on a numbered hub of a port of the holding. -/
abbrev loadReapListOk (s : State) (src : AdminSrc) (c : BitVec 512) (bs : List Byte) (v : Dev) (u : HubInfo)
    (m : ReapImage) : Prop :=
  Taken s src c 0x18 false [(32, 0, 20), (36, 0, 8), (40, 0, 64), (48, 0, 16)] ∧ Idle s src
    ∧ (loading s src c).dev? (fld c 256 20) = some v ∧ v.hub = some u ∧ (loading s src c).held src.fn = false
    ∧ bs.length = cf c 48 0 16 ∧ (loading s src c).frozen src.fn = false ∧ parseImage bs = some m
    ∧ bitOf ((loading s src c).hold src.fn).portSet v.root.val = true
    ∧ ((imageChecks src.fn (fld c 256 20) (cf c 36 0 8) u (some bs) (loading s src c)).any (·.bad)) = false

/-- LOAD REAP LIST (R154): the list is planted as commons control, and the command waits for the status stage. -/
def loadReapList : Prop := ∀ s src c bs v u m, loadReapListOk s src c bs v u m →
  let l : PlantedList :=
    { hub := fld c 256 20, listId := cf c 36 0 8, holding := src.fn, image := fld c 320 64, entries := m.entries,
      deadline := m.deadline, nested := false, group := none }
  exec (.loadReapList src (some bs)) s =
    .next (waiting s src c .plant (plantXfer l (.plant l (some src)) (loading s src c)))

/-- CLEAR REAP LIST names a planted list of the holding (or all on the hub), none nested or of a group. -/
abbrev clearReapListOk (s : State) (src : AdminSrc) (c : BitVec 512) (u : HubInfo) : Prop :=
  Taken s src c 0x19 false ([(32, 0, 20), (37, 0, 1)] ++ if cf c 37 0 1 = 1 then [] else [(36, 0, 8)]) ∧ Idle s src
    ∧ ((after s src).dev? (fld c 256 20)).bind (·.hub) = some u
    ∧ (cf c 37 0 1 ≠ 1 → ((after s src).named src.fn c).isEmpty = false
        ∧ ∀ l ∈ (after s src).commons.list? (fld c 256 20) (cf c 36 0 8), l.holding = src.fn)
    ∧ (after s src).frozen src.fn = false
    ∧ (((after s src).named src.fn c).any fun l => l.nested || l.group.isSome) = false

/-- CLEAR REAP LIST (R155): the lists are cleared from frame G on, which dword2 carries. -/
def clearReapList : Prop := ∀ s src c u, clearReapListOk s src c u →
  exec (.clearReapList src) s = .next (answered s src c 0x80 ((after s src).nextG.setWidth 32) []
    (clearLists (fun l => l.hub == fld c 256 20 && l.holding == src.fn
      && (((after s src).named src.fn c).map (·.listId)).contains l.listId) (after s src).nextG (after s src)))

/-- REAP GROUP with interval 0 names a group of the holding. -/
abbrev removeGroupOk (s : State) (src : AdminSrc) (c : BitVec 512) : Prop :=
  Taken s src c 0x1A false [(38, 0, 16), (42, 0, 16)] ∧ Idle s src ∧ cf c 38 0 16 = 0
    ∧ mhas (own s src).groups (cf c 42 0 16) = true ∧ cf c 42 0 16 ≠ 0xFFFF ∧ (after s src).frozen src.fn = false
    ∧ (after s src).managed src.fn = true

/-- REAP GROUP with an interval describes a new group: root a hub or a root port, interval a power of two up to 1,024. -/
abbrev makeGroupOk (s : State) (src : AdminSrc) (c : BitVec 512) (p : PortId) (k : Nat) : Prop :=
  Taken s src c 0x1A false
      ([(38, 0, 16), (42, 0, 16)] ++ (positionFields c 32 ++ [(36, 0, 8), (37, 0, 8), (40, 0, 16)]))
    ∧ Idle s src ∧ isPow2 (cf c 38 0 16) = true ∧ cf c 38 0 16 ≤ 1024 ∧ cf c 40 0 16 ≤ 1024
    ∧ cf c 36 0 8 ≠ 0 ∧ cf c 36 0 8 ≤ 15 ∧ cf c 42 0 16 = 0xFFFF
    ∧ (if cf c 32 25 1 = 1 then some (finOf 32 (cf c 32 20 5)) else (after s src).rootOf (fld c 256 20)) = some p
    ∧ (cf c 32 25 1 ≠ 1 → (((after s src).dev? (fld c 256 20)).bind (·.hub)).isSome = true)
    ∧ bitOf (own s src).portSet p.val = true ∧ (after s src).frozen src.fn = false
    ∧ (after s src).managed src.fn = true
    ∧ (List.range 65535).find? (fun k => !mhas (own s src).groups k) = some k

/-- REAP GROUP (R153). Interval 0: the group and its lists are removed and the row lists written again; dword2 is the group,
the data the frame G. Otherwise the group is recorded under the lowest free number, its lists are built and planted, and the
command waits until it is placed. -/
def reapGroup : Prop :=
  (∀ s src c, removeGroupOk s src c → ∃ e,
    exec (.reapGroup src) s = .next (answered s src c 0x80 (BitVec.ofNat 32 (cf c 42 0 16)) (leBytes 8 e.nextG.toNat) e)
      ∧ e = (let e1 := publish src.fn 0 1 (modHold src.fn (fun x => { x with groups := mdel x.groups (cf c 42 0 16) })
                (after s src))
             clearLists (fun l => l.group == some (cf c 42 0 16) && l.holding == src.fn) e1.nextG e1)) ∧
  (∀ s src c p k, makeGroupOk s src c p k →
    let e := modHold src.fn (fun x => { x with groups := mput x.groups k (cGroup c) }) (after s src)
    let started := { e with fw := { e.fw with running := e.fw.running ++ [{ src, cmd := c, wait := .group src.fn k }] } }
    exec (.reapGroup src) s = .next { s with eng := startGroup src.fn k started })

/-- CREATE SHEAF RING with a size: a new ring with parameters in range, within the quota. -/
abbrev makeRingOk (s : State) (src : AdminSrc) (c : BitVec 512) : Prop :=
  Taken s src c 0x1B false ([(40, 0, 64), (56, 0, 8)] ++ [(32, 0, 64), (48, 0, 64), (57, 0, 8), (58, 0, 16)])
    ∧ Idle s src ∧ cf c 32 0 12 = 0 ∧ isPow2 (cf c 40 0 64) = true ∧ 65536 ≤ cf c 40 0 64
    ∧ cf c 40 0 64 ≤ 1073741824 ∧ cf c 48 0 3 = 0 ∧ cf c 58 0 16 ≠ 0 ∧ cf c 58 0 16 ≤ 1024
    ∧ mget (own s src).rings (cf c 56 0 8) = none ∧ (after s src).frozen src.fn = false
    ∧ (after s src).ringShort src.fn = false

/-- CREATE SHEAF RING with size 0: a ring that is not already being removed. -/
abbrev removeRingOk (s : State) (src : AdminSrc) (c : BitVec 512) (r : SheafRing) : Prop :=
  Taken s src c 0x1B false [(40, 0, 64), (56, 0, 8)] ∧ Idle s src ∧ cf c 40 0 64 = 0
    ∧ mget (own s src).rings (cf c 56 0 8) = some r ∧ r.removeAt = none ∧ (after s src).frozen src.fn = false

/-- CREATE SHEAF RING (R148). A new ring is empty, with phase 1 at offset 0, and takes results from frame G on, which dword2
carries. Size 0: no result goes to the ring from frame G on, and it is gone once FRAME_RETIRED has reached G - 1. -/
def createSheafRing : Prop :=
  (∀ s src c, makeRingOk s src c → exec (.createSheafRing src) s =
    .next (answered s src c 0x80 ((after s src).nextG.setWidth 32) []
      (shadow (.sheafRing src.fn (cf c 56 0 8) (some (cSheafParams c)))
        (modHold src.fn (withRing (cf c 56 0 8)
          { par := cSheafParams c, write := { at_ := 0, phase := true }, release := { at_ := 0, phase := true },
            first := (after s src).nextG }) (after s src))))) ∧
  (∀ s src c r, removeRingOk s src c r →
    (geMod (s.eng.clk.retired + 1) ((after s src).nextG.setWidth 32) = true → exec (.createSheafRing src) s =
      .next (answered s src c 0x80 ((after s src).nextG.setWidth 32) []
        (modHold src.fn (fun x => { x with rings := mdel x.rings (cf c 56 0 8) })
          (shadow (.sheafRing src.fn (cf c 56 0 8) none) (after s src))))) ∧
    (geMod (s.eng.clk.retired + 1) ((after s src).nextG.setWidth 32) = false → exec (.createSheafRing src) s =
      .next (answered s src c 0x80 ((after s src).nextG.setWidth 32) []
        (modRing src.fn (cf c 56 0 8) (fun r => { r with removeAt := some (after s src).nextG })
          (shadow (.sheafRing src.fn (cf c 56 0 8) none) (after s src))))))

/-- CREATE ALARM RING with a size, where the holding has none. -/
abbrev makeAlarmRingOk (s : State) (src : AdminSrc) (c : BitVec 512) : Prop :=
  Taken s src c 0x1C false ([(40, 0, 32)] ++ [(32, 0, 64), (48, 0, 64), (57, 0, 8), (58, 0, 1)]) ∧ Idle s src
    ∧ (cf c 58 0 1 = 1 → FromPf src) ∧ cf c 32 0 12 = 0 ∧ isPow2 (cf c 40 0 32) = true ∧ 64 ≤ cf c 40 0 32
    ∧ cf c 40 0 32 ≤ 1048576 ∧ cf c 48 0 3 = 0 ∧ (own s src).alarmRing = none ∧ (after s src).frozen src.fn = false

/-- CREATE ALARM RING with size 0, where the holding has one. -/
abbrev removeAlarmRingOk (s : State) (src : AdminSrc) (c : BitVec 512) : Prop :=
  Taken s src c 0x1C false [(40, 0, 32)] ∧ Idle s src ∧ cf c 40 0 32 = 0 ∧ cf c 58 0 1 = 0
    ∧ (own s src).alarmRing.isSome = true ∧ (after s src).frozen src.fn = false

/-- CREATE ALARM RING (R164): the holding has an empty alarm ring; size 0 removes it. -/
def createAlarmRing : Prop :=
  (∀ s src c, makeAlarmRingOk s src c → exec (.createAlarmRing src) s = .next (answered s src c 0x80 0 []
    (shadow (.alarmRing src.fn (some (cAlarmParams c)))
      (modHold src.fn (fun x => { x with alarmRing := some { par := cAlarmParams c } }) (after s src))))) ∧
  (∀ s src c, removeAlarmRingOk s src c → exec (.createAlarmRing src) s = .next (answered s src c 0x80 0 []
    (shadow (.alarmRing src.fn none) (modHold src.fn (fun x => { x with alarmRing := none }) (after s src)))))

/-- SET TRIP RULE from the PF arms no output that it disarms. -/
abbrev setTripRuleOk (s : State) (src : AdminSrc) (c : BitVec 512) : Prop :=
  Taken s src c 0x1D false ([(34, 0, 1), (35, 0, 8), (36, 0, 4)]
      ++ if cf c 34 0 1 = 1 then [(32, 0, 10), (40, 0, 56), (48, 0, 32), (52, 0, 4)] else [])
    ∧ Idle s src ∧ FromPf src ∧ cf c 35 0 4 &&& cf c 35 4 4 = 0

/-- The trip rules with the one that the command loads, if it loads one. -/
def ruled (s : State) (src : AdminSrc) (c : BitVec 512) : Engine :=
  if cf c 34 0 1 = 1 then
    mirror (.tripRule (finOf 1024 (cf c 32 0 10)) (fld c 320 128)) (modCommons (fun m => { m with
      rules := vmod m.rules (finOf 1024 (cf c 32 0 10)) fun _ => fld c 320 128 }) (after s src))
  else after s src

/-- SET TRIP RULE (R160, R162, R213): the rule is loaded, TRIPPED bits are cleared, outputs disarmed and armed, and dword2 is
TRIP_STAT after that. -/
def setTripRule : Prop := ∀ s src c, setTripRuleOk s src c → ∃ e : Engine,
  exec (.setTripRule src) s = .next (answered s src c 0x80 e.tripStat [] e)
    ∧ e.pins = { s.eng.pins with
        tripped := s.eng.pins.tripped &&& ~~~(fld c 288 4),
        armed := (s.eng.pins.armed &&& ~~~(fld c 284 4)) ||| fld c 280 4 }
    ∧ { e with pins := s.eng.pins } = ruled s src c

/-! ## The tree, logs, counters, accounts -/

/-- The state with a command answered, after firmware's upkeep of the tree: groups that gained or lost a member are rebuilt
(R153), and the partner's copy of the hub tables takes every change (R265). -/
def answeredUp (s : State) (src : AdminSrc) (c : BitVec 512) (status : Byte) (dword2 : Dword) (data : List Byte)
    (e : Engine) : State :=
  { s with eng := noted s.eng (treeWork (fun _ => finish src c status dword2 data false e) s.eng) }

/-- The state with a command that waits, after the same upkeep. -/
def waitingUp (s : State) (src : AdminSrc) (c : BitVec 512) (w : Defer) (e : Engine) : State :=
  { s with eng := noted s.eng (treeWork (fun _ =>
    { e with fw := { e.fw with running := e.fw.running ++ [{ src, cmd := c, wait := w }] } }) s.eng) }

/-- ENUMERATE LIST. -/
abbrev listOk (s : State) (src : AdminSrc) (c : BitVec 512) : Prop :=
  Taken s src c 0x20 false ([(32, 0, 8)] ++ [(36, 0, 32)]) ∧ Idle s src ∧ cf c 32 0 8 = 0

/-- ENUMERATE MODE from the PF. -/
abbrev modeOk (s : State) (src : AdminSrc) (c : BitVec 512) : Prop :=
  Taken s src c 0x20 false ([(32, 0, 8)] ++ [(33, 0, 1)]) ∧ Idle s src ∧ FromPf src ∧ cf c 32 0 8 = 1

/-- ENUMERATE PORT from the PF: a position that exists and is not being enumerated, a number that is free. -/
abbrev portOk (s : State) (src : AdminSrc) (c : BitVec 512) : Prop :=
  Taken s src c 0x20 false ([(32, 0, 8)] ++ (positionFields c 36 ++ [(40, 0, 8), (44, 0, 20)])) ∧ Idle s src
    ∧ FromPf src ∧ cf c 32 0 8 = 2 ∧ (after s src).positionOk (cPosition c 36 40) = true
    ∧ (cf c 36 25 1 = 1 → cf c 40 0 8 = 0) ∧ cf c 44 0 20 ≠ 0xFFFFF
    ∧ (cf c 44 0 20 ≠ 0 → (∀ v ∈ mget (after s src).commons.devs (cf c 44 0 20), v.pos = cPosition c 36 40)
        ∧ ((after s src).commons.enums.any fun x => x.number.toNat == cf c 44 0 20) = false)
    ∧ ((after s src).commons.enums.any fun x => x.pos == cPosition c 36 40) = false

/-- The devices after a number that the list of a function holds. -/
def listed (s : State) (src : AdminSrc) (c : BitVec 512) : List (Nat × Dev) :=
  ((after s src).listed src.fn).filter fun x => decide (cf c 36 0 32 < x.1)

/-- ENUMERATE (R82, R84, R214, R409). LIST: the entries that fit, their number in dword2 with bit 31 set where more are left.
MODE sets the enumeration mode. PORT starts an enumeration of the position and waits for its end. -/
def enumerate : Prop :=
  (∀ s src c, listOk s src c → ∃ k, k = min (listed s src c).length (capacity src c 0 / 8) ∧
    exec (.enumerate src) s = .next (answeredUp s src c 0x80
      (BitVec.ofNat 32 (k + 2 ^ 31 * b2n (decide (k < (listed s src c).length))))
      (((listed s src c).take k).flatMap fun x => listEntry x.1 x.2) (after s src))) ∧
  (∀ s src c, modeOk s src c → exec (.enumerate src) s = .next (answeredUp s src c 0x80 0 []
    (modCommons (fun m => { m with pfDriven := cf c 33 0 1 == 1 }) (after s src)))) ∧
  (∀ s src c, portOk s src c → exec (.enumerate src) s = .next (waitingUp s src c (.enumeration s.eng.ids)
    (startEnum (cPosition c 36 40) (some src) (cf c 44 0 20) false (after s src))))

/-- ASSIGN DEVICE from the PF: a position on a port of the new owner's set, no device of a frozen holding below it. -/
abbrev assignOk (s : State) (src : AdminSrc) (c : BitVec 512) (p : PortId) : Prop :=
  Taken s src c 0x21 false (positionFields c 32 ++ [(36, 0, 8), (37, 0, 8)]) ∧ Idle s src ∧ FromPf src
    ∧ (after s src).positionOk (cPosition c 32 36) = true ∧ (cf c 32 25 1 = 1 → cf c 36 0 8 = 0) ∧ cf c 37 0 8 ≤ 63
    ∧ ((after s src).hold (finOf 64 (cf c 37 0 8))).created = true
    ∧ (after s src).rootAt (cPosition c 32 36) = some p
    ∧ bitOf ((after s src).hold (finOf 64 (cf c 37 0 8))).portSet p.val = true
    ∧ (((after s src).changing (cPosition c 32 36) (finOf 64 (cf c 37 0 8))).any fun d =>
        match (after s src).dev? d with | some v => (after s src).frozen v.owner | none => false) = false

/-- The ownership change itself: the positions, then each device whose owner changes. -/
def reassigned (s : State) (src : AdminSrc) (c : BitVec 512) : Engine :=
  let h := finOf 64 (cf c 37 0 8)
  let pos := cPosition c 32 36
  forAll ((after s src).changing pos h) (changeOwner h)
    (forAll ((after s src).assigned pos) (fun q e => mirror (.owner q h) (setOwner q h e)) (after s src))

/-- ASSIGN DEVICE (R235, R236): the positions and devices have their new owner, and the command answers 0x80 or waits for the
old owner's outstanding transactions; with no device that changes owner it answers at once with the device's number. -/
def assignDevice : Prop := ∀ s src c p, assignOk s src c p →
  (((exec (.assignDevice src) s = .next (answeredUp s src c 0x80
      (((((reassigned s src c).deviceAt (cPosition c 32 36)).map fun x => BitVec.ofNat 20 x.1).getD 0).setWidth 32) []
      (reassigned s src c))) ∨
    ∃ w, exec (.assignDevice src) s = .next (waitingUp s src c w (reassigned s src c))) ∧
  ((after s src).changing (cPosition c 32 36) (finOf 64 (cf c 37 0 8)) = [] → exec (.assignDevice src) s =
    .next (answeredUp s src c 0x80
      (((((reassigned s src c).deviceAt (cPosition c 32 36)).map fun x => BitVec.ofNat 20 x.1).getD 0).setWidth 32) []
      (reassigned s src c))))

/-- The fields that a form of PORT CONTROL uses. -/
def portControlFields (c : BitVec 512) : Fields :=
  positionFields c 32 ++ [(36, 0, 8), (38, 0, 8)] ++ (match cf c 38 0 8 with
    | 3 => [(39, 0, 8)]
    | 8 => [(40, 0, 8), (41, 0, 8)]
    | 9 => [(42, 0, 8)]
    | _ => [])

/-- PORT CONTROL from the PF on root port p. -/
abbrev rootControlOk (s : State) (src : AdminSrc) (c : BitVec 512) (p : PortId) : Prop :=
  Taken s src c 0x22 false (portControlFields c) ∧ Idle s src ∧ FromPf src ∧ cf c 32 25 1 = 1 ∧ cf c 36 0 8 = 0
    ∧ p = finOf 32 (cf c 32 20 5) ∧ cf c 38 0 8 ≤ 9
    ∧ (cf c 38 0 8 = 8 → 2 ≤ cf c 40 0 8 ∧ cf c 40 0 8 ≤ 64 ∧ 1 ≤ cf c 41 0 8 ∧ cf c 41 0 8 ≤ 8)
    ∧ (cf c 38 0 8 = 9 → 1 ≤ cf c 42 0 8 ∧ cf c 42 0 8 ≤ 32)

/-- PORT CONTROL from the PF on a downstream port of a hub. -/
abbrev hubControlOk (s : State) (src : AdminSrc) (c : BitVec 512) : Prop :=
  Taken s src c 0x22 false (portControlFields c) ∧ Idle s src ∧ FromPf src ∧ cf c 32 25 1 ≠ 1
    ∧ (after s src).positionOk (cPosition c 32 36) = true ∧ cf c 38 0 8 ≤ 7

/-- PORT CONTROL (R72, R74, R78, R214). On a root port: action 0 answers with the port state record, 8 sets TBASE and TTIER, 9
sets POWER_STAGGER. On a hub's port: action 0 reads the record over the tree and waits for it, 1 puts a power-on order in the
queue of R78 and waits. -/
def portControl : Prop :=
  (∀ s src c p, rootControlOk s src c p →
    (cf c 38 0 8 = 0 → exec (.portControl src) s =
      .next (answeredUp s src c 0x80 0 (recordData ((after s src).rootRecord p)) (after s src))) ∧
    (cf c 38 0 8 = 8 → ∃ e, exec (.portControl src) s = .next (answeredUp s src c 0x80 0 (recordData (e.rootRecord p)) e)
      ∧ e = modPort p (fun t => { t with tbase := cf c 40 0 8, ttier := cf c 41 0 8 }) (after s src)) ∧
    (cf c 38 0 8 = 9 → ∃ e, exec (.portControl src) s = .next (answeredUp s src c 0x80 0 (recordData (e.rootRecord p)) e)
      ∧ e = modPort p (fun t => { t with stagger := cf c 42 0 8 }) (after s src))) ∧
  (∀ s src c, hubControlOk s src c →
    (cf c 38 0 8 = 0 → exec (.portControl src) s = .next (waitingUp s src c (.portRecord (.hubPort (fld c 256 20) (cf c 36 0 8)))
      (addXferTo (fld c 256 20) (setupPacket 0x0101 (cf c 36 0 8) 2 true 0 16) []
        (.portRead (fld c 256 20) (cf c 36 0 8) src) (after s src)))) ∧
    (∀ p, cf c 38 0 8 = 1 → (after s src).rootOf (fld c 256 20) = some p → exec (.portControl src) s =
      .next (waitingUp s src c (.portRecord (.hubPort (fld c 256 20) (cf c 36 0 8)))
        (modPort p (fun t => { t with powerOrders := t.powerOrders ++ [(fld c 256 20, cf c 36 0 8, some src)] })
          (after s src)))))

/-- PORT CONTROL orders a transition on a root port that its state allows (`e` is the engine with the order in effect). -/
abbrev rootOrderOk (s : State) (src : AdminSrc) (c : BitVec 512) (p : PortId) (e : Engine) : Prop :=
  rootControlOk s src c p ∧ 1 ≤ cf c 38 0 8 ∧ cf c 38 0 8 ≤ 7
    ∧ orderRoot p (cf c 38 0 8) (cf c 39 0 8) (after s src) = some e

/-- An order on a root port (R72): a reset answers once the port has come up or failed, with an attention entry to the holdings
concerned; a resume of a port that was not ENABLED waits too; every other order answers with the port state record. -/
def rootOrders : Prop := ∀ s src c p e, rootOrderOk s src c p e →
  (cf c 38 0 8 = 3 → exec (.portControl src) s =
    .next (waitingUp s src c (.portOrder (.root p) true) (attnPorts (1#32 <<< p.val) 1 0 e))) ∧
  (cf c 38 0 8 = 6 → ((after s src).port p).rh.state ≠ .enabled → exec (.portControl src) s =
    .next (waitingUp s src c (.portOrder (.root p) false) e)) ∧
  (cf c 38 0 8 ≠ 3 → cf c 38 0 8 ≠ 6 → exec (.portControl src) s =
    .next (answeredUp s src c 0x80 0 (recordData (e.rootRecord p)) e))

/-- DEVICE RESET names a device of the holding, or any device from the PF. -/
abbrev deviceResetOk (s : State) (src : AdminSrc) (c : BitVec 512) (v : Dev) : Prop :=
  Taken s src c 0x23 true [] ∧ Idle s src ∧ (after s src).dev? (cDev c) = some v ∧ cEp c = 0
    ∧ (src.fn ≠ pf → v.hub = none ∧ v.owner = src.fn)
    ∧ (after s src).frozen (if v.hub.isSome then src.fn else v.owner) = false

/-- DEVICE RESET (R72, R95): the port above the device is reset, and the command waits for the device. -/
def deviceReset : Prop := ∀ s src c v, deviceResetOk s src c v →
  (∀ p e, v.pos = .root p → orderRoot p 3 0 (after s src) = some e → exec (.deviceReset src) s =
    .next (waitingUp s src c (.devReset (cDev c) v.pos) e)) ∧
  (∀ hub port, v.pos = .hubPort hub port → exec (.deviceReset src) s = .next (waitingUp s src c (.devReset (cDev c) v.pos)
    (orderHubPort hub port 3 0 (.portOrder hub port 3 (some src)) (after s src))))

/-- READ ATTENTION LOG is well formed. -/
abbrev readLogOk (s : State) (src : AdminSrc) (c : BitVec 512) : Prop :=
  Taken s src c 0x28 false [(32, 0, 32), (36, 0, 32), (40, 0, 16)]

/-- The log entries that READ ATTENTION LOG leaves: those not before the release sequence. -/
def leftLog (s : State) (src : AdminSrc) (c : BitVec 512) : List Attn :=
  (s.eng.fn src.fn).log.filter fun a => !before a.seq (fld c 288 32)

/-- READ ATTENTION LOG (R222, R224): entries before the release sequence are freed; of the rest, those from the start sequence
on are returned, as many as were asked for; dword2 holds how many are returned and how many are held. -/
def readAttentionLog : Prop := ∀ s src c, readLogOk s src c → ∃ k,
  k = min ((leftLog s src c).filter fun a => !before a.seq (fld c 256 32)).length (cf c 40 0 16) ∧
  exec (.readAttentionLog src) s = .next (answered s src c 0x80 (BitVec.ofNat 32 (k + 65536 * (leftLog s src c).length))
    ((((leftLog s src c).filter fun a => !before a.seq (fld c 256 32)).take k).flatMap attnBytes)
    (modFn src.fn (fun x => { x with log := leftLog s src c }) (after s src)))

/-- READ COUNTERS names a group, a port and a holding that the issuer may read. -/
abbrev readCountersOk (s : State) (src : AdminSrc) (c : BitVec 512) : Prop :=
  Taken s src c 0x29 false (counterFields c) ∧ Idle s src ∧ cf c 32 0 8 ≤ 5
    ∧ cf c 33 0 8 ≤ 31 ∧ (cf c 32 0 8 < 3 → cf c 35 0 8 ≤ 63)
    ∧ (src.fn ≠ pf → cf c 35 0 8 = src.fn.val ∧ cf c 32 0 8 < 3)

/-- READ COUNTERS (R401): the group's counters, and with CLEAR the group at zero after the read. Groups 1 and 2 are a
holding's event counters on a port and device-wide, 4 and 5 the controller's own. -/
def readCounters : Prop := ∀ s src c, readCountersOk s src c →
  (cf c 32 0 8 = 1 → exec (.readCounters src) s = .next (answered s src c 0x80 (BitVec.ofNat 32
      (cntBytes ((after s src).fn (finOf 64 (cf c 35 0 8))).counters.port[(finOf 32 (cf c 33 0 8)).val]).length)
      (cntBytes ((after s src).fn (finOf 64 (cf c 35 0 8))).counters.port[(finOf 32 (cf c 33 0 8)).val])
      (whenE (cf c 34 0 1 == 1) (modFn (finOf 64 (cf c 35 0 8)) fun x => { x with counters := { x.counters with
        port := vmod x.counters.port (finOf 32 (cf c 33 0 8)) fun _ => Vector.replicate 16 0 } }) (after s src)))) ∧
  (cf c 32 0 8 = 2 → exec (.readCounters src) s = .next (answered s src c 0x80 (BitVec.ofNat 32
      (cntBytes ((after s src).fn (finOf 64 (cf c 35 0 8))).counters.wide).length)
      (cntBytes ((after s src).fn (finOf 64 (cf c 35 0 8))).counters.wide)
      (whenE (cf c 34 0 1 == 1) (modFn (finOf 64 (cf c 35 0 8)) fun x => { x with counters := { x.counters with
        wide := Vector.replicate 16 0 } }) (after s src)))) ∧
  (cf c 32 0 8 = 4 → exec (.readCounters src) s = .next (answered s src c 0x80 (BitVec.ofNat 32
      (cntBytes ((after s src).port (finOf 32 (cf c 33 0 8))).cnt).length)
      (cntBytes ((after s src).port (finOf 32 (cf c 33 0 8))).cnt)
      (whenE (cf c 34 0 1 == 1) (modPort (finOf 32 (cf c 33 0 8)) fun t => { t with cnt := Vector.replicate 16 0 })
        (after s src)))) ∧
  (cf c 32 0 8 = 5 → exec (.readCounters src) s = .next (answered s src c 0x80 (BitVec.ofNat 32 (cntBytes s.eng.cnt).length)
      (cntBytes s.eng.cnt)
      (whenE (cf c 34 0 1 == 1) (fun e => { e with cnt := Vector.replicate 16 0 }) (after s src))))

/-- The arbiter set groups of READ COUNTERS (R396, R399): group 0 is a holding's two sets on a port, 3 the commons'. -/
def readArbiterSets : Prop := ∀ s src c, readCountersOk s src c →
  (cf c 32 0 8 = 0 → exec (.readCounters src) s = .next (answered s src c 0x80 (BitVec.ofNat 32
      (arbBytes ((after s src).fn (finOf 64 (cf c 35 0 8))).counters.arbP[(finOf 32 (cf c 33 0 8)).val]
        ++ arbBytes ((after s src).fn (finOf 64 (cf c 35 0 8))).counters.arbB[(finOf 32 (cf c 33 0 8)).val]).length)
      (arbBytes ((after s src).fn (finOf 64 (cf c 35 0 8))).counters.arbP[(finOf 32 (cf c 33 0 8)).val]
        ++ arbBytes ((after s src).fn (finOf 64 (cf c 35 0 8))).counters.arbB[(finOf 32 (cf c 33 0 8)).val])
      (whenE (cf c 34 0 1 == 1) (modFn (finOf 64 (cf c 35 0 8)) fun x => { x with counters := { x.counters with
        arbP := vmod x.counters.arbP (finOf 32 (cf c 33 0 8)) fun _ => {},
        arbB := vmod x.counters.arbB (finOf 32 (cf c 33 0 8)) fun _ => {} } }) (after s src)))) ∧
  (cf c 32 0 8 = 3 → exec (.readCounters src) s = .next (answered s src c 0x80 (BitVec.ofNat 32
      (arbBytes ((after s src).port (finOf 32 (cf c 33 0 8))).arb.commons).length)
      (arbBytes ((after s src).port (finOf 32 (cf c 33 0 8))).arb.commons)
      (whenE (cf c 34 0 1 == 1) (modArb (finOf 32 (cf c 33 0 8)) fun a => { a with commons := {} }) (after s src))))

/-- RESET ACCOUNT is well formed. -/
abbrev resetAccountOk (s : State) (src : AdminSrc) (c : BitVec 512) : Prop :=
  Taken s src c 0x2A false [(32, 0, 32), (36, 0, 32)]

/-- The account after the release, and its entries from the start index on. -/
def leftAccount (s : State) (src : AdminSrc) (c : BitVec 512) : Account := (s.eng.fn src.fn).account.release (fld c 288 32)

/-- The entries returned are these, as far as they fit. -/
def shownAccount (s : State) (src : AdminSrc) (c : BitVec 512) : List (Dword × List Byte) :=
  (leftAccount s src c).entries.filter fun x => !before x.1 (fld c 256 32)

/-- RESET ACCOUNT (R215, R245, R409): entries before the release index are freed; the answer's 16-byte header holds the index
of the first entry returned and of the next outcome, then come the entries that fit; dword2 counts them, bit 31 says that more
are left. -/
def resetAccount : Prop := ∀ s src c, resetAccountOk s src c → ∃ k,
  k = min (shownAccount s src c).length (capacity src c 16 / 16) ∧
  exec (.resetAccount src) s = .next (answered s src c 0x80
    (BitVec.ofNat 32 (k + 2 ^ 31 * b2n (decide (k < (shownAccount s src c).length))))
    (wordBytes ((((shownAccount s src c).head?).map (·.1)).getD (leftAccount s src c).next)
      ++ wordBytes (leftAccount s src c).next ++ leBytes 8 0 ++ ((shownAccount s src c).take k).flatMap (·.2))
    (modFn src.fn (fun x => { x with account := leftAccount s src c }) (after s src)))

/-! ## Holdings -/

/-- The holding that a command names, by number. -/
abbrev named (s : State) (src : AdminSrc) (c : BitVec 512) : Holding := (after s src).hold (cHold c)

/-- HOLDING CREATE from the PF: an enabled VF function whose holding does not exist, quotas and plots that are left (R229 to
R232). -/
abbrev holdingCreateOk (s : State) (src : AdminSrc) (c : BitVec 512) : Prop :=
  Taken s src c 0x30 false [(32, 0, 8), (33, 0, 8), (34, 0, 16), (36, 0, 16), (38, 0, 32), (42, 0, 16), (44, 0, 32),
      (48, 0, 32), (52, 0, 16)] ∧ Idle s src ∧ FromPf src ∧ cf c 32 0 8 ≠ 0 ∧ cf c 32 0 8 ≤ 63
    ∧ ((after s src).fn (cHold c)).reset = none
    ∧ cf c 33 0 8 ≠ 0 ∧ cf c 44 0 12 = 0 ∧ cf c 52 0 16 ≤ 256 ∧ (after s src).fnEnabled (cHold c) = true
    ∧ (named s src c).created = false ∧ cf c 33 0 8 ≤ (after s src).freePlots.length
    ∧ (after s src).given (·.sqQuota) + ((after s src).hold pf).ownSqs.length + cf c 34 0 16 ≤ 4096
    ∧ (after s src).given (·.cqQuota) + ((after s src).hold pf).ownCqs.length + cf c 36 0 16 ≤ 4096
    ∧ (after s src).given (·.ringQuota) + ((after s src).hold pf).ownRings.length + cf c 52 0 16 ≤ 1024
    ∧ (after s src).given (·.pollCredits) + ((after s src).hold pf).charged + cf c 38 0 32 ≤ 4194304
    ∧ (after s src).given (·.rowrateQuota) + ((after s src).hold pf).rowrateUsed + cf c 42 0 16 ≤ 4096
    ∧ (after s src).given (·.ctxQuota) + ((after s src).hold pf).ctxEntries + cf c 44 0 32 ≤ 8388608

/-- The holding as HOLDING CREATE makes it: what was given, and nothing else. -/
def made (c : BitVec 512) : Holding :=
  { created := true, sqQuota := cf c 34 0 16, cqQuota := cf c 36 0 16, pollCredits := cf c 38 0 32,
    rowrateQuota := cf c 42 0 16, ctxQuota := cf c 44 0 32, ringQuota := cf c 52 0 16, portSet := fld c 384 32 }

/-- HOLDING CREATE (R231, R232): the holding exists with its quotas and port set, its counters are zero, its plots are taken
from the free ones, each to be cleared first (R16); the command waits for them. -/
def holdingCreate : Prop := ∀ s src c, holdingCreateOk s src c →
  exec (.holdingCreate src) s = .next (waiting s src c (.plots (cHold c) 0)
    (takePlots (cHold c) (cf c 33 0 8) (modFn (cHold c) (fun x => { x with counters := {} })
      (modHold (cHold c) (fun _ => made c) (after s src)))))

/-- A command of a holding from 1 on: from the PF or from the holding itself, created, not in reset (R202, R216, R241). -/
abbrev HoldOk (s : State) (src : AdminSrc) (c : BitVec 512) : Prop :=
  (src.fn ≠ pf → cf c 32 0 8 = src.fn.val) ∧ cf c 32 0 8 ≠ 0 ∧ cf c 32 0 8 ≤ 63 ∧ (named s src c).created = true
    ∧ (s.eng.fn (cHold c)).reset = none

/-- The same, holding 0 included. -/
abbrev AnyHoldOk (s : State) (src : AdminSrc) (c : BitVec 512) : Prop :=
  (src.fn ≠ pf → cf c 32 0 8 = src.fn.val) ∧ cf c 32 0 8 ≤ 63 ∧ (named s src c).created = true
    ∧ (s.eng.fn (cHold c)).reset = none

/-- HOLDING DESTROY from the PF. -/
abbrev holdingDestroyOk (s : State) (src : AdminSrc) (c : BitVec 512) : Prop :=
  Taken s src c 0x31 false [(32, 0, 8)] ∧ Idle s src ∧ FromPf src ∧ HoldOk s src c

/-- HOLDING DESTROY (R246): a holding reset begins at once, after which the holding goes; the command waits for its end. -/
def holdingDestroy : Prop := ∀ s src c, holdingDestroyOk s src c →
  exec (.holdingDestroy src) s = .next (waiting s src c (.reset (cHold c))
    (resetFates (cHold c) .command (modFn (cHold c) (fun x => { x with
      reset := some { kind := .command, src := some src, destroy := true } }) (after s src))))

/-- ALLOT PLOTS from the PF asks for one plot at least, and not for more than are free. -/
abbrev allotPlotsOk (s : State) (src : AdminSrc) (c : BitVec 512) : Prop :=
  Taken s src c 0x32 false [(32, 0, 8), (33, 0, 8)] ∧ Idle s src ∧ FromPf src ∧ AnyHoldOk s src c ∧ cf c 33 0 8 ≠ 0
    ∧ cf c 33 0 8 ≤ ((after s src).allotment (cHold c)).length + (after s src).freePlots.length

/-- ALLOT PLOTS (R17, R232): more plots are taken from the free ones; fewer: the highest-numbered are marked to be removed at
the next frame boundary; the command waits for the plots, and answers at once when the number stays. -/
def allotPlots : Prop := ∀ s src c, allotPlotsOk s src c →
  let now := (after s src).allotment (cHold c)
  (cf c 33 0 8 = now.length → exec (.allotPlots src) s =
    .next (answered s src c 0x80 (BitVec.ofNat 32 (cf c 33 0 8)) [] (after s src))) ∧
  (now.length < cf c 33 0 8 → exec (.allotPlots src) s = .next (waiting s src c (.plots (cHold c) now.length)
    (takePlots (cHold c) (cf c 33 0 8 - now.length) (after s src)))) ∧
  (cf c 33 0 8 < now.length → exec (.allotPlots src) s = .next (waiting s src c (.plots (cHold c) now.length)
    (forAll (now.drop (cf c 33 0 8)) (fun p => modPlot p fun q => { q with removing := true }) (after s src))))

/-- HOLDING RESET. -/
abbrev holdingResetOk (s : State) (src : AdminSrc) (c : BitVec 512) : Prop :=
  Taken s src c 0x33 false [(32, 0, 8)] ∧ Idle s src ∧ AnyHoldOk s src c

/-- HOLDING RESET (R241, R242): the reset point passes at once, recorded with the fates of R242; the command waits for its
end. -/
def holdingReset : Prop := ∀ s src c, holdingResetOk s src c →
  exec (.holdingReset src) s = .next (waiting s src c (.reset (cHold c))
    (resetFates (cHold c) .command (modFn (cHold c) (fun x => { x with
      reset := some { kind := .command, src := some src, destroy := false } }) (after s src))))

/-- SET GLEANING from the PF. -/
abbrev setGleaningOk (s : State) (src : AdminSrc) (c : BitVec 512) : Prop :=
  Taken s src c 0x38 false [(32, 0, 8), (36, 0, 32)] ∧ Idle s src ∧ FromPf src ∧ AnyHoldOk s src c

/-- SET GLEANING (R125): the holding may glean on the masked ports from frame G on; dword2 is G. -/
def setGleaning : Prop := ∀ s src c, setGleaningOk s src c →
  exec (.setGleaning src) s = .next (answered s src c 0x80 ((after s src).nextG.setWidth 32) []
    (mirror (.gleaning (cHold c) (fld c 288 32)) (modHold (cHold c) (fun x => { x with
      gleanNext := x.gleanNext ++ [(fld c 288 32, (after s src).nextG)] }) (after s src))))

/-- HOLDING FREEZE. -/
abbrev holdingFreezeOk (s : State) (src : AdminSrc) (c : BitVec 512) : Prop :=
  Taken s src c 0x34 false [(32, 0, 8)] ∧ Idle s src ∧ HoldOk s src c

/-- HOLDING FREEZE (R247): the freeze is set for frame G and the command waits for its row-0 boundary; a holding that is being
frozen, or frozen, is answered with its G. -/
def holdingFreeze : Prop := ∀ s src c, holdingFreezeOk s src c →
  ((named s src c).freeze = none → exec (.holdingFreeze src) s = .next (waiting s src c (.freeze (cHold c) (after s src).nextG)
    (modHold (cHold c) (fun x => { x with freeze := some { frame := (after s src).nextG, reached := false,
                                                           seed := (after s src).free } })
      { after s src with free := (after s src).free + 1 }))) ∧
  (∀ z, (named s src c).freeze = some z → exec (.holdingFreeze src) s =
    .next (answered s src c 0x80 (z.frame.setWidth 32) [] (after s src)))

/-- HOLDING SAVE of a frozen holding without unfinished entries, into a buffer that is large enough. -/
abbrev holdingSaveOk (s : State) (src : AdminSrc) (c : BitVec 512) : Prop :=
  Taken s src c 0x35 false [(32, 0, 8), (40, 0, 64), (48, 0, 32)] ∧ Idle s src ∧ HoldOk s src c
    ∧ (after s src).frozen (cHold c) = true ∧ (after s src).unfinished (cHold c) = false
    ∧ imageLength (saveImage (cHold c) (after s src)) ≤ cf c 48 0 32

/-- HOLDING SAVE (R248, R249): the holding's contexts are written back, its image, closed by the SHA-256 digest of the bytes
before it, is written to the address given, and the holding counts as saved; dword2 is the image's length. Section 8 is
recorded with the freeze, so a second save of it writes the same records. -/
def holdingSave : Prop := ∀ s src c, holdingSaveOk s src c →
  let m := saveImage (cHold c) (after s src)
  exec (.holdingSave src) s = .next (answered s src c 0x80 (BitVec.ofNat 32 (imageLength m)) []
    (modHold (cHold c) (fun x => { x with freeze := x.freeze.map fun z => { z with saved := true, seqs := some m.seqs } })
      (hostWrite (cHold c) (fld c 320 64) (imageBytesOf { m with digest := sha256 (imageBody m) }) false
        (writeBackAll (cHold c) (after s src)))))

/-- The engine once HOLDING RESTORE has read the image for the holding named. -/
abbrev restoring (s : State) (src : AdminSrc) (c : BitVec 512) : Engine :=
  having (cHold c) (fld c 320 64) (cf c 48 0 32) (.save (cHold c)) s src

/-- HOLDING RESTORE: the image was read; where its digest agrees, it names only what the target has, and the target is empty
with quotas that hold it (R250). -/
abbrev holdingRestoreOk (s : State) (src : AdminSrc) (c : BitVec 512) (m : SaveImage) : Prop :=
  Taken s src c 0x36 false [(32, 0, 8), (40, 0, 64), (48, 0, 32)] ∧ Idle s src ∧ HoldOk s src c
    ∧ (restoring s src c).held (cHold c) = false ∧ m.version = 1 ∧ (restoring s src c).imageOwned (cHold c) m = true
    ∧ (restoring s src c).occupied (cHold c) = false ∧ (restoring s src c).imageOver (cHold c) m = false

/-- HOLDING RESTORE (R250): with a digest that agrees, the image's queues, rings, contexts, lists and map are restored and the
holding is frozen; with one that does not, the command ends with 0x88 and nothing is restored. -/
def holdingRestore : Prop := ∀ s src c m, holdingRestoreOk s src c m →
  (m.digest = sha256 (imageBody m) → exec (.holdingRestore src (some m)) s =
    .next (answered s src c 0x80 0 [] (restoreImage (cHold c) m (restoring s src c)))) ∧
  (m.digest ≠ sha256 (imageBody m) → exec (.holdingRestore src (some m)) s =
    .next (answered s src c 0x88 0 [] (restoring s src c)))

/-- HOLDING THAW of a frozen holding. -/
abbrev holdingThawOk (s : State) (src : AdminSrc) (c : BitVec 512) : Prop :=
  Taken s src c 0x37 false [(32, 0, 8)] ∧ Idle s src ∧ AnyHoldOk s src c ∧ (after s src).frozen (cHold c) = true

/-- HOLDING THAW (R251): the freeze is cleared, the holding's attention log receives entry 0x43, and dword2 is the frame from
which periodic service resumes. -/
def holdingThaw : Prop := ∀ s src c, holdingThawOk s src c → ∃ e,
  exec (.holdingThaw src) s = .next (answered s src c 0x80 ((after s src).nextG.setWidth 32) [] e)
    ∧ e = attn (cHold c) 0x43 0 0 ((after s src).nextG.setWidth 32) 0 false
        (modHold (cHold c) (fun x => { x with freeze := none }) (after s src))

/-! ## Yoke, power, user cores and test commands -/

/-- YOKE CONFIGURE from the PF: lead ports among the yoked ones, no configuration under way. -/
abbrev yokeConfigureOk (s : State) (src : AdminSrc) (c : BitVec 512) : Prop :=
  Taken s src c 0x40 false [(32, 0, 2), (36, 0, 32), (40, 0, 32)] ∧ Idle s src ∧ FromPf src
    ∧ (cYoke c).2.2 &&& ~~~(cYoke c).2.1 = 0 ∧ s.eng.yoke.configuring = none

/-- YOKE CONFIGURE (R265): with a partner of the other seniority that answers over the link, the configuration is sent and takes
effect; without an answer the command waits. -/
def yokeConfigure : Prop := ∀ s src c, yokeConfigureOk s src c →
  (∀ x, s.eng.yoke.link = .up → x ≠ s.eng.senior → exec (.yokeConfigure src (some x)) s = .next (answered s src c 0x80 0 []
    (applyConfig (cYoke c).1 (cYoke c).2.1 (cYoke c).2.2
      (emitYoke (.commons (.configure (cYoke c).1 (cYoke c).2.1 (cYoke c).2.2)) (after s src))))) ∧
  (exec (.yokeConfigure src none) s = .next (waiting s src c .yoke
    (modYoke (fun y => { y with configuring := some (src, (cYoke c).2.1, (cYoke c).2.2) }) (after s src))))

/-- TAKE SUBTREE of a yoked position that has not been asked for, with the link up. -/
abbrev takeSubtreeOk (s : State) (src : AdminSrc) (c : BitVec 512) : Prop :=
  Taken s src c 0x41 false (positionFields c 32) ∧ Idle s src
    ∧ (src.fn ≠ pf → (after s src).ownsBelow src.fn (cLead c) = true)
    ∧ (cf c 32 25 1 ≠ 1 → ∃ v ∈ (after s src).dev? (fld c 256 20), ∃ u ∈ v.hub, u.dual = true)
    ∧ s.eng.yoke.yoked = true ∧ s.eng.yoke.link = .up
    ∧ bitOf s.eng.yoke.yokedPorts ((after s src).leadPort (cLead c)).val = true
    ∧ (s.eng.yoke.handovers.any fun x => x.pos == cLead c && x.asking) = false
    ∧ (after s src).frozenBelow (cLead c) = false

/-- TAKE SUBTREE (R267): a position that this controller leads is answered at once; for another the partner is asked, and the
command waits for the handover. -/
def takeSubtree : Prop := ∀ s src c, takeSubtreeOk s src c →
  ((after s src).leadsPos (cLead c) = true → exec (.takeSubtree src) s = .next (answered s src c 0x80 0 [] (after s src))) ∧
  ((after s src).leadsPos (cLead c) = false → exec (.takeSubtree src) s = .next (waiting s src c (.take (cLead c))
    (toPartner (.request (cLead c)) (modYoke (fun y => { y with
      handovers := y.handovers ++ [{ pos := cLead c, asking := true, granted := false, src := some src }] })
      (after s src)))))

/-- YOKE STATUS is well formed. -/
abbrev yokeStatusOk (s : State) (src : AdminSrc) (c : BitVec 512) : Prop := Taken s src c 0x42 false [] ∧ Idle s src

/-- YOKE STATUS (R280) answers with 32 bytes and changes nothing: byte 1 is the link's state, bytes 4 to 7 the yoked ports,
16 to 19 the takeovers, 24 to 31 the ETC of the last beat. -/
def yokeStatus : Prop := ∀ s src c, yokeStatusOk s src c → ∃ data,
  exec (.yokeStatus src) s = .next (answered s src c 0x80 0 data (after s src)) ∧ data.length = 32
    ∧ slice 1 1 data = leBytes 1 (match s.eng.yoke.link with | .down => 0 | .training => 1 | .up => 2)
    ∧ slice 4 4 data = wordBytes s.eng.yoke.yokedPorts ∧ slice 16 4 data = leBytes 4 s.eng.yoke.takeovers
    ∧ slice 24 8 data = wordBytes s.eng.yoke.lastBeat

/-- POWER STATE from the PF. -/
abbrev powerStateOk (s : State) (src : AdminSrc) (c : BitVec 512) : Prop :=
  Taken s src c 0x48 false ([(32, 0, 8)] ++ if cf c 32 0 8 = 1 then [(36, 0, 32)] else []) ∧ Idle s src ∧ FromPf src ∧ cf c 32 0 8 ≤ 2
    ∧ s.eng.pwr.prep = none ∧ s.eng.pwr.prepDrain = false

/-- POWER STATE (R323, R325). ACTIVE is answered at once. DORMANT, and FALLOW where the watch work fits, begins the preparation
and the command waits; once no started item is left the user cores are asked to sleep. -/
def powerState : Prop := ∀ s src c, powerStateOk s src c →
  (cf c 32 0 8 = 0 → exec (.powerState src) s = .next (answered s src c 0x80 0 [] (after s src))) ∧
  (∀ e, e = (if cf c 32 0 8 = 1 then (watchShort (fld c 288 32) (after s src)).2 else after s src) →
    cf c 32 0 8 ≠ 0 → (cf c 32 0 8 = 1 → (watchShort (fld c 288 32) (after s src)).1 = false) →
    exec (.powerState src) s = .next { s with eng := noted s.eng (advancePrep s.cores (sweepPrep (concludeAdmin src c (.wait
      (beginPrep src (cf c 32 0 8) (if cf c 32 0 8 = 1 then fld c 288 32 else 0) e) .power)))) })

/-- SET RETENTION from the PF. -/
abbrev setRetentionOk (s : State) (src : AdminSrc) (c : BitVec 512) : Prop :=
  Taken s src c 0x49 false [(32, 0, 6), (34, 0, 10)] ∧ Idle s src ∧ FromPf src

/-- SET RETENTION (R336): the retention map is written, and the partner takes it (R265). -/
def setRetention : Prop := ∀ s src c, setRetentionOk s src c →
  exec (.setRetention src) s = .next (answered s src c 0x80 0 [] (mirror (.retention (fld c 256 6) (fld c 272 10))
    { after s src with pwr := { s.eng.pwr with retPlots := fld c 256 6, retL2 := fld c 272 10 } }))

/-- The engine once LOAD USER IMAGE has read the image that it names. -/
abbrev imaging (s : State) (src : AdminSrc) (c : BitVec 512) : Engine :=
  having src.fn (fld c 320 64) (cf c 48 0 32) (.image src.fn) s src

/-- LOAD USER IMAGE from the PF for core n: the image read is whole, of the form of R287, and both cores it writes are
stopped. -/
abbrev loadUserImageOk (s : State) (src : AdminSrc) (c : BitVec 512) (bs : List Byte) (n : CoreId) : Prop :=
  Taken s src c 0x50 false [(32, 0, 8), (40, 0, 64), (48, 0, 32)] ∧ Idle s src ∧ FromPf src
    ∧ userCoreOf (cf c 32 0 8) = some n ∧ (imaging s src c).held pf = false ∧ bs.length = cf c 48 0 32
    ∧ (s.cores.at n).state = .stopped
    ∧ ((userFile bs).header.l2Len ≠ 0 → (s.cores.at 4).state = .stopped ∧ (s.cores.at 5).state = .stopped)
    ∧ (userFile bs).sized (cf c 48 0 32) = true ∧ (userFile bs).formOk n = true

/-- LOAD USER IMAGE (R287, R288, R289, R389): with a signature over the SHA-256 of its bytes that verifies against the operator
key, the core's TCM is zero-filled and written, the L2 segment is written, the header recorded and the core's threads reset;
with one that does not, the command ends with 0x88 and the cores stay as they are. -/
def loadUserImage : Prop := ∀ s src c bs n, loadUserImageOk s src c bs n →
  ((imaging s src c).signedOk (userFile bs) = true → exec (.loadUserImage src (some bs)) s =
    .next { s with eng := noted s.eng (finish src c 0x80 0 [] false (imaging s src c)),
                   cores := takeImage n (userFile bs) s.cores }) ∧
  ((imaging s src c).signedOk (userFile bs) = false → exec (.loadUserImage src (some bs)) s =
    .next (answered s src c 0x88 0 [] (imaging s src c)))

/-- USER CORE CONTROL from the PF asks for an action that the core's state allows (R291); `k` are the cores after it. -/
abbrev userCoreControlOk (s : State) (src : AdminSrc) (c : BitVec 512) (n : CoreId) (k : Cores) : Prop :=
  Taken s src c 0x51 false [(32, 0, 8), (33, 0, 8)] ∧ Idle s src ∧ FromPf src ∧ userCoreOf (cf c 32 0 8) = some n
    ∧ cf c 33 0 8 ≤ 4 ∧ coreAction (after s src) n (cf c 33 0 8) s.cores = some k

/-- USER CORE CONTROL (R291): the core is stopped, started, halted, resumed, or read; dword2 is its state word after that. A
running core that is halted, and a halted one that is resumed, change only their state. -/
def userCoreControl : Prop := ∀ s src c n k, userCoreControlOk s src c n k →
  exec (.userCoreControl src) s = .next { s with
    eng := noted s.eng (finish src c 0x80 (coreWord (k.at n)) [] false (advancePrep k (after s src))),
    cores := settleCores (after s src) k } ∧
  (cf c 33 0 8 = 2 → (s.cores.at n).state = .running ∧ k = modCore n (fun x => { x with state := .halted }) s.cores) ∧
  (cf c 33 0 8 = 3 → (s.cores.at n).state = .halted ∧ k = modCore n (fun x => { x with state := .running }) s.cores) ∧
  (cf c 33 0 8 = 4 → k = s.cores)

/-- TEST CONTROL from the PF with the test block unlocked, parameters in range. -/
abbrev testControlOk (s : State) (src : AdminSrc) (c : BitVec 512) : Prop :=
  Taken s src c 0x58 false [(32, 0, 8), (33, 0, 1), (36, 0, 32), (40, 0, 32)] ∧ Idle s src ∧ FromPf src
    ∧ (after s src).unlocked = true ∧ cf c 32 0 8 ≤ 18
    ∧ (after s src).ctlOk (finOf 19 (cf c 32 0 8)) (fld c 288 32) (fld c 320 32) = true

/-- TEST CONTROL (R402): P1 and P2 of the control are written, then ON. -/
def testControl : Prop := ∀ s src c, testControlOk s src c →
  exec (.testControl src) s = .next (answered s src c 0x80 0 [] (setCtl (finOf 19 (cf c 32 0 8)) (cf c 33 0 1 == 1)
    (modCtl (finOf 19 (cf c 32 0 8)) (fun x => { x with p1 := fld c 288 32, p2 := fld c 320 32 }) (after s src))))

/-- CONTROLLER RESET from the PF with its key. -/
abbrev controllerResetOk (s : State) (src : AdminSrc) (c : BitVec 512) : Prop :=
  Taken s src c 0x5F false [(32, 0, 32)] ∧ Idle s src ∧ FromPf src ∧ cf c 32 0 32 = 0x5F5F

/-- CONTROLLER RESET (R218): fetching stops on every SQ but SQ 0, as a discard stops it (R197), every started item ends with
0x24 before the command is answered, and the reset is coming. -/
def controllerReset : Prop := ∀ s src c, controllerResetOk s src c →
  let e : Engine := { after s src with fw := { s.eng.fw with resetComing := true } }
  exec (.controllerReset src) s = .next (answered s src c 0x80 0 [] (endItems (fun _ => true) 0x24
    (forAll (allFin 64) (fun h e => forAll ((e.hold h).sqs.filter (·.1 != 0)) (fun q => discard h q.1) e) e)))

/-- CONTROLLER RESET TAKES EFFECT (R218, R366): once it is coming and no completion waits to be written, everything is as after
CONTROLLER RESET. -/
def controllerResetTakesEffect : Prop := ∀ s, s.eng.fw.resetComing = true → s.eng.owes = false →
  exec .controllerResetTakesEffect s =
    .next { s with eng := noted s.eng (ctrlReset false s.eng), cores := resetCores s.cores }
/-! ## The mailbox and the work queues -/

/-- The engine once a host read that is outstanding has come back: it is no longer listed, and reads that waited for its
tags are issued (R25, R351). -/
abbrev landed (s : State) (t : ReadTag) : Engine := landRead t s.eng

/-- The write requests that carry bytes to an address: cut at Max_Payload_Size (R349). -/
def writes (s : State) (h : Fn) (addr : Qword) (data : List Byte) : List HostOut :=
  (splitReq (s.eng.pfn h).mps (data.length + 1) addr data.length).map fun x =>
    .write h x.1 (slice (x.1 - addr).toNat x.2 data) false

/-- A write of MBX_GO with its bit and byte set, to a function that can be reached. -/
abbrev mbxGoOk (s : State) (f : Fn) (value : Dword) (be : BitVec 4) : Prop :=
  bitOf value 0 = true ∧ bitOf be 0 = true ∧ s.eng.reachable f = true

/-- MBX_GO (R204). With BUSY 0 the request is latched, BUSY set, DONE cleared and source 384 + f raised (in FALLOW a GO of the
PF also wakes the chip, R333); with BUSY 1 only OVERRUN is set. -/
def mbxGo : Prop := ∀ s f value be, mbxGoOk s f value be →
  ((s.eng.fn f).mbx.busy = true → exec (.mbxGo f value be) s =
    .next { s with eng := noted s.eng (modMbx f (fun m => { m with overrun := true }) s.eng) }) ∧
  ((s.eng.fn f).mbx.busy = false → exec (.mbxGo f value be) s =
    .next { s with eng := noted s.eng (whenE (f == pf && s.eng.pwr.chip == .fallow) (startWake .mailbox)
      (pulse (384 + f.val) (modMbx f (fun m => { m with
        latched := some m.req, taken := false, busy := true, done := false }) s.eng))) })

/-- A PAD stands at the head of the cached entries of an SQ that runs. -/
abbrev padOk (s : State) (f : Fn) (sq : Nat) (q : Sq) (c : Cached) (u : BitVec 256) : Prop :=
  s.eng.front f sq = some (q, c, u) ∧ eOpcode u = 0

/-- PAD (R175, R178): the head moves past it; nothing is started and nothing completes. -/
def pad : Prop := ∀ s f sq q c u, padOk s f sq q c u → ∃ e q',
  exec (.pad f sq) s = .next { s with eng := noted s.eng e } ∧ mget (e.hold f).sqs sq = some q' ∧ q'.cached = q.cached.drop 1
    ∧ q'.head = ringAdv q.head c.units.length q.par.size ∧ q'.started = q.started ∧ q'.batch = q.batch
    ∧ (e.hold f).cqs = (s.eng.hold f).cqs ∧ e.restButReads = s.eng.restButReads

/-- An entry of an opcode stands at the head and may start: not on SQ 0, a FENCE only after every earlier entry has finished,
an item record free (R184, R185, R260). -/
abbrev startOk (s : State) (f : Fn) (sq op : Nat) (q : Sq) (c : Cached) (u : BitVec 256) : Prop :=
  (freeRecords s.eng).front f sq = some (q, c, u) ∧ eOpcode u = op ∧ sq % 4096 ≠ 0
    ∧ (eFence u = true → q.finished = true) ∧ (freeRecords s.eng).itemRoom f = true

/-- The engine with the entry started: popped, in its SQ's batch (R178, R188). -/
abbrev begun (s : State) (f : Fn) (sq : Nat) (c : Cached) (u : BitVec 256) : Engine := startEntry f sq c u (freeRecords s.eng)

/-- How a transfer entry starts (R172, R174, R184, R186). One whose fields R174 does not allow ends with 0x30; one whose target
the lookup of R184 refuses ends with the status that it gives; otherwise an item with its journal record joins the items, and
begins at once unless an earlier item holds its endpoint. -/
def starts (op : Nat) (form : List (BitVec 256) → Option (List (Qword × Nat))) (cmd : Fn → Nat → Instr) : Prop :=
  ∀ s f sq q c u, startOk s f sq op q c u → setupCode (eSetup u) ≠ 2 ∨ op ≠ 3 →
  (c.units.length ≠ eUnits u ∨ form c.units = none →
    exec (cmd f sq) s = .next { s with eng := noted s.eng (endAtStart f sq op q c u 0x30 (begun s f sq c u)) }) ∧
  (∀ l st, c.units.length = eUnits u → form c.units = some l → (freeRecords s.eng).lookup f (eDev u) (eEp u) = some st →
    (begun s f sq c u).lookup f (eDev u) (eEp u) = some st →
    exec (cmd f sq) s = .next { s with eng := noted s.eng (endAtStart f sq op q c u st (begun s f sq c u)) }) ∧
  (∀ l x p, c.units.length = eUnits u → form c.units = some l →
    (freeRecords s.eng).unplaced f (eDev u) (eEp u) = false → (begun s f sq c u).lookup f (eDev u) (eEp u) = none →
    ((begun s f sq c u).hold f).ctxIndex (eDev u) (eEp u) = some x → (begun s f sq c u).plotOf f x = some p →
    let id := (begun s f sq c u).ids
    let i := newItem f sq op q c u id p.val l none
    let e := journalItem i { begun s f sq c u with ids := id + 1, items := (begun s f sq c u).items ++ [i] }
    exec (cmd f sq) s = .next { s with eng := noted s.eng (if ((begun s f sq c u).itemsFor f (eDev u) (eEp u)).isEmpty then beginItem id e else e) })

/-- BULK-IN. -/
def bulkIn : Prop := starts 1 bulkCheck .bulkIn

/-- BULK-OUT. -/
def bulkOut : Prop := starts 2 bulkCheck .bulkOut

/-- CONTROL; a well-formed one of request code 2 ends with 0x32 (R186). -/
def control : Prop := starts 3 controlCheck .control ∧
  ∀ s f sq q c u, startOk s f sq 3 q c u → setupCode (eSetup u) = 2 → c.units.length = eUnits u →
    (controlCheck c.units).isSome = true →
    exec (.control f sq) s = .next { s with eng := noted s.eng (endAtStart f sq 3 q c u 0x32 (begun s f sq c u)) }

/-- A MARK stands at the head, and every earlier entry has finished. -/
abbrev markOk (s : State) (f : Fn) (sq : Nat) (q : Sq) (c : Cached) (u : BitVec 256) : Prop :=
  (freeRecords s.eng).front f sq = some (q, c, u) ∧ eOpcode u = 4 ∧ sq % 4096 ≠ 0 ∧ q.finished = true
    ∧ (freeRecords s.eng).itemRoom f = true

/-- MARK (R185, R174): it finishes where it starts, with 0x00, or with 0x30 when its fields are not as R174 has them. -/
def mark : Prop := ∀ s f sq q c u, markOk s f sq q c u →
  exec (.mark f sq) s = .next { s with eng := noted s.eng (endAtStart f sq 4 q c u (if markCheck c.units then 0x00 else 0x30) (begun s f sq c u)) }

/-- An entry with a reserved opcode stands at the head. -/
abbrev reservedOk (s : State) (f : Fn) (sq : Nat) (q : Sq) (c : Cached) (u : BitVec 256) : Prop :=
  5 ≤ eOpcode u ∧ startOk s f sq (eOpcode u) q c u

/-- RESERVED TRANSFER OPCODE (R172): it completes with 0x30. -/
def reservedTransferOpcode : Prop := ∀ s f sq q c u, reservedOk s f sq q c u →
  exec (.reservedTransferOpcode f sq) s = .next { s with eng := noted s.eng (endAtStart f sq (eOpcode u) q c u 0x30 (begun s f sq c u)) }

/-! ## Polls, fetches, the head mirror, completions -/

/-- The poll interval of an ENABLED SQ expires while polls run and its cache share has room. -/
abbrev pollDueOk (s : State) (f : Fn) (sq : Nat) (q : Sq) : Prop :=
  mget (s.eng.hold f).sqs sq = some q ∧ q.state = .enabled ∧ s.eng.queueOn f = true ∧ q.cachedUnits < 16

/-- POLL DUE (R180, R183): a 32-byte read of the next unseen unit; while the CQ has no free slot, its release word in its
place. -/
def pollDue : Prop := ∀ s f sq q, pollDueOk s f sq q →
  (s.eng.cqRoom f sq q = true → exec (.pollDue f sq) s = .next { s with eng := noted s.eng (hostRead f (q.par.base + BitVec.ofNat 64 (32 * q.next.at_)) 32 (.poll f sq)
      (modSq f sq (fun q => { q with polling := q.polling ++ [q.next] }) s.eng)) }) ∧
  (∀ c, s.eng.cqRoom f sq q = false → mget (s.eng.hold f).cqs (cqKey sq q.par.cq) = some c →
    exec (.pollDue f sq) s = .next { s with eng := noted s.eng (readRelease f (.cq (cqKey sq q.par.cq)) c.par.release s.eng) })

/-- The oldest poll read of an ENABLED SQ returns; it polled the unit at `pos`. -/
abbrev pollReadOk (s : State) (f : Fn) (sq : Nat) (q : Sq) (pos : RingPos) (more : List RingPos) : Prop :=
  s.eng.reading (.poll f sq) = true ∧ mget ((landed s (.poll f sq)).hold f).sqs sq = some q ∧ q.state = .enabled
    ∧ q.polling = pos :: more ∧ (landed s (.poll f sq)).held f = false

/-- POLL READ COMPLETE (R177, R180, R196). The phase expected at the unit polled: the interval is the base one again, and where
that unit is still the next unseen one its entry is seen and its fetch follows. The other phase: the interval grows one step
up to the ceiling. A failed read: a queue fault. -/
def pollReadComplete : Prop := ∀ s f sq q pos more, pollReadOk s f sq q pos more →
  let e := modSq f sq (fun q => { q with polling := more }) (landed s (.poll f sq))
  (∀ u, ePhase u = pos.phase → pos = q.next → exec (.pollReadComplete f sq (some u)) s = .next { s with eng := noted s.eng (fetchIssue f sq (modSq f sq (fun r => { r with
        seen := r.seen ++ [(pos.at_, q.clip pos.at_ (eUnits u), decide (eOpcode u = 0))],
        next := ringAdv pos (q.clip pos.at_ (eUnits u)) r.par.size })
      (modSq f sq (fun r => { r with k := r.par.kb }) e))) }) ∧
  (∀ u, ePhase u = pos.phase → pos ≠ q.next → exec (.pollReadComplete f sq (some u)) s = .next { s with eng := noted s.eng (modSq f sq (fun r => { r with k := r.par.kb }) e) }) ∧
  (∀ u, ePhase u ≠ pos.phase → exec (.pollReadComplete f sq (some u)) s = .next { s with eng := noted s.eng (modSq f sq (fun r => { r with k := if r.par.kb < r.par.kc then min r.par.kc (r.k + 1) else r.k }) e) }) ∧
  exec (.pollReadComplete f sq none) s = .next { s with eng := noted s.eng (queueFault f sq pos.at_ e) }

/-- A fetch read of an SQ returns; it began at unit `start` and covers `len`. -/
abbrev fetchReadOk (s : State) (f : Fn) (sq : Nat) (q : Sq) (start len : Nat) : Prop :=
  s.eng.reading (.fetch f sq) = true ∧ mget ((landed s (.fetch f sq)).hold f).sqs sq = some q ∧ q.refetch = []
    ∧ q.fetching = some (start, len) ∧ (landed s (.fetch f sq)).held f = false

/-- FETCH READ COMPLETE (R177, R182, R183, R196). A failed read is a queue fault. Else the seen entries that the read holds whole
are taken, in order, as far as the CQ has slots, one being reserved for each but a PAD; what else is seen stays seen, and the
next unseen unit is the one behind. -/
def fetchReadComplete : Prop := ∀ s f sq q start len, fetchReadOk s f sq q start len →
  let e := modSq f sq (fun q => { q with fetching := none }) (landed s (.fetch f sq))
  exec (.fetchReadComplete f sq none) s = .next { s with eng := noted s.eng (queueFault f sq start e) } ∧
  (∀ us cq took seen, mget (e.hold f).cqs (cqKey sq q.par.cq) = some cq → sq ≠ 0 →
    walkFetch q start (us.take len) (cq.free (cqKey sq q.par.cq)) 17 0 q.seen [] [] = (took, seen) →
    exec (.fetchReadComplete f sq (some us)) s = .next { s with eng := noted s.eng (fetchIssue f sq (modCq f (cqKey sq q.par.cq) (fun c => { c with reserved :=
          c.reserved + (took.filter fun c => (c.units.head?.map eOpcode) != some 0).length })
        (modSq f sq (fun r => Sq.checkMirror { r with
          cached := r.cached ++ took, seen := seen,
          next := ringAdv { at_ := start, phase := q.phaseAt start }
            ((took.map fun c => c.units.length).sum + (seen.map fun x => x.2.1).sum) q.par.size }) e))) })

/-- The head mirror of an SQ is due. -/
abbrev headMirrorOk (s : State) (f : Fn) (sq : Nat) (q : Sq) : Prop :=
  mget (s.eng.hold f).sqs sq = some q ∧ q.mirrorDue = true

/-- HEAD MIRROR WRITE (R179): the published head and the count of started entries are written to the mirror's address. -/
def headMirrorWrite : Prop := ∀ s f sq q, headMirrorOk s f sq q →
  exec (.headMirrorWrite f sq) s = .next { s with eng := noted s.eng (freeRecords (journalSq f sq { q with
      sinceMirror := 0, mirrorDue := false, mirror := q.head }
    (hostWrite f q.par.headMirror (leBytes 4 (q.head.at_ + 2 ^ 31 * b2n q.head.phase) ++ wordBytes q.started) false
      (modSq f sq (fun _ => { q with sinceMirror := 0, mirrorDue := false, mirror := q.head }) s.eng)))) }

/-- A formed completion waits on a CQ whose positions are known. -/
abbrev completionOk (s : State) (f : Fn) (cq : Nat) (q : Cq) (c : Completion) (rest : List Completion) : Prop :=
  mget (s.eng.hold f).cqs cq = some q ∧ q.probing = false ∧ q.queue = c :: rest ∧ s.eng.fw.fenced = false
    ∧ s.eng.pins.inReset = false ∧ s.eng.held f = false

/-- COMPLETION WRITE (R190, R193): dwords 1 to 3 of the oldest formed completion are written first, then dword0 with its phase,
condition and status, to the CQ's write position, which moves on by one entry. -/
def completionWrite : Prop := ∀ s f cq q c rest, completionOk s f cq q c rest → ∃ e q',
  exec (.completionWrite f cq) s = .next { s with eng := noted s.eng e } ∧ mget (e.hold f).cqs cq = some q'
    ∧ q'.write = ringAdv q.write 1 q.par.size ∧ q'.par = q.par
    ∧ (s.eng.out.host ++
        writes s f (q.par.base + BitVec.ofNat 64 (16 * q.write.at_) + 4)
          (leBytes 4 (c.index % 65536 + 65536 * c.count) ++ wordBytes c.dword2 ++ wordBytes c.tag) ++
        writes s f (q.par.base + BitVec.ofNat 64 (16 * q.write.at_))
          (leBytes 4 (c.dword0 q.write.phase (s.eng.condOf f) (c.fo || q.adopted)))) <+: e.out.host

/-- The moderation time of a CQ with messages passes while completions have been written without one. -/
abbrev moderationOk (s : State) (f : Fn) (cq : Nat) (q : Cq) : Prop :=
  mget (s.eng.hold f).cqs cq = some q ∧ q.par.ien = true ∧ q.par.modTime ≠ 0 ∧ q.sinceMsg ≠ 0

/-- CQ MODERATION TIMEOUT (R194): the message is sent at once, or follows the next completion where one is formed. -/
def cqModerationTimeout : Prop := ∀ s f cq q, moderationOk s f cq q →
  (q.queue = [] → exec (.cqModerationTimeout f cq) s = .next { s with eng := noted s.eng (msix f q.par.vector (modCq f cq (fun q => { q with sinceMsg := 0, msgDue := false }) s.eng)) }) ∧
  (q.queue ≠ [] → exec (.cqModerationTimeout f cq) s = .next { s with eng := noted s.eng (modCq f cq (fun q => { q with msgDue := true }) s.eng) })

/-- MSIX UNMASK (R194, R354): the vector is unmasked; a pending message of a function that is not held is sent, once. -/
def msixUnmask : Prop := ∀ s f v,
  (((s.eng.pfn f).vector v.val).pending = true → s.eng.held f = false → exec (.msixUnmask f v) s = .next { s with eng := noted s.eng (emitHost (.msix f v.val) (modPfn f (withVector v.val
      { (s.eng.pfn f).vector v.val with masked := false, pending := false }) s.eng)) }) ∧
  (((s.eng.pfn f).vector v.val).pending = false → exec (.msixUnmask f v) s = .next { s with eng := noted s.eng (modPfn f (withVector v.val { (s.eng.pfn f).vector v.val with masked := false, pending := false }) s.eng) })

/-- A change of a holding's conditions has no note yet, its message has gone, and CQ 0 has a free slot beside its reserved
ones. -/
abbrev noteOk (s : State) (f : Fn) (q : Cq) : Prop :=
  (s.eng.fn f).note.isSome = true ∧ (s.eng.fn f).condDue = false ∧ mget (s.eng.hold f).cqs 0 = some q
    ∧ q.reserved < ringFree q.par.size q.write q.release ∧ q.par.ien = false

/-- CONDITION NOTE WRITE (R228): an entry with tag 0, status 0x80, the set of conditions in dword2 and the highest one's code
in dword0 is written to CQ 0, whose write position moves on; the position goes to a yoked partner (R260). -/
def conditionNoteWrite : Prop := ∀ s f q, noteOk s f q → ∃ e q',
  exec (.conditionNoteWrite f) s = .next { s with eng := noted s.eng e }
    ∧ e = journal
        (.position { kind := .cq, holding := f, num := 0, issued := q'.write, settled := q'.settled, sequence := 0 })
        (modCq f 0 (fun _ => q') (modFn f (fun x => { x with note := none })
          (hostWrite f (q.par.base + BitVec.ofNat 64 (16 * q.write.at_))
            (leBytes 4 (b2n q.write.phase + 2 * condCode (s.eng.conds f) + 256 * 0x80)) false
            (hostWrite f (q.par.base + BitVec.ofNat 64 (16 * q.write.at_) + 4)
              (leBytes 4 0 ++ wordBytes ((s.eng.conds f).setWidth 32) ++ leBytes 4 0) false
              (modFn f (fun x => { x with condDue := false }) s.eng)))))
    ∧ q'.write = ringAdv q.write 1 q.par.size ∧ q'.par = q.par ∧ q'.queue = q.queue ∧ q'.reserved = q.reserved

/-- A release-word read of a function that is not held returns. -/
abbrev releaseOk (s : State) (f : Fn) (r : RingRef) : Prop :=
  s.eng.reading (.release f r) = true ∧ (landed s (.release f r)).held f = false

/-- RELEASE WORD READ COMPLETE (R151, R193). A CQ's well-formed word frees the entries up to it, and fetches that waited for
a slot go on; a sheaf ring's frees its space; a word that is not well formed frees nothing and leaves entry 0x0019. -/
def releaseWordReadComplete : Prop := ∀ s f,
  (∀ n q w p, releaseOk s f (.cq n) → mget ((landed s (.release f (.cq n))).hold f).cqs n = some q →
    releaseOf w q.par.size 1 = some p →
    exec (.releaseWordReadComplete f (.cq n) (some w)) s = .next { s with eng := noted s.eng (fetchCq f n (modCq f n (fun q => { q with release := p }) (landed s (.release f (.cq n))))) }) ∧
  (∀ n q w, releaseOk s f (.cq n) → mget ((landed s (.release f (.cq n))).hold f).cqs n = some q →
    releaseOf w q.par.size 1 = none →
    exec (.releaseWordReadComplete f (.cq n) (some w)) s = .next { s with eng := noted s.eng (attn f 0x19 0 0 2 (BitVec.ofNat 32 (n % 4096)) false (landed s (.release f (.cq n)))) }) ∧
  (∀ n r w p, releaseOk s f (.sheaf n) → mget ((landed s (.release f (.sheaf n))).hold f).rings n = some r →
    releaseOf w r.par.size 8 = some p →
    exec (.releaseWordReadComplete f (.sheaf n) (some w)) s = .next { s with eng := noted s.eng (modRing f n (fun r => { r with release := p })
        (modRing f n (fun r => { r with reread := r.reread.map fun _ => true }) (landed s (.release f (.sheaf n))))) })

/-- The context read of an item that waits for it returns. -/
abbrev contextOk (s : State) (item : Nat) (i : Item) (x : Nat) : Prop :=
  s.eng.reading (.context item) = true ∧ (landed s (.context item)).item? item = some i ∧ i.id = item ∧ i.jr.status = none
    ∧ i.phase = .waitContext ∧ (landed s (.context item)).held i.jr.holding = false
    ∧ ((landed s (.context item)).hold i.jr.holding).ctxIndex i.jr.dev i.jr.ep = some x

/-- The context that the item goes on with: the one read, with E and HALTED from the records where a fault lost the cached
one (R259). -/
abbrev brings (s : State) (item : Nat) (i : Item) (c : BitVec 256) : BitVec 256 := recordCtx i (landed s (.context item)) c

/-- The engine once the plot that covers the context has cached it, another line being written back and dropped where the cache
is full (R28); none where every line is of a busy endpoint. -/
def cached (s : State) (item : Nat) (i : Item) (x : Nat) (c : BitVec 256) : Option Engine :=
  let c' := brings s item i c
  match (landed s (.context item)).plotOf i.jr.holding x with
  | some p => admitCtx p i.jr.holding x { raw := c', dirty := c' != c } (landed s (.context item))
  | none => some (landed s (.context item))

/-- CONTEXT READ COMPLETE (R184, R212): the context is cached; one that suits the entry gives the item its E and lets it go
on, one that does not ends it with 0x33; a failed read ends it with 0x31. While the cache has no line to give up the context
is read again. -/
def contextReadComplete : Prop := ∀ s item i x, contextOk s item i x →
  (∀ c e, cached s item i x c = some e → ctxSuits (brings s item i c) i.jr.opcode = true →
    ctxDev (brings s item i c) = i.jr.dev → ctxEp (brings s item i c) = i.jr.ep →
    exec (.contextReadComplete item (some c)) s = .next { s with eng := noted s.eng (turns i.jr.holding i.jr.dev i.jr.ep (armItem item (modItem item (fun j => { j with
        jr := { j.jr with seq := ctxE (brings s item i c) } }) (modItem item (fun j => { j with spared := false }) e)))) }) ∧
  (∀ c e, cached s item i x c = some e → ctxSuits (brings s item i c) i.jr.opcode = false →
    exec (.contextReadComplete item (some c)) s = .next { s with eng := noted s.eng (endItem item 0x33 (modItem item (fun j => { j with spared := false }) e)) }) ∧
  (∀ c, cached s item i x c = none → exec (.contextReadComplete item (some c)) s = .next { s with eng := noted s.eng (hostRead i.jr.holding (((landed s (.context item)).hold i.jr.holding).ctxAddr x) 32 (.context item)
      (landed s (.context item))) }) ∧
  exec (.contextReadComplete item none) s =
    .next { s with eng := noted s.eng (endItem item 0x31 (landed s (.context item))) }

/-- The read of an item's OUT data returns. -/
abbrev outDataOk (s : State) (item : Nat) (i : Item) : Prop :=
  s.eng.reading (.outData item) = true ∧ (landed s (.outData item)).item? item = some i ∧ i.jr.status = none
    ∧ i.phase = .waitData ∧ (landed s (.outData item)).held i.jr.holding = false

/-- OUT DATA READ COMPLETE (R191, R266): where this controller runs the item it has its data and is ready; else the data goes to
the controller that runs it, and with that one out of reach but not lost the item ends with 0x23. A failed read ends it with
0x31. -/
def outDataReadComplete : Prop := ∀ s item i, outDataOk s item i →
  let e := landed s (.outData item)
  (∀ d, (i.visiting || e.runsDev i.jr.dev) = true → exec (.outDataReadComplete item (some d)) s =
    .next { s with eng := noted s.eng (modItem item (fun i => { i with phase := .ready, data := d }) e) }) ∧
  (∀ d, (i.visiting || e.runsDev i.jr.dev) = false → (e.yoke.link = .up ∨ e.yoke.partnerLost = true) →
    exec (.outDataReadComplete item (some d)) s = .next { s with eng := noted s.eng (toPartner (.work (.entry i.jr i.setup d)) (modItem item (fun i => { i with phase := .relayed }) e)) }) ∧
  (∀ d, (i.visiting || e.runsDev i.jr.dev) = false → e.yoke.link ≠ .up → e.yoke.partnerLost = false →
    exec (.outDataReadComplete item (some d)) s = .next { s with eng := noted s.eng (endItem item 0x23 e) }) ∧
  exec (.outDataReadComplete item none) s = .next { s with eng := noted s.eng (endItem item 0x31 e) }
/-! ## Frame time -/

/-- The headland of the next frame on a running bus engine. -/
abbrev headlandOk (s : State) : Prop :=
  s.eng.live = true ∧ s.eng.clk.timerOn = true ∧ s.eng.clk.headlandDone = false

/-- A created holding whose periodic work is read at the headland of `f`: a map in force, a plot that walks, neither frozen nor
resetting nor held, with no partner's map. -/
abbrev readsSlot (e : Engine) (f : BitVec 48) (h : Fn) (m : FieldMap) : Prop :=
  (e.hold h).fieldMapNext = none ∧ (e.hold h).fieldMap = some m ∧ e.mapGone h = false ∧ (e.hold h).frozenFor f = false
    ∧ (e.walkers h).isEmpty = false ∧ e.held h = false ∧ e.yoke.yoked = false ∧ (e.hold h).adoptedMap = none

/-- HEADLAND (R29, R102, R103, R119). The rates and round trips of the tree are kept for the frame's admission, and every
created holding's slot entry of the next frame is asked for, once a frame: its plots begin their walks, with one read of 8
bytes at the map's address + 8 times the frame modulo 1,024. -/
def headland : Prop :=
  (∀ s, headlandOk s →
    let f := s.eng.nextFrame
    let kept := s.eng.headPaths.filter (·.1 != f)
    let e := forAll s.eng.created (headlandOf f)
      { s.eng with headPaths := kept.drop (kept.length - 1) ++ [(f, s.eng.allPaths)] }
    exec .headland s = .next { s with eng := noted s.eng { e with clk := { e.clk with headlandDone := true } } }) ∧
  (∀ e f h m, readsSlot e f h m → headlandOf f h e =
    hostRead h (m.addr + BitVec.ofNat 64 (8 * (f.toNat % 1024))) 8 (.slot h false)
      (modHold h (fun x => { x with slotReads := x.slotReads ++ [(false, f)] }) (addWalks h f false none e)))

/-- The engine when a slot entry read for frame `fr` has come. -/
abbrev slotCame (s : State) (f : Fn) (a : Bool) (fr : BitVec 48) : Engine :=
  modHold f (fun y => { y with slotReads := y.slotReads.erase (a, fr) }) (landed s (.slot f a))

/-- A slot entry read for a frame that has not ended returns. -/
abbrev slotOk (s : State) (f : Fn) (a : Bool) (fr : BitVec 48) : Prop :=
  s.eng.reading (.slot f a) = true ∧ ((landed s (.slot f a)).hold f).slotReads.find? (·.1 == a) = some (a, fr)
    ∧ ((slotCame s f a fr).clk.started && decide (fr.toNat < (slotCame s f a fr).clk.frame.toNat)) = false
    ∧ (slotCame s f a fr).mapGone f = false ∧ (slotCame s f a fr).held f = false
    ∧ (slotCame s f a fr).adopts f a = true

/-- SLOT ENTRY READ COMPLETE (R103, R105). A failed read leaves entry 0x0010 and the frame without periodic service, a reserved
bit 0x0012 with argument all ones, and its walks end; VALID clear: nothing is scheduled. Else the entry is latched and every
plot that walks reads its table. -/
def slotEntryReadComplete : Prop := ∀ s f a fr, slotOk s f a fr →
  exec (.slotEntryReadComplete f a none) s = .next { s with eng := noted s.eng (dropFrame f fr a
    (attn f 0x10 0 0 (fr.setWidth 32) 0 false (slotCame s f a fr))) } ∧
  (∀ w, fldN w 1 7 ≠ 0 → exec (.slotEntryReadComplete f a (some w)) s = .next { s with eng := noted s.eng (endWalks f fr a
    (attn f 0x12 0 0 (fr.setWidth 32) 0xFFFFFFFF#32 false (slotCame s f a fr))) }) ∧
  (∀ w, fldN w 1 7 = 0 → bitOf w 0 = false → exec (.slotEntryReadComplete f a (some w)) s =
    .next { s with eng := noted s.eng (endWalks f fr a (slotCame s f a fr)) }) ∧
  (∀ w, fldN w 1 7 = 0 → bitOf w 0 = true → exec (.slotEntryReadComplete f a (some w)) s =
    .next { s with eng := noted s.eng (walkSlot f fr a w
      (modHold f (fun y => { y with latched := y.latched ++ [(a, fr, w)] }) (slotCame s f a fr))) })

/-- A read of a walk returns to a plot that runs. -/
abbrev rowsOk (s : State) (p : PlotId) (a : Bool) (what : Option (Fin 16)) (h : Fn) (w : Walk) : Prop :=
  (s.eng.plot p).stalled = false ∧ (s.eng.plot p).isolated = false ∧ s.eng.reading (.rows p a what) = true
    ∧ ((landed s (.rows p a what)).plot p).holding = h
    ∧ (landed s (.rows p a what)).walkOf p a (what.map (·.val)) = some w
    ∧ (landed s (.rows p a what)).held h = false

/-- ROW LIST READ COMPLETE (R30, R103, R106, R112). A table or a list that comes moves the walk on, a row's list being served
first, but discarded where the row has begun; a row whose list fails is passed with entry 0x0011; a table that fails leaves
the frame without periodic service, with entry 0x0010. -/
def rowListReadComplete : Prop :=
  (∀ s p a h w us, rowsOk s p a none h w → exec (.rowListReadComplete p a none (some us)) s =
    .next { s with eng := noted s.eng (walkOn p w.frame a 17
      (modWalk p w (fun v => { v with table := some (us.flatMap halves) }) (landed s (.rows p a none)))) }) ∧
  (∀ s p a r h w us, rowsOk s p a (some r) h w → exec (.rowListReadComplete p a (some r) (some us)) s =
    .next { s with eng := noted s.eng (walkOn p w.frame a 17 (nextRow p w
      (serveRow p w (if w.late then [] else us) (landed s (.rows p a (some r)))))) }) ∧
  (∀ s p a r h w, rowsOk s p a (some r) h w → exec (.rowListReadComplete p a (some r) none) s =
    .next { s with eng := noted s.eng (walkOn p w.frame a 17 (nextRow p w
      (sayOnce h w.frame 0x11 r.val (BitVec.ofNat 32 r.val) (landed s (.rows p a (some r)))))) }) ∧
  (∀ s p a h w, rowsOk s p a none h w → exec (.rowListReadComplete p a none none) s =
    .next { s with eng := noted s.eng (dropFrame h w.frame a
      (attn h 0x10 0 0 (w.frame.setWidth 32) 0 false (landed s (.rows p a none)))) })

/-- A read of a SOLO-OUT's slot returns. -/
abbrev outSlotOk (s : State) (id : Nat) (d : Staged) (k n : Nat) : Prop :=
  s.eng.reading (.outSlot id) = true ∧ (landed s (.outSlot id)).staged? id = some d ∧ d.phase = .fetchSlot k n
    ∧ (landed s (.outSlot id)).held d.holding = false

/-- OUT SLOT READ COMPLETE (R110). Read 1 gives the generation and the length, read 2 the data, read 3 the generation again. An
even generation that has not changed and a length within the descriptor's make it ready; else it is read again once, then
skipped and counted in the port's counter 5. A failed read is skipped and counted in the holding's counter 7 (R103). -/
def outSlotReadComplete : Prop :=
  (∀ s id d n bs, outSlotOk s id d 1 n → leAt 4 4 bs ≠ 0 → exec (.outSlotReadComplete id (some bs)) s =
    .next { s with eng := noted s.eng (hostRead d.holding (dSlot d.raw + 8) (min (leAt 4 4 bs) 1024) (.outSlot id)
      (modStaged id (fun d => { d with
        gen := BitVec.ofNat 32 (leAt 0 4 bs), slotLen := leAt 4 4 bs, data := [], phase := .fetchSlot 2 n })
        (landed s (.outSlot id)))) }) ∧
  (∀ s id d n bs, outSlotOk s id d 2 n → exec (.outSlotReadComplete id (some bs)) s =
    .next { s with eng := noted s.eng (hostRead d.holding (dSlot d.raw) 4 (.outSlot id) (modStaged id (fun d => { d with
      data := bs, phase := .fetchSlot 3 n }) (landed s (.outSlot id)))) }) ∧
  (∀ s id d n bs, outSlotOk s id d 3 n →
    (leAt 0 4 bs = d.gen.toNat → d.gen.toNat % 2 = 0 → d.slotLen ≤ dLen d.raw →
      exec (.outSlotReadComplete id (some bs)) s =
        .next { s with eng := noted s.eng (modStaged id (fun d => { d with phase := .ready }) (landed s (.outSlot id))) }) ∧
    (leAt 0 4 bs = d.gen.toNat → d.gen.toNat % 2 = 0 → dLen d.raw < d.slotLen →
      exec (.outSlotReadComplete id (some bs)) s =
        .next { s with eng := noted s.eng (doneStaged d (outResult d false 5 (landed s (.outSlot id)))) }) ∧
    (leAt 0 4 bs ≠ d.gen.toNat → exec (.outSlotReadComplete id (some bs)) s =
      .next { s with eng := noted s.eng (if n = 1 then readSlot id 2 (landed s (.outSlot id))
        else doneStaged d (outResult d false 5 (landed s (.outSlot id)))) })) ∧
  (∀ s id d k n, outSlotOk s id d k n → exec (.outSlotReadComplete id none) s =
    .next { s with eng := noted s.eng (doneStaged d (outResult d true 7 (landed s (.outSlot id)))) })

/-- The context read of a staged SOLO descriptor returns. -/
abbrev soloOkay (s : State) (id : Nat) (d : Staged) : Prop :=
  s.eng.reading (.soloContext id) = true ∧ (landed s (.soloContext id)).staged? id = some d ∧ d.phase = .fetchContext
    ∧ (landed s (.soloContext id)).held d.holding = false

/-- SOLO CONTEXT FETCH COMPLETE (R113, R14). A context already cached stands; one that comes is cached, or read again while the
cache has no line for it. One that does not suit the descriptor makes it invalid. A failed read: a SOLO-IN gives a FAILED
sheaf with one record of status 3, a SOLO-OUT is counted (R103). -/
def soloContextFetchComplete : Prop :=
  (∀ s id d c, soloOkay s id d → (d.relayed || ((landed s (.soloContext id)).ctxLine d.holding (dCtx d.raw)).isSome) = true →
    exec (.soloContextFetchComplete id (some c)) s =
      .next { s with eng := noted s.eng (settleFrame d.holding d.frame (soloContext d c (landed s (.soloContext id)))) }) ∧
  (∀ s id d c, soloOkay s id d → (d.relayed || ((landed s (.soloContext id)).ctxLine d.holding (dCtx d.raw)).isSome) = false →
    let kept := admitCtx (finOf 272 d.plot) d.holding (dCtx d.raw) { raw := c, dirty := false } (landed s (.soloContext id))
    (∀ e, kept = some e → exec (.soloContextFetchComplete id (some c)) s =
      .next { s with eng := noted s.eng (settleFrame d.holding d.frame (soloContext d c e)) }) ∧
    (kept = none → exec (.soloContextFetchComplete id (some c)) s = .next { s with eng := noted s.eng (hostRead d.holding
      (((landed s (.soloContext id)).hold d.holding).ctxAddr (dCtx d.raw)) 32 (.soloContext id)
      (landed s (.soloContext id))) })) ∧
  (∀ s id d, soloOkay s id d → dKind d.raw = 2 → exec (.soloContextFetchComplete id none) s =
    .next { s with eng := noted s.eng (doneStaged d (failSolo d true (landed s (.soloContext id)))) }) ∧
  (∀ s id d, soloOkay s id d → dKind d.raw = 3 → exec (.soloContextFetchComplete id none) s =
    .next { s with eng := noted s.eng (doneStaged d (outResult d true 7 (landed s (.soloContext id)))) })

/-- The image of a list that a staged REAP needs returns. -/
abbrev imageOk (s : State) (id : Nat) (d : Staged) (hub : DevNum) (li : Nat) (rest : List (DevNum × Nat)) : Prop :=
  s.eng.reading (.reapImage id) = true ∧ (landed s (.reapImage id)).staged? id = some d ∧ d.toRead = (hub, li) :: rest
    ∧ (landed s (.reapImage id)).held d.holding = false

/-- REAP IMAGE READ COMPLETE (R142): an image that equals the list recorded as planted leads to the next one; one that
differs, a read that fails, and a list that has gone, is an image failure. -/
def reapImageReadComplete : Prop := ∀ s id d hub li rest, imageOk s id d hub li rest →
  let e := landed s (.reapImage id)
  (∀ l bs, e.commons.listAt hub li d.frame = some l → bs = imageBytes l →
    exec (.reapImageReadComplete id (some bs)) s =
      .next { s with eng := noted s.eng (readImages id (modStaged id (fun d => { d with toRead := rest }) e)) }) ∧
  (∀ l bs, e.commons.listAt hub li d.frame = some l → bs ≠ imageBytes l →
    exec (.reapImageReadComplete id (some bs)) s = .next { s with eng := noted s.eng (failImage d e) }) ∧
  (e.commons.listAt hub li d.frame = none → ∀ bs, exec (.reapImageReadComplete id bs) s =
    .next { s with eng := noted s.eng (failImage d e) }) ∧
  exec (.reapImageReadComplete id none) s = .next { s with eng := noted s.eng (failImage d e) }

/-- A row ends while the frame timer runs. -/
abbrev rowOk (s : State) : Prop := s.eng.clk.timerOn = true ∧ s.eng.live = true

/-- ROW BOUNDARY (R29, R100). Within a frame the row advances by one; after row 15, and at the first boundary of the timer, row
0 of the next frame begins. Either way the work of the row that begins is done. -/
def rowBoundary : Prop := ∀ s, rowOk s →
  (s.eng.clk.started = true → s.eng.clk.row ≠ 15 → exec .rowBoundary s = .next { s with eng := noted s.eng (rowWork { s.eng with clk :=
    { s.eng.clk with row := s.eng.clk.row + 1, rowNs := 0, trim := 0 } }) }) ∧
  (s.eng.clk.started = true → s.eng.clk.row = 15 → s.eng.clk.step = none → exec .rowBoundary s = .next { s with eng := noted s.eng (rowWork
    { s.eng with clk := { s.eng.clk with
      frame := s.eng.clk.frame + 1, row := 0, rowNs := 0, trim := 0, headlandDone := false } }) }) ∧
  (s.eng.clk.started = false → s.eng.clk.step = none → exec .rowBoundary s = .next { s with eng := noted s.eng (rowWork { s.eng with clk :=
    { s.eng.clk with row := 0, started := true, rowNs := 0, trim := 0, headlandDone := false } }) })

/-- A run of at least 16 APOLL misses that has not been logged. -/
abbrev apollOk (s : State) (p : PortId) : Prop :=
  16 ≤ (s.eng.port p).apoll.misses ∧ (s.eng.port p).apoll.logged = false

/-- APOLL MISS RUN LOG (R57): one entry of kind 0x000B to the PF, once for the run. -/
def apollMissRunLog : Prop := ∀ s p, apollOk s p → exec (.apollMissRunLog p) s = .next { s with eng := noted s.eng (attn pf 0x0B 0 p.val ((s.eng.port p).apoll.missFrame.setWidth 32) 16 false
    (modPort p (fun t => { t with apoll := { t.apoll with logged := true } }) s.eng)) }

/-- The next frame to retire has ended and nothing of it is left to write. -/
abbrev retireOk (s : State) : Prop :=
  s.eng.live = true ∧ s.eng.clk.started = true ∧ s.eng.clk.nextRetire.toNat < s.eng.clk.frame.toNat
    ∧ s.eng.frameBusy s.eng.clk.nextRetire = false

/-- A command waits for the retirement of a frame up to `f`. -/
def waitsFor (f : BitVec 48) (r : Running) : Bool :=
  match r.wait with
  | .retired g => geMod (f.setWidth 32) (g.setWidth 32)
  | _ => false

/-- FRAME RETIRED ADVANCE (R31, R101, R152, R155): FRAME_RETIRED takes the frame's number and the next frame is the one to
retire; each ring sends its message for the sheaves written, commands that wait for the frame complete, and lists cleared up to
it are forgotten. A frame that has not ended does not retire. -/
def frameRetiredAdvance : Prop :=
  (∀ s, retireOk s →
    let f := s.eng.clk.nextRetire
    let e := { s.eng with clk := { s.eng.clk with retired := f.setWidth 32, nextRetire := f + 1 } }
    let e := forAll e.created (fun h e => forAll (e.hold h).rings (fun r => retireRing h r.1 r.2) e) e
    exec .frameRetiredAdvance s = .next { s with eng := noted s.eng (modCommons (fun c => { c with
        lists := c.lists.filter fun l => match l.gone with
          | some g => !geMod (f.setWidth 32 + 1) (g.setWidth 32)
          | none => true })
      (forAll (e.fw.running.filter (waitsFor f)) (fun _ e => finishWaiting (waitsFor f) 0x80 (e := e)) e)) }) ∧
  (∀ s, s.eng.clk.frame.toNat ≤ s.eng.clk.nextRetire.toNat → exec .frameRetiredAdvance s = .next { s with eng := noted s.eng s.eng })

/-! ## The Cammir bus -/

/-- The arbiter of a port decides on a running bus engine. -/
abbrev arbiterOk (s : State) : Prop := s.eng.live = true ∧ s.eng.clk.timerOn = true ∧ s.eng.clk.started = true

/-- ARBITER DECISION (R121, R122, R124). In one cycle, in this order: the token of the last cycle's grant leaves, regions that
are due close, a grant is made for a token that leaves one LCLK cycle later, waits are counted. With that token outside 2,000 to 62,000 ns of the row, and while the root transmitter is
busy, no grant is made. -/
def arbiterDecision : Prop :=
  (∀ s p half, arbiterOk s →
    let t := s.eng.t + (if half then 2 else 0) + 2
    exec (.arbiterDecision p half) s = .next { s with eng := noted s.eng (treeWork (fun e =>
      countWaits p (decideGrant p t (closeRegions p t (sendGrant p half e)))) s.eng) }) ∧
  (∀ p t e, t < 2000 ∨ 62000 ≤ t ∨ t < (e.port p).arb.txFree → decideGrant p t e = e)

/-- GRANT WITHDRAW (R124): the grant is void; nothing is charged, no grant is counted, and the requester's wait runs on through
its cycle. -/
def grantWithdraw : Prop := ∀ s p,
  (∀ o w, (s.eng.port p).arb.grant = some o → s.eng.requester o = some w → exec (.grantWithdraw p) s =
    .next { s with eng := noted s.eng (modArbSet p w ArbSet.waited (modArb p (fun a => { a with grant := none }) s.eng)) }) ∧
  ((s.eng.port p).arb.grant = none → exec (.grantWithdraw p) s =
    .next { s with eng := noted s.eng (modArb p (fun a => { a with grant := none }) s.eng) })

/-- A staged descriptor of the present row that has not started, whose latest start or whose region has passed. -/
abbrev lateOk (s : State) (id : Nat) (d : Staged) : Prop :=
  s.eng.staged? id = some d ∧ d.phase ≠ .started ∧ d.phase ≠ .away ∧ s.eng.clk.started = true
    ∧ d.frame = s.eng.clk.frame ∧ d.row = s.eng.clk.row
    ∧ (62500 < s.eng.t + d.span
      ∨ 10 * ((s.eng.hold d.holding).reserve[d.port.val].s + (s.eng.hold d.holding).reserve[d.port.val].c) ≤ s.eng.t)

/-- LATEST START PASSED (R126): it is an overrun. -/
def latestStartPassed : Prop := ∀ s id d, lateOk s id d →
  exec (.latestStartPassed id) s = .next { s with eng := noted s.eng (doneStaged d (overrun d s.eng)) }

/-- A port carries packets and no test control is on that drops or corrupts what it receives. -/
abbrev hears (s : State) (p : PortId) : Prop :=
  s.eng.live = true ∧ (s.eng.port p).link.state = .lup ∧ (s.eng.port p).link.scrub = false
    ∧ (s.eng.test.ctls[12].on && bitOf s.eng.test.ctls[12].p2 p.val) = false
    ∧ (s.eng.test.ctls[14].on && bitOf s.eng.test.ctls[14].p2 p.val) = false

/-- A packet of a type whose bytes are well formed with a right CRC. -/
abbrev packetOk (s : State) (p : PortId) (type : Nat) (bytes : List Byte) (k : Packet) : Prop :=
  hears s p ∧ leAt 0 1 bytes = type ∧ parsePacket bytes = some k

/-- How a DATA or handshake is taken (R41, R59, R60, R77): ATTN of a hub is noted; the transaction that it matches ends with
what it says, a type that R59 does not list for it as a failure; with no match the orphan counter counts it; a packet that is
not well formed, or not of the type, is discarded and counted. -/
def replies {α : Type} (type : Nat) (form : DevNum → EpNum → Byte → Bool → α → Packet) (out : α → TxEnd)
    (cmd : PortId → Bool → List Byte → Instr) : Prop :=
  (∀ s p bytes dev ep seq at_ x, packetOk s p type bytes (form dev ep seq at_ x) →
    (∀ t, (((whenE at_ (sawAttn dev)) s.eng).port p).arb.matches dev ep seq = some t →
      exec (cmd p true bytes) s = .next { s with eng := noted s.eng (treeWork (fun e => reply_ p t (out x) (whenE at_ (sawAttn dev) e)) s.eng) }) ∧
    ((((whenE at_ (sawAttn dev)) s.eng).port p).arb.matches dev ep seq = none →
      exec (cmd p true bytes) s = .next { s with eng := noted s.eng (treeWork (fun e => countPort p 1 (whenE at_ (sawAttn dev) e)) s.eng) })) ∧
  (∀ s p valid bytes, hears s p → valid = false ∨ leAt 0 1 bytes ≠ type ∨ parsePacket bytes = none →
    exec (cmd p valid bytes) s = .next { s with eng := noted s.eng (treeWork (discardPacket p) s.eng) })

/-- RECEIVE DATA. -/
def receiveData : Prop := replies 0x10 Packet.data TxEnd.data .receiveData

/-- RECEIVE ACK. -/
def receiveAck : Prop := replies 0x20 Packet.ack (fun _ => TxEnd.ack) .receiveAck

/-- RECEIVE NAK. -/
def receiveNak : Prop := replies 0x21 (fun d ep q a (_ : Unit) => Packet.nak d ep q a) (fun _ => TxEnd.nak) .receiveNak

/-- RECEIVE STALL. -/
def receiveStall : Prop := replies 0x22 Packet.stall (fun f => TxEnd.stall f.toNat) .receiveStall

/-- RECEIVE SHEAF (R60, R144): the REAP with that hub, endpoint, list and serial ends with the payload; with none it is an
orphan. -/
def receiveSheaf : Prop := ∀ s p bytes li hub ep serial at_ x, packetOk s p 0x11 bytes (.sheaf li hub ep serial at_ x) →
  (∀ t, (((whenE at_ (sawAttn hub)) s.eng).port p).arb.reapOf hub ep li serial = some t →
    exec (.receiveSheaf p true bytes) s =
      .next { s with eng := noted s.eng (treeWork (fun e => reply_ p t (.sheaf x) (whenE at_ (sawAttn hub) e)) s.eng) }) ∧
  ((((whenE at_ (sawAttn hub)) s.eng).port p).arb.reapOf hub ep li serial = none →
    exec (.receiveSheaf p true bytes) s =
      .next { s with eng := noted s.eng (treeWork (fun e => countPort p 1 (whenE at_ (sawAttn hub) e)) s.eng) })

/-- An outstanding transaction of a port. -/
abbrev outstanding (s : State) (p : PortId) (tx : Nat) (t : Tx) : Prop :=
  (s.eng.port p).arb.outstanding.find? (·.id == tx) = some t

/-- TRANSACTION TIMEOUT (R65): the transaction, any but a REAP, has had no reply. -/
def transactionTimeout : Prop := ∀ s p tx t, outstanding s p tx t → t.kind ≠ .reap →
  exec (.transactionTimeout p tx) s = .next { s with eng := noted s.eng (treeWork (endTx p t .timeout) s.eng) }

/-- REAP TIMEOUT (R143). -/
def reapTimeout : Prop := ∀ s p tx t, outstanding s p tx t → t.kind = .reap →
  exec (.reapTimeout p tx) s = .next { s with eng := noted s.eng (treeWork (endTx p t .timeout) s.eng) }

/-- An item that had a NAK. -/
abbrev nakOk (s : State) (item : Nat) (i : Item) : Prop :=
  s.eng.item? item = some i ∧ i.active = true ∧ i.phase = .nakWait

/-- NAK REOFFER (R64): the item offers its transaction again; or the commons-control transfer does. -/
def nakReoffer : Prop :=
  (∀ s item i, nakOk s item i → exec (.nakReoffer item) s =
    .next { s with eng := noted s.eng (turns i.jr.holding i.jr.dev i.jr.ep (armItem item s.eng)) }) ∧
  (∀ s item, s.eng.item? item = none → exec (.nakReoffer item) s =
    .next { s with eng := noted s.eng (modXfer item (fun x => { x with nakWait := false }) s.eng) })

/-! ## Sheaf rings and alarms -/

/-- A formed sheaf stands at the front of a ring whose positions are known. -/
abbrev sheafOk (s : State) (f : Fn) (n : Nat) (r : SheafRing) (x : SheafOut) : Prop :=
  mget (s.eng.hold f).rings n = some r ∧ r.queue.head? = some x ∧ r.probing = false ∧ s.eng.fw.fenced = false

/-- The length of a sheaf with its header. -/
abbrev sheafLen (x : SheafOut) : Nat := 32 + x.records.length

/-- The bytes of a ring that a sheaf takes: a PAD before it, itself, an unused tail (R150). -/
abbrev sheafTakes (r : SheafRing) (x : SheafOut) : Nat :=
  (sheafPlace r (sheafLen x)).1 + sheafLen x + (sheafPlace r (sheafLen x)).2

/-- SHEAF WRITE (R149, R150, R151). A sheaf that fits, with no PAD before it, is written at the write position, bytes from 4 on
first, dword0 after them; the ring's sequence advances by one, its lost count is 0 again, and its write position moves past the
sheaf. One that does not fit has the release word read for it once more, and is then dropped: the sequence and the lost count
advance. In the hold after PE_PERST_N it is dropped and its records are counted (R367). -/
def sheafWrite : Prop := ∀ s f n r x, sheafOk s f n r x →
  ((s.eng.fn f).perstHold = false → sheafTakes r x ≤ ringFree r.par.size r.write r.release → (sheafPlace r (sheafLen x)).1 = 0 →
      s.eng.held f = false →
    ∃ e r', exec (.sheafWrite f n) s = .next { s with eng := noted s.eng e } ∧ mget (e.hold f).rings n = some r' ∧ r'.queue = r.queue.drop 1
      ∧ r'.sequence = r.sequence + 1 ∧ r'.lost = 0
      ∧ r'.write = ringAdv r.write (sheafLen x + (sheafPlace r (sheafLen x)).2) r.par.size ∧ r'.par = r.par
      ∧ (s.eng.out.host ++
          writes s f (r.par.base + BitVec.ofNat 64 r.write.at_ + 4)
            ((x.header r.write.phase false r.sequence (sheafLen x) r.lost ++ x.records).drop 4) ++
          writes s f (r.par.base + BitVec.ofNat 64 r.write.at_)
            ((x.header r.write.phase false r.sequence (sheafLen x) r.lost ++ x.records).take 4)) <+: e.out.host) ∧
  ((s.eng.fn f).perstHold = false → sheafTakes r x ≤ ringFree r.par.size r.write r.release →
    exec (.sheafWrite f n) s = .next { s with eng := noted s.eng (putSheafOut f n r x s.eng) }) ∧
  ((s.eng.fn f).perstHold = false → ringFree r.par.size r.write r.release < sheafTakes r x → r.reread ≠ some true →
    s.eng.asked (.release f (.sheaf n)) = false →
    exec (.sheafWrite f n) s = .next { s with eng := noted s.eng (readRelease f (.sheaf n) r.par.release
      (modRing f n (fun r => { r with reread := some false }) s.eng)) }) ∧
  ((s.eng.fn f).perstHold = false → ringFree r.par.size r.write r.release < sheafTakes r x → r.reread ≠ some true →
    s.eng.asked (.release f (.sheaf n)) = true → exec (.sheafWrite f n) s = .next { s with eng := noted s.eng s.eng }) ∧
  ((s.eng.fn f).perstHold = false → ringFree r.par.size r.write r.release < sheafTakes r x → r.reread = some true →
    r.fullLogged = some s.eng.clk.frame →
    exec (.sheafWrite f n) s = .next { s with eng := noted s.eng (countH f 5 (modRing f n (fun r => { r with
      queue := r.queue.drop 1, sequence := r.sequence + 1, lost := r.lost + 1, fullLogged := some s.eng.clk.frame
      reread := none }) s.eng)) }) ∧
  ((s.eng.fn f).perstHold = false → ringFree r.par.size r.write r.release < sheafTakes r x → r.reread = some true →
    r.fullLogged ≠ some s.eng.clk.frame →
    exec (.sheafWrite f n) s = .next { s with eng := noted s.eng (countH f 5 (modRing f n (fun r => { r with
      queue := r.queue.drop 1, sequence := r.sequence + 1, lost := r.lost + 1, fullLogged := some s.eng.clk.frame
      reread := none }) (attn f 0x18 (index := s.eng.frame32) (argument := BitVec.ofNat 32 (n % 256)) (e := s.eng)))) }) ∧
  ((s.eng.fn f).perstHold = true →
    exec (.sheafWrite f n) s = .next { s with eng := noted s.eng (forAll (List.range x.count) (fun _ => countH f 3)
      (modRing f n (fun r => { r with queue := r.queue.drop 1, sequence := r.sequence + 1, lost := r.lost + 1
                                      reread := none }) s.eng)) })

/-- The transfer of a list being replanted has ended. -/
abbrev replantOk (s : State) (id : Nat) (x : Xfer) (hub : DevNum) (li : Nat) (st fl : Byte) : Prop :=
  s.eng.xfer? id = some x ∧ x.purpose = .replant hub li ∧ x.result = some (st, fl)

/-- REPLANT TRANSFER COMPLETE (R145): with status 0 the list is planted again; else the replant has failed. -/
def replantTransferComplete : Prop := ∀ s id x hub li st fl, replantOk s id x hub li st fl →
  exec (.replantTransferComplete id) s = .next { s with eng := noted s.eng (if st = 0 then dropXfer id s.eng else replantFailed hub li (dropXfer id s.eng)) }

/-- An ALARM-SHEAF arrives on a port. -/
abbrev alarmsOk (s : State) (p : PortId) (bytes : List Byte) (c : Bool) (at_ : Bool) (dev : DevNum) (seq : Byte)
    (x : List Byte) : Prop := packetOk s p 0x12 bytes (.alarms c at_ dev seq x)

/-- RECEIVE ALARM-SHEAF (R57, R158): the first that answers the port's latest APOLL is accepted; any other is stale and is
counted. -/
def receiveAlarmSheaf : Prop := ∀ s p bytes c at_ dev seq x, alarmsOk s p bytes c at_ dev seq x →
  let a := (s.eng.port p).apoll
  (a.sent = true → a.accepted = false → a.seq.setWidth 8 = seq → exec (.receiveAlarmSheaf p true bytes) s = .next { s with eng := noted s.eng (treeWork (fun e => whenE at_ (sawAttn dev) (acceptAlarms p (bytes.length + 2) x e)) s.eng) }) ∧
  (a.sent = false ∨ a.accepted = true ∨ a.seq.setWidth 8 ≠ seq → exec (.receiveAlarmSheaf p true bytes) s = .next { s with eng := noted s.eng (treeWork (countPort p 5) s.eng) })

/-- The tracking entry of a device. -/
abbrev tracked (s : State) (dev : DevNum) (t : Track) : Prop := s.eng.commons.tracks.find? (·.dev == dev) = some t

/-- ALARM MUTE (R159): a run of 4,096 counted rows mutes the device, with entry 0x001A to its owner and the PF. -/
def alarmMute : Prop := ∀ s dev t, tracked s dev t → t.muted = false → 4096 ≤ t.run →
  exec (.alarmMute dev) s = .next { s with eng := noted s.eng (logMute 0x1A t (t.code.setWidth 32) (modCommons (fun c => { c with
    tracks := lmod (·.dev == dev) (fun t => { t with muted := true, quiet := 0 }) c.tracks }) s.eng)) }

/-- ALARM UNMUTE (R159): 16 rows without a record unmute it and release its entry, with entry 0x001B. -/
def alarmUnmute : Prop := ∀ s dev t, tracked s dev t → t.muted = true → 16 ≤ t.quiet →
  exec (.alarmUnmute dev) s = .next { s with eng := noted s.eng (logMute 0x1B t 0 (untrack dev s.eng)) }

/-- A formed alarm stands at the front of an alarm ring whose positions are known. -/
abbrev alarmOk (s : State) (f : Fn) (a : Bool) (r : AlarmRing) (x : AlarmOut) : Prop :=
  (if a then (s.eng.hold f).alarmAdopted else (s.eng.hold f).alarmRing) = some r ∧ r.queue.head? = some x
    ∧ r.probing = false ∧ s.eng.fw.fenced = false

/-- ALARM ENTRY WRITE (R165). With a free entry the alarm is written there, dword0 last, LOSS set where alarms were dropped
before it. With none the release word is read for it once more, and the alarm is then dropped and counted. In the hold after
PE_PERST_N it is dropped (R367). -/
def alarmEntryWrite : Prop := ∀ s f a r x, alarmOk s f a r x →
  ((s.eng.fn f).perstHold = false → 1 ≤ ringFree r.par.size r.write r.release → s.eng.held f = false → ∃ e,
    exec (.alarmEntryWrite f a) s = .next { s with eng := noted s.eng e } ∧ e = putAlarmOut f a r x s.eng
      ∧ (s.eng.out.host ++
          writes s f (r.par.base + BitVec.ofNat 64 (16 * r.write.at_) + 4) ((x.bytes r.write.phase r.lost).drop 4) ++
          writes s f (r.par.base + BitVec.ofNat 64 (16 * r.write.at_)) ((x.bytes r.write.phase r.lost).take 4))
        <+: e.out.host) ∧
  ((s.eng.fn f).perstHold = false → ringFree r.par.size r.write r.release = 0 → r.reread ≠ some true →
    exec (.alarmEntryWrite f a) s = .next { s with eng := noted s.eng (rereadFor f (.alarm a) r.par.release
      (modAlarm f a fun r => { r with reread := some false }) s.eng) }) ∧
  ((s.eng.fn f).perstHold = false → ringFree r.par.size r.write r.release = 0 → r.reread = some true →
    exec (.alarmEntryWrite f a) s = .next { s with eng := noted s.eng (dropAlarm f a r x s.eng) }) ∧
  ((s.eng.fn f).perstHold = true →
    exec (.alarmEntryWrite f a) s = .next { s with eng := noted s.eng (countH f 8 (modAlarm f a (fun r => { r with
      queue := r.queue.drop 1, lost := true, wrote := r.wrote && !x.last, reread := none }) s.eng)) })

/-- The filtered level of ALM_IN n changes, outside reset and not behind the fence. -/
abbrev almOk (s : State) (n : Fin 8) (level : Bool) : Prop :=
  bitOf s.eng.pins.alm n.val ≠ level ∧ s.eng.pins.inReset = false ∧ s.eng.fw.fenced = false ∧ s.eng.jtag.holds = false

/-- The engine with the new level. -/
abbrev almLevel (s : State) (n : Fin 8) (level : Bool) : Engine :=
  { s.eng with pins := { s.eng.pins with
    alm := if level then s.eng.pins.alm ||| (1#8 <<< n.val) else s.eng.pins.alm &&& ~~~(1#8 <<< n.val) } }

/-- ALM_IN CHANGE (R163, R332): the level is TRIP_STAT's, source n is raised, and the change is matched against the trip rules
as an alarm of the PF; in DORMANT it is latched for the wake. -/
def almInChange : Prop := ∀ s n level, almOk s n level →
  (s.eng.pwr.chip ≠ .dormant →
    exec (.almInChange n level) s = .next { s with eng := noted s.eng (pulse n.val (almAlarm n level (almLevel s n level))) }) ∧
  (s.eng.pwr.chip = .dormant → exec (.almInChange n level) s = .next { s with eng := noted s.eng (pulse n.val { almLevel s n level with
    pins := { (almLevel s n level).pins with almLatched := s.eng.pins.almLatched ++ [(n, level)] } }) })

/-! ## The tree's upkeep and the root ports -/

/-- A read or clear of a hub's changes has ended. -/
abbrev changeOk (s : State) (id : Nat) (x : Xfer) (st fl : Byte) : Prop :=
  s.eng.fwRuns = true ∧ s.eng.xfer? id = some x ∧ x.result = some (st, fl)

/-- The transfer succeeded with all of its data. -/
abbrev wholeXfer (x : Xfer) (st : Byte) : Prop :=
  (st = 0 ∨ st = 1) ∧ (setupLen x.setup ≤ x.got.length ∨ setupIn x.setup = false)

/-- PORT CHANGE READ COMPLETE (R74, R75, R77): a port's record is kept, its changes are acted on and then exactly those are
cleared; a hub's status leads to the state of each changed port; a clear takes the bits out of the record. One that failed is
dropped, and a wake that waited for it is logged with what is known (R93). -/
def portChangeReadComplete : Prop := ∀ s id x st fl, changeOk s id x st fl →
  (∀ hub port fresh, x.purpose = .portState hub port fresh → wholeXfer x st → exec (.portChangeReadComplete id) s =
    .next { s with eng := noted s.eng (treeWork (portStateRead x hub port fresh) s.eng) }) ∧
  (∀ hub, x.purpose = .hubStatus hub → wholeXfer x st → exec (.portChangeReadComplete id) s =
    .next { s with eng := noted s.eng (treeWork (hubStatusRead x hub) s.eng) }) ∧
  (∀ hub port bits, x.purpose = .clearChange hub port bits → wholeXfer x st → exec (.portChangeReadComplete id) s =
    .next { s with eng := noted s.eng (treeWork (changeCleared x hub port bits) s.eng) }) ∧
  (∀ hub port fresh, x.purpose = .portState hub port fresh → ¬ wholeXfer x st → exec (.portChangeReadComplete id) s =
    .next { s with eng := noted s.eng (treeWork (fun e => wakePort hub port false (dropXfer id e)) s.eng) }) ∧
  (∀ hub, x.purpose = .hubStatus hub → ¬ wholeXfer x st → exec (.portChangeReadComplete id) s =
    .next { s with eng := noted s.eng (treeWork (fun e => wakePorts hub [] (dropXfer id e)) s.eng) }) ∧
  (∀ hub port bits, x.purpose = .clearChange hub port bits → ¬ wholeXfer x st → exec (.portChangeReadComplete id) s =
    .next { s with eng := noted s.eng (treeWork (dropXfer id) s.eng) })

/-- ENUMERATION TRANSFER COMPLETE (R82): the enumeration takes its next step. -/
def enumerationTransferComplete : Prop := ∀ s id n, s.eng.enum? id = some n → s.eng.fwRuns = true →
  exec (.enumerationTransferComplete id) s = .next { s with eng := noted s.eng (treeWork (enumNext n) s.eng) }

/-- A power-on order waits, and one more may go out in this frame. -/
abbrev releaseOrderOk (s : State) (p : PortId) (hub : DevNum) (port : Nat) (src : Option AdminSrc)
    (rest : List (DevNum × Nat × Option AdminSrc)) : Prop :=
  (s.eng.port p).powerOrders = (hub, port, src) :: rest ∧ s.eng.live = true ∧ s.eng.pwr.droop = false
    ∧ (s.eng.port p).ordersSent < (s.eng.port p).stagger ∧ (s.eng.dev? hub).isSome = true

/-- POWER ON ORDER RELEASE (R78): the oldest order goes to its hub and counts in the frame's limit. -/
def powerOnOrderRelease : Prop := ∀ s p hub port src rest, releaseOrderOk s p hub port src rest →
  exec (.powerOnOrderRelease p) s = .next { s with eng := noted s.eng (orderHubPort hub port 1 0 (.portOrder hub port 1 src)
    (modPort p (fun t => { t with ordersSent := t.ordersSent + 1 })
      (modPort p (fun t => { t with powerOrders := rest }) s.eng))) }

/-- A root link in a state. -/
abbrev linkIs (s : State) (p : PortId) (l : LinkState) : Prop := (s.eng.port p).link.state = l

/-- SIDEBAND SCAN (R39, R382): every root port takes its loss-of-signal bit, in port order; not in DORMANT. -/
def sidebandScan : Prop := ∀ s los, s.eng.live = true → s.eng.pwr.chip ≠ .dormant →
  exec (.sidebandScan los) s = .next { s with eng := noted s.eng (treeWork (forAll (allFin 32) fun p => scanPort p (bitOf los p.val)) s.eng) }

/-- SYMBOL LOCK ACQUIRED (R36, R39): in LMEND the link is in LUP again, counted as a recovery; in LTRAIN, LUP, LRESET and LWAKE
the lock is noted; in LDOWN and LQUIET nothing happens. -/
def symbolLockAcquired : Prop := ∀ s p,
  (linkIs s p .lmend → (s.eng.port p).link.scrub = false → exec (.symbolLockAcquired p) s = .next { s with eng := noted s.eng (countPort p 2 (modRh p (fun r => { r with recoveries := r.recoveries + 1 })
      (modLink p (fun l => { l with lock := true, state := .lup }) s.eng))) }) ∧
  (linkIs s p .ltrain ∨ linkIs s p .lwake → exec (.symbolLockAcquired p) s =
    .next { s with eng := noted s.eng (modLink p (fun l => { l with lock := true }) s.eng) }) ∧
  (linkIs s p .ldown ∨ linkIs s p .lquiet → exec (.symbolLockAcquired p) s = .next { s with eng := noted s.eng s.eng })

/-- LOSS OF LOCK (R36, R39, R145, R264): a link in LUP goes to LMEND, its grant is void and its outstanding REAPs fail; on a
shared port that this half leads the partner is asked to take it. In any other state the lock alone is lost. -/
def lossOfLock : Prop := ∀ s p,
  (linkIs s p .lup → (s.eng.shared p && (s.eng.port p).leads) = false →
    exec (.lossOfLock p) s = .next { s with eng := noted s.eng (treeWork (fun e => failReaps p (modArb p
      (fun a => { a with grant := none }) (modLink p (fun l => { l with lock := false, state := .lmend }) e))) s.eng) }) ∧
  (linkIs s p .lup → (s.eng.shared p && (s.eng.port p).leads) = true →
    exec (.lossOfLock p) s = .next { s with eng := noted s.eng (treeWork (fun e => toPartner (.handOver (.port p))
      (failReaps p (modArb p (fun a => { a with grant := none })
        (modLink p (fun l => { l with lock := false, state := .lmend }) e)))) s.eng) }) ∧
  (¬ linkIs s p .lup →
    exec (.lossOfLock p) s = .next { s with eng := noted s.eng (treeWork (modLink p (fun l => { l with lock := false })) s.eng) })

/-- The training of a port that has symbol lock is measured. -/
abbrev measuredOk (s : State) (p : PortId) : Prop := linkIs s p .ltrain ∧ (s.eng.port p).link.lock = true

/-- TRAINING MEASURED (R37, R39): up to 800 ns the link is up with that round-trip time, the rate and the
time of the device behind it are those measured (R58, R70); above, training has failed, counted,
with reason 2. -/
def trainingMeasured : Prop := ∀ s p rtt, measuredOk s p →
  (rtt ≤ 800 → exec (.trainingMeasured p rtt) s = .next { s with eng := noted s.eng (treeWork (fun e => rootChanges p (rhUp p (relink (.root p)
    (modLink p (fun l => { l with state := .lup, rtt, run := 0, holdoff := false }) e)))) s.eng) }) ∧
  (800 < rtt → exec (.trainingMeasured p rtt) s =
    .next { s with eng := noted s.eng (treeWork (fun e => linkDown p 2 rtt (countPort p 10 e)) s.eng) })

/-- TRAINING TRIAL TIMEOUT (R32, R39): from 5,000 Mb/s the lower root rate is tried, from that training has failed with reason
1. -/
def trainingTrialTimeout : Prop := ∀ s p, linkIs s p .ltrain →
  ((s.eng.port p).link.rate = .r5000 → exec (.trainingTrialTimeout p) s =
    .next { s with eng := noted s.eng (modLink p (fun l => { l with rate := .r1250, lock := false }) s.eng) }) ∧
  ((s.eng.port p).link.rate ≠ .r5000 → exec (.trainingTrialTimeout p) s =
    .next { s with eng := noted s.eng (linkDown p 1 0 (countPort p 10 s.eng)) })

/-- LMEND TIMEOUT (R39): the link has failed. -/
def lmendTimeout : Prop := ∀ s p, linkIs s p .lmend → (s.eng.port p).link.scrub = false →
  exec (.lmendTimeout p) s = .next { s with eng := noted s.eng (treeWork (failLink p) s.eng) }

/-- LINK RESET ELAPSED (R39): the link trains. -/
def linkResetElapsed : Prop := ∀ s p, linkIs s p .lreset →
  exec (.linkResetElapsed p) s = .next { s with eng := noted s.eng (modLink p linkTrain s.eng) }

/-- RESUME RECEIVED (R39, R72): a link in LQUIET goes to LWAKE and sends RESUME; a SUSPENDED port is RESUMING, its remote wake
seen. -/
def resumeReceived : Prop := ∀ s p, linkIs s p .lquiet → (s.eng.port p).rh.state = .suspended →
  exec (.resumeReceived p) s = .next { s with eng := noted s.eng (emitWire (.resume p)
    (modRh p (fun r => if r.state == .resuming then { r with wakeSeen := true } else r)
      (modRh p (fun r => if r.state == .suspended then { r with state := .resuming } else r)
        (modLink p (fun l => { l with state := .lwake, byOrder := false }) s.eng)))) }

/-- RESUME DONE (R39, R72): from LWAKE with lock the link is up; a RESUMING port is ENABLED with RESUME_CHG. -/
def resumeDone : Prop := ∀ s p, linkIs s p .lwake → (s.eng.port p).link.lock = true →
  ((s.eng.port p).rh.state = .resuming → exec (.resumeDone p) s = .next { s with eng := noted s.eng (treeWork (fun e => rootChanges p
    (rhChange p chResume (modRh p (fun r => { r with state := .enabled })
      (modLink p (fun l => { l with state := .lup, byOrder := false, run := 0 }) e)))) s.eng) }) ∧
  ((s.eng.port p).rh.state ≠ .resuming → exec (.resumeDone p) s = .next { s with eng := noted s.eng (treeWork (fun e => rootChanges p
      (modLink p (fun l => { l with state := .lup, byOrder := false, run := 0 }) e)) s.eng) })

/-- LWAKE TIMEOUT (R39): the link has failed. -/
def lwakeTimeout : Prop := ∀ s p, linkIs s p .lwake →
  exec (.lwakeTimeout p) s = .next { s with eng := noted s.eng (treeWork (failLink p) s.eng) }

/-- SUSPEND DRAINED (R39, R72): a suspend that waited goes on when nothing is outstanding on the port, ENABLED still. -/
def suspendDrained : Prop := ∀ s p, linkIs s p .lup → (s.eng.port p).link.suspendWait = true →
  (s.eng.port p).rh.state = .enabled → s.eng.portIdle p = true →
  exec (.suspendDrained p) s = .next { s with eng := noted s.eng (linkQuiet p s.eng) }

/-- RETRY HOLDOFF EXPIRY (R39, R407): the hold-off ends; a link that may train does. -/
def retryHoldoffExpiry : Prop := ∀ s p,
  let e := modLink p (fun l => { l with holdoff := false }) s.eng
  ((e.port p).link.mayTrain = true → exec (.retryHoldoffExpiry p) s = .next { s with eng := noted s.eng (modLink p linkTrain e) }) ∧
  ((e.port p).link.mayTrain = false → exec (.retryHoldoffExpiry p) s = .next { s with eng := noted s.eng e })

/-- The debounce time of a port that this controller leads passes with its link up. -/
abbrev debounceOk (s : State) (p : PortId) : Prop :=
  (s.eng.port p).rh.state = .powered ∧ (s.eng.port p).rh.debounce = true ∧ linkIs s p .lup
    ∧ (s.eng.shared p && !(s.eng.port p).leads) = false

/-- DEBOUNCE EXPIRY (R72): the port is DISABLED and CONNECTED, with CONNECT_CHG. -/
def debounceExpiry : Prop := ∀ s p, debounceOk s p → exec (.debounceExpiry p) s = .next { s with eng := noted s.eng (treeWork (fun e =>
  rootChanges p (rhChange p chConnect
    (modRh p (fun r => { r with state := .disabled, connected := true, debounce := false }) e))) s.eng) }

/-- RESETTING TIMEOUT (R72): the port is POWERED, its connection lost. -/
def resettingTimeout : Prop := ∀ s p, (s.eng.port p).rh.state = .resetting → ¬ linkIs s p .lup → ¬ linkIs s p .lreset →
  exec (.resettingTimeout p) s = .next { s with eng := noted s.eng (treeWork (rhBack p) s.eng) }

/-- RESUMING TIMEOUT (R72): the same. -/
def resumingTimeout : Prop := ∀ s p, (s.eng.port p).rh.state = .resuming → ¬ linkIs s p .lup →
  exec (.resumingTimeout p) s = .next { s with eng := noted s.eng (treeWork (rhBack p) s.eng) }

/-- A port with its 8th bounce within 1 s. -/
abbrev quarantineOk (s : State) (p : PortId) : Prop :=
  let r := (s.eng.port p).rh
  (r.state = .powered ∨ r.state = .disabled ∨ r.state = .enabled ∨ r.state = .suspended) ∧ r.quar = false
    ∧ 8 ≤ r.bounceCount s.eng.now

/-- PORT QUARANTINE (R73): QUAR and QUAR_CHG are set and the port is DISABLED. -/
def portQuarantine : Prop := ∀ s p, quarantineOk s p →
  exec (.portQuarantine p) s = .next { s with eng := noted s.eng (treeWork (fun e => rootChanges p (rhQuarantine p e)) s.eng) }

/-! ## Faults and their recovery -/

/-- A plot in service in which a fault is detected. -/
abbrev faultOk (s : State) (p : PlotId) : Prop :=
  let q := s.eng.plot p
  s.eng.live = true ∧ q.powered = true ∧ q.retired = false ∧ q.isolated = false
    ∧ ((s.eng.ctl 17).on && fldN (s.eng.ctl 17).p1 0 9 == p.val) = false

/-- PLOT FAULT DETECTED (R16, R18, R19, R303). Source 64 + strip pulses. A plot that serves is isolated and waits for SPARE; a
spare or free plot is retired with entry 0x0031 to the PF; one that is being cleared is retired and, for a holding that was to
get it, replaced. -/
def plotFaultDetected : Prop := ∀ s p fault, faultOk s p →
  let e := pulse (64 + p.val / 16) s.eng
  ((s.eng.plot p).clearing = false → (s.eng.plot p).allotted = true →
    exec (.plotFaultDetected p fault) s = .next { s with eng := noted s.eng (isolatePlot p e) }) ∧
  ((s.eng.plot p).clearing = false → (s.eng.plot p).allotted = false → exec (.plotFaultDetected p fault) s =
    .next { s with eng := noted s.eng (attn pf 0x31 0 0 (BitVec.ofNat 32 p.val) 0 false (retirePlot p e)) }) ∧
  ((s.eng.plot p).clearing = true → (s.eng.plot p).clearFor = none → exec (.plotFaultDetected p fault) s =
    .next { s with eng := noted s.eng (sweepPlots (s.eng.plot p).holding (attn pf 0x31 0 0 (BitVec.ofNat 32 p.val)
      (BitVec.ofNat 32 (s.eng.plot p).holding.val) false (retirePlot p e))) }) ∧
  (∀ g, (s.eng.plot p).clearing = true → (s.eng.plot p).clearFor = some g → exec (.plotFaultDetected p fault) s =
    .next { s with eng := noted s.eng (sweepPlots (s.eng.plot p).holding (replaceClearing g (attn pf 0x31 0 0
      (BitVec.ofNat 32 p.val) (BitVec.ofNat 32 (s.eng.plot p).holding.val) false (retirePlot p e)))) })

/-- A failed plot of a holding stands first in the list of those that wait. -/
abbrev spareOk (s : State) (p : PlotId) (rest : List PlotId) : Prop :=
  s.eng.toSpare = p :: rest ∧ s.eng.live = true ∧ (s.eng.plot p).allotted = true

/-- SPARE (R20, R258). The first plot that waits moves to the first spare plot, else to the first free one, and is retired; with
neither it is retired and its holding serves on with one plot less. -/
def spare : Prop := ∀ s p rest, spareOk s p rest →
  (∀ n more, s.eng.sparePlots ++ s.eng.freePlots = n :: more →
    exec .spare s = .next { s with eng := noted s.eng (spareTo p n { s.eng with toSpare := rest }) }) ∧
  (s.eng.sparePlots ++ s.eng.freePlots = [] → exec .spare s = .next { s with eng := noted s.eng (spareNone p { s.eng with toSpare := rest }) })

/-- PLOT CLEAR COMPLETE (R16). A plot cleared for a holding is its, with the holding's port set; any other is free. -/
def plotClearComplete : Prop := ∀ s p, (s.eng.plot p).clearing = true →
  (∀ h, (s.eng.plot p).clearFor = some h → exec (.plotClearComplete p) s = .next { s with eng := noted s.eng (sweepPlots (s.eng.plot p).holding (sweepPlots h (modPlot p (fun q => { q with
      clearing := false, clearFor := none, allotted := true, holding := h, ports := (s.eng.hold h).portSet
      base := 0, count := 0, cache := [], walks := [] }) s.eng))) }) ∧
  ((s.eng.plot p).clearFor = none → exec (.plotClearComplete p) s = .next { s with eng := noted s.eng (sweepPlots (s.eng.plot p).holding (modPlot p (fun q => { q with
      clearing := false, allotted := false, holding := pf, base := 0, count := 0, ports := 0, cache := [], walks := [] })
      s.eng)) })

/-- Neither in reset nor fenced. -/
abbrev eccOk (s : State) : Prop := s.eng.pins.inReset = false ∧ s.eng.fw.fenced = false

/-- ECC UNCORRECTABLE (R255). By what held the bits: cached entries are discarded, to be fetched again; a packet is lost; the
sheaf that a buffer held is written as FAILED and the buffer is retired; firmware restarts; a user core takes an access fault
(the value at its address is free, log entry 3); a hub-table entry is enumerated again and a trip rule is disabled with its
outputs tripped, unless a partner's mirror restores them; the half of the journal that belongs to the holding concerned is sent
again. -/
def eccUncorrectable : Prop := ∀ s, eccOk s →
  (∀ f sq, exec (.eccUncorrectable (.entryCache f sq)) s = .next { s with eng := noted s.eng (discard f sq s.eng) }) ∧
  (∀ p, exec (.eccUncorrectable (.portBuffer p)) s = .next { s with eng := noted s.eng (discardPacket p s.eng) }) ∧
  (∀ p n, exec (.eccUncorrectable (.sheafBuffer p n)) s = .next { s with eng := noted s.eng (retireBuffer p n (failBuffer p n s.eng)) }) ∧
  (∀ c, exec (.eccUncorrectable (.firmwareMemory c)) s = .next { s with eng := noted s.eng (firmwareFault c s.eng s.cores).1, cores := (firmwareFault c s.eng s.cores).2 }) ∧
  (∀ c, userCore c = true → executes s.eng s.cores c = true → exec (.eccUncorrectable (.userMemory c false)) s =
    .next { s with eng := noted s.eng (freshValue s.eng).2, cores := (loadFault c (freshValue s.eng).1.toNat s.cores) }) ∧
  (∀ c, userCore c = true → executes s.eng s.cores c = true → exec (.eccUncorrectable (.userMemory c true)) s =
    .next { s with eng := noted s.eng (freshValue s.eng).2, cores := (storeFault c (freshValue s.eng).1.toNat s.cores) }) ∧
  (∀ n, s.eng.yoke.yoked = false → exec (.eccUncorrectable (.hubEntry n)) s = .next { s with eng := noted s.eng (treeWork (failEntry n) s.eng) }) ∧
  (∀ n, s.eng.yoke.yoked = false → exec (.eccUncorrectable (.tripRule n)) s = .next { s with eng := noted s.eng (failRule n s.eng) }) ∧
  (∀ n, s.eng.yoke.yoked = true → exec (.eccUncorrectable (.hubEntry n)) s = .next { s with eng := noted s.eng s.eng }) ∧
  (∀ n, s.eng.yoke.yoked = true → exec (.eccUncorrectable (.tripRule n)) s = .next { s with eng := noted s.eng s.eng }) ∧
  (∀ h, exec (.eccUncorrectable (.journal false h)) s = .next { s with eng := noted s.eng (modYoke (fun y => { y with
    resyncLocal := (y.resyncLocal.filter (· != h)) ++ [h] }) s.eng) }) ∧
  (∀ h, exec (.eccUncorrectable (.journal true h)) s = .next { s with eng := noted s.eng (modYoke (fun y => { y with
    resyncPartner := (y.resyncPartner.filter (· != h)) ++ [h] }) s.eng) })

/-- JOURNAL RESYNC COMPLETE (R255): no holding's half waits to be sent again. -/
def journalResyncComplete : Prop := ∀ s, exec .journalResyncComplete s =
  .next { s with eng := noted s.eng (modYoke (fun y => { y with resyncLocal := [], resyncPartner := [] }) s.eng) }

/-- A fault in the lane of a port whose link is up. -/
abbrev laneOk (s : State) (p : PortId) : Prop := linkIs s p .lup ∨ linkIs s p .lmend

/-- The port's outstanding transactions fail and its grant is void, the time of the fault noted. -/
abbrev laneFailed (p : PortId) (e : Engine) : Engine :=
  failOutstanding p (modArb p (fun a => { a with grant := none })
    (modLink p (fun l => { l with laneFault := some e.now }) e))

/-- PORT LANE FAULT (R256). The port stops for its scrub in LMEND; a second fault within 1 s is a failed link. In any other
state of the link the fault counts as the first of the two, and nothing is outstanding. -/
def portLaneFault : Prop := ∀ s p, laneOk s p →
  ((s.eng.port p).link.laneFault = none → exec (.portLaneFault p) s = .next { s with eng := noted s.eng (treeWork (fun e => modLink p (fun l => { l with state := .lmend, scrub := true }) (laneFailed p e)) s.eng) }) ∧
  (∀ t, (s.eng.port p).link.laneFault = some t → s.eng.now < t + 1000000000 →
    exec (.portLaneFault p) s = .next { s with eng := noted s.eng (treeWork (fun e => failLink p (laneFailed p e)) s.eng) }) ∧
  (∀ t, (s.eng.port p).link.laneFault = some t → t + 1000000000 ≤ s.eng.now →
    exec (.portLaneFault p) s = .next { s with eng := noted s.eng (treeWork (fun e =>
      modLink p (fun l => { l with state := .lmend, scrub := true }) (laneFailed p e)) s.eng) })

/-- PORT LANE FAULT while the link is not up (R256): the fault's time is kept. -/
def portLaneFaultDown : Prop := ∀ s p, ¬ laneOk s p → exec (.portLaneFault p) s =
  .next { s with eng := noted s.eng (treeWork (modLink p (fun l => { l with laneFault := some s.eng.now })) s.eng) }

/-- DATAPATH SCRUB COMPLETE (R256): with its lock held the port is in LUP again, counted as a recovery; else it stays. -/
def datapathScrubComplete : Prop := ∀ s p, (s.eng.port p).link.scrub = true →
  ((s.eng.port p).link.lock = true → linkIs s p .lmend → exec (.datapathScrubComplete p) s = .next { s with eng := noted s.eng (countPort p 2 (modRh p (fun r => { r with recoveries := r.recoveries + 1 })
      (modLink p (fun l => { l with scrub := false, state := if l.state == .lmend then .lup else l.state }) s.eng))) }) ∧
  ((s.eng.port p).link.lock = false → exec (.datapathScrubComplete p) s =
    .next { s with eng := noted s.eng (modLink p (fun l => { l with scrub := false }) s.eng) })

/-- A firmware core that runs stops feeding its watchdog. -/
abbrev watchdogOk (s : State) (c : CoreId) : Prop :=
  userCore c = false ∧ bitOf s.eng.fw.halted c.val = false ∧ s.eng.fw.restarting = false ∧ s.eng.live = true
    ∧ s.eng.pwr.chip = .active

/-- Firmware faults of the last second. -/
abbrev recentFaults (s : State) : List Nat := s.eng.fw.faults.filter fun t => decide (s.eng.now < t + 1000000000)

/-- FIRMWARE WATCHDOG EXPIRY (R257): all firmware cores restart; the fourth fault within 1 s fences the controller. -/
def firmwareWatchdogExpiry : Prop := ∀ s c, watchdogOk s c →
  ((recentFaults s).length < 3 →
    let e := { s.eng with fw := { s.eng.fw with
      faults := recentFaults s ++ [s.eng.now], restarting := true, restartCore := c.val } }
    exec (.firmwareWatchdogExpiry c) s = .next { s with eng := noted s.eng e, cores := (settleCores e (restartCores e s.cores)) }) ∧
  (3 ≤ (recentFaults s).length →
    exec (.firmwareWatchdogExpiry c) s = .next { s with eng := noted s.eng (Machine.fence s.eng), cores := (resetCores s.cores) })

/-- The running commands whose wait ended while firmware was down end now, in the order in which they started (R225). -/
abbrev resumeDue (e : Engine) : Engine := forAll e.fw.running (fun r e =>
  match r.due with
  | some (status, dword2, data, wake) => endCommand r status dword2 data wake e
  | none => e) e

/-- FIRMWARE RESTART COMPLETE (R225): the restart is counted, every holding's log gets entry 0x0042 with the core and the count,
the commands that firmware had taken end where their wait is over, and the root ports' changes are acted on. -/
def firmwareRestartComplete : Prop := ∀ s, s.eng.fw.restarting = true →
  let up := { s.eng with fw := { s.eng.fw with restarting := false, restarts := s.eng.fw.restarts + 1 } }
  exec .firmwareRestartComplete s = .next { s with eng := noted s.eng (treeWork (fun _ => forAll (allFin 32) rootChanges
    (resumeDue (attnAll 0x42 (BitVec.ofNat 32 up.fw.restartCore) (BitVec.ofNat 32 up.fw.restarts) false up))) s.eng) }

/-- PLOT STALL END (R403): the plot goes on, and test control 16 that stalled it clears, also when its plot has failed
meanwhile; of any other plot nothing else changes. -/
def plotStallEnd : Prop := ∀ s p,
  let e := modPlot p (fun q => { q with stalled := false }) s.eng
  (fldN (s.eng.ctl 16).p1 0 9 = p.val → exec (.plotStallEnd p) s = .next { s with eng := noted s.eng (ctlOff 16 e) }) ∧
  (fldN (s.eng.ctl 16).p1 0 9 ≠ p.val → exec (.plotStallEnd p) s = .next { s with eng := noted s.eng e })

/-! ## Reset, boot, clocks, the TAP -/

/-- POR_N ASSERT (R366, R386): everything is reset. -/
def porNAssert : Prop := ∀ s, exec .porNAssert s = .next { s with eng := noted s.eng (ctrlReset true s.eng), cores := (resetCores s.cores) }

/-- PG_AO RISE (R345, R385): the same, the ETC at 0 and EPOCH due to advance, the power manager as at power-on. -/
def pgAoRise : Prop := ∀ s,
  let e := { ctrlReset true s.eng with
    clk := { (ctrlReset true s.eng).clk with etc := 0, epochDue := true }
    pwr := { limitLow := s.eng.pwr.limitLow, throttled := s.eng.pwr.limitLow } }
  exec .pgAoRise s = .next { s with eng := noted s.eng e, cores := resetCores s.cores }

/-- INTERNAL RESET RELEASE (R345, R373, R385, R402): the straps are latched, the test strap unlocks the test block, EPOCH
advances once after a power-on and stays at its end. The power limit's input decides from then on whether the chip is throttled
(R338). -/
def internalResetRelease : Prop := ∀ s b y t, s.eng.pins.inReset = true →
  exec (.internalResetRelease b y t) s = .next { s with eng := noted s.eng { s.eng with
    pins := { s.eng.pins with strapBoot := b, strapYoke := y, strapTestN := t, inReset := false }
    test := { s.eng.test with byStrap := !t }
    pwr := { s.eng.pwr with throttled := s.eng.pwr.limitLow }
    clk := { s.eng.clk with
      epoch := if s.eng.clk.epochDue ∧ s.eng.clk.epoch ≠ 0xFFFFFFFF#32 then s.eng.clk.epoch + 1 else s.eng.clk.epoch
      epochDue := false } } }

/-- The boot ROM runs, and not under strap 0b11 with the test block locked. -/
abbrev bootOk (s : State) : Prop :=
  s.eng.booting = true ∧ ¬ (s.eng.pins.strapBoot = 3 ∧ s.eng.pins.strapTestN = true)

/-- FIRMWARE READY (R338, R357, R387): READY is set, configuration reads succeed, ALIVE toggles, and the bus starts when its
clock is locked; a throttling that began before is logged now. -/
def firmwareReady : Prop := ∀ s, bootOk s →
  let e := startBus (endCrs { s.eng with fw := { s.eng.fw with ready := true }, pins := { s.eng.pins with aliveOn := true } })
  exec .firmwareReady s = .next { s with eng := noted s.eng (if e.pwr.throttled then attnAll 0x45 0 1 false e else e) }

/-- NO VALID IMAGE (R388, R390): the PF can be found, and no command runs. -/
def noValidImage : Prop := ∀ s, s.eng.booting = true →
  exec .noValidImage s = .next { s with eng := noted s.eng (endCrs { s.eng with fw := { s.eng.fw with noImage := true } }) }

/-- ALIVE TOGGLE (R387): only once firmware is ready. -/
def aliveToggle : Prop := ∀ s,
  (s.eng.pins.aliveOn = true → exec .aliveToggle s =
    .next { s with eng := noted s.eng { s.eng with pins := { s.eng.pins with alive := !s.eng.pins.alive } } }) ∧
  (s.eng.pins.aliveOn = false → exec .aliveToggle s = .next { s with eng := noted s.eng s.eng })

/-- PLL LOCK (R380): the clock is locked, and what waited for it starts; in
DORMANT only during the exit. -/
def pllLock : Prop := ∀ s p, s.eng.pins.inReset = false → s.eng.pwr.chip ≠ .dormant ∨ s.eng.pwr.exiting = true →
  exec (.pllLock p) s = .next { s with eng := noted s.eng (startBus { s.eng with clk := setPll p true s.eng.clk }) }

/-- A PLL that was locked loses its lock. -/
abbrev lossOk (s : State) (p : Pll) : Prop :=
  s.eng.pins.inReset = false ∧ s.eng.fw.fenced = false ∧ pllLocked p s.eng.clk = true

/-- PLL LOCK LOSS (R332, R380): the controller fences itself, with that clock unlocked; in DORMANT a clock but ACLK is only
unlocked, and so is CCLK, which R380 does not list, in every state (DEDUCED, log entry 22). -/
def pllLockLoss : Prop := ∀ s p, lossOk s p →
  (p ≠ .cclk → s.eng.pwr.chip ≠ .dormant ∨ p = .aclk → exec (.pllLockLoss p) s =
    .next { s with eng := noted s.eng { Machine.fence s.eng with clk := setPll p false (Machine.fence s.eng).clk }, cores := (resetCores s.cores) }) ∧
  (p = .cclk ∨ s.eng.pwr.chip = .dormant ∧ p ≠ .aclk → exec (.pllLockLoss p) s =
    .next { s with eng := noted s.eng { s.eng with clk := setPll p false s.eng.clk } })

/-- THERMAL SHUTDOWN (R392): at 110 C, or 120 C for the part of the extended range, the controller fences itself. -/
def thermalShutdown : Prop := ∀ s c, s.eng.pins.inReset = false → s.eng.fw.fenced = false →
  ((if Config.extendedTemp then 120 else 110) ≤ c → exec (.thermalShutdown c) s =
    .next { s with eng := noted s.eng (Machine.fence s.eng), cores := (resetCores s.cores) }) ∧
  (c < (if Config.extendedTemp then 120 else 110) → exec (.thermalShutdown c) s = .next { s with eng := noted s.eng s.eng })

/-- FENCE (R272): a yoked controller that cannot beat fences itself, until POR_N; a controller that is not yoked goes on. -/
def fence : Prop := ∀ s, s.eng.pins.inReset = false → s.eng.fw.fenced = false →
  (s.eng.yoke.yoked = true → exec .fence s = .next { s with eng := noted s.eng (Machine.fence s.eng), cores := (resetCores s.cores) }) ∧
  (s.eng.yoke.yoked = false → exec .fence s = .next { s with eng := noted s.eng s.eng })

/-- EXTEST and CLAMP hold the controller as under CONTROLLER RESET with the test strap low; else they are BYPASS (R405, R406). -/
def extest : Prop := ∀ s d,
  (s.eng.pins.strapTestN = false →
    let e := ctrlReset false { s.eng with jtag := { s.eng.jtag with boundary := d } }
    exec (.extest d) s = .next { s with eng := noted s.eng { e with jtag := { e.jtag with instr := .extest, dr := 0, holds := true } }, cores := (resetCores s.cores) }) ∧
  (s.eng.pins.strapTestN = true → exec (.extest d) s =
    .next { s with eng := noted s.eng { s.eng with jtag := { s.eng.jtag with instr := .bypass, dr := 0, holds := false } } })

/-- CLAMP. -/
def clamp : Prop := ∀ s,
  (s.eng.pins.strapTestN = false →
    let e := ctrlReset false s.eng
    exec .clamp s = .next { s with eng := noted s.eng { e with jtag := { e.jtag with instr := .clamp, dr := 0, holds := true } }, cores := (resetCores s.cores) }) ∧
  (s.eng.pins.strapTestN = true → exec .clamp s =
    .next { s with eng := noted s.eng { s.eng with jtag := { s.eng.jtag with instr := .bypass, dr := 0, holds := false } } })

/-- SAMPLE/PRELOAD (R405): the boundary register takes the values shifted in. -/
def samplePreload : Prop := ∀ s d, exec (.samplePreload d) s = .next { s with eng := noted s.eng { s.eng with jtag := { s.eng.jtag with
  boundary := d, instr := .samplePreload, dr := 0, holds := false } } }

/-- IDCODE (R405): the data register reads 0x192084B7. -/
def idcode : Prop := ∀ s, exec .idcode s = .next { s with eng := noted s.eng { s.eng with jtag := { s.eng.jtag with
  instr := .idcode, dr := 0x192084B7#32, holds := false } } }

/-- BYPASS (R405), for any code of no other instruction. -/
def bypass : Prop := ∀ s c, exec (.bypass c) s = .next { s with eng := noted s.eng { s.eng with jtag := { s.eng.jtag with
  instr := .bypass, dr := 0, holds := false } } }

/-- TAP RESET (R405). -/
def tapReset : Prop := ∀ s, exec .tapReset s = .next { s with eng := noted s.eng { s.eng with jtag := { s.eng.jtag with
  instr := .idcode, dr := 0x192084B7#32, holds := false } } }

/-- L2_LOAD is allowed: strap 0b11, the test block unlocked, the boot ROM waiting. -/
abbrev loadOk (s : State) : Prop :=
  s.eng.unlocked = true ∧ s.eng.pins.strapBoot = 3
    ∧ ({ s.eng with jtag := { s.eng.jtag with holds := false } } : Engine).booting = true

/-- L2_LOAD (R405): bits 63 to 32 of the data register go into L2 at the offset in bits 31 to 0; an offset that is not in L2
stops the run, and where it is not allowed it is BYPASS. -/
def l2Load : Prop := ∀ s dr,
  (loadOk s → fldN dr 0 32 + 4 ≤ 2621440 →
    let e := { s.eng with jtag := { s.eng.jtag with instr := .l2Load, dr := 0, holds := false } }
    let k := { s.cores with mem := memPuts s.cores.mem (l2Base + fldN dr 0 32) (leBytes 4 (fldN dr 32 32)) }
    exec (.l2Load dr) s = .next { s with eng := noted s.eng e, cores := k }) ∧
  (loadOk s → 2621440 < fldN dr 0 32 + 4 → exec (.l2Load dr) s = .fault .l2OffsetBeyond) ∧
  (s.eng.unlocked = false ∨ s.eng.pins.strapBoot ≠ 3 → exec (.l2Load dr) s = .next { s with eng := noted s.eng { s.eng with
    jtag := { s.eng.jtag with instr := .bypass, dr := 0, holds := false } } })

/-- OTP_KEY (R389, R405): unlocked, and with no operator key in it, the part takes the key for good; else it is BYPASS. -/
def otpKey : Prop := ∀ s k,
  (s.eng.unlocked = true → s.eng.fw.otp = none → exec (.otpKey k) s = .next { s with eng := noted s.eng { s.eng with
    fw := { s.eng.fw with otp := some k }
    jtag := { s.eng.jtag with instr := .otpKey, dr := 0, holds := false } } }) ∧
  (s.eng.unlocked = false ∨ s.eng.fw.otp.isSome = true → exec (.otpKey k) s = .next { s with eng := noted s.eng { s.eng with
    jtag := { s.eng.jtag with instr := .bypass, dr := 0, holds := false } } })

/-! ## The yoke -/

/-- The yoke's beats, one more sent. -/
abbrev beaten (s : State) : Engine := modYoke (fun y => { y with beats := y.beats + 1 }) s.eng

/-- The heartbeat wire changes level. -/
abbrev toggled (e : Engine) : Engine := { e with pins := { e.pins with hbOut := !e.pins.hbOut } }

/-- A controller that runs, with no beat to be dropped by test control 18. -/
abbrev beatOk (s : State) : Prop :=
  s.eng.live = true ∧ (s.eng.ctl 18).on = false ∧ s.eng.yoke.dropLink = 0 ∧ s.eng.yoke.dropWire = 0

/-- HEARTBEAT SEND (R271): a beat on both paths; with the link not up, or asleep, on the wire alone. -/
def heartbeatSend : Prop := ∀ s, beatOk s →
  (s.eng.pwr.chip = .active → s.eng.yoke.link = .up → exec .heartbeatSend s =
    .next { s with eng := noted s.eng (toggled (emitYoke (.beat (s.eng.yoke.beats + 1)) (beaten s))) }) ∧
  (s.eng.pwr.chip ≠ .active ∨ s.eng.yoke.link ≠ .up → exec .heartbeatSend s = .next { s with eng := noted s.eng (toggled (beaten s)) })

/-- A yoked controller in ACTIVE writes its tally word. -/
abbrev tallyOk (s : State) : Prop :=
  s.eng.live = true ∧ s.eng.yoke.yoked = true ∧ s.eng.pwr.chip = .active

/-- The engine whose tally count is one more. -/
abbrev tallied (s : State) : Engine := modYoke (fun y => { y with tally := y.tally + 1 }) s.eng

/-- The engine once the tally word, the count and EPOCH, is written at the tally address (R272): also while function 0's Bus
Master Enable is clear through PE_PERST_N or FLR (R281, R366). -/
abbrev tallyOut (s : State) : Engine :=
  let word := wordBytes (s.eng.yoke.tally + 1) ++ wordBytes s.eng.clk.epoch
  if s.eng.pcie.bmeLost = true ∧ s.eng.fw.fenced = false then emitHost (.write pf s.eng.yoke.tallyAddr word false) (tallied s)
  else hostWrite pf s.eng.yoke.tallyAddr word false (tallied s)

/-- TALLY WRITE (R262, R272, R281): the count, one more, and EPOCH go to the tally address; a settling read goes out with it
where one is due, and adopted holdings that have come to rest go back. -/
def tallyWrite : Prop := ∀ s, tallyOk s → exec .tallyWrite s =
  .next { s with eng := noted s.eng (forAll (tallyOut s).yoke.returning giveBack (settleDue (tallyOut s))) }

/-- HEARTBEAT RECEIVE (R271, R280): a beat clears the misses of its path, and its time is noted. -/
def heartbeatReceive : Prop := ∀ s,
  (s.eng.yoke.link = .up → exec (.heartbeatReceive .link) s = .next { s with eng := noted s.eng (modYoke (fun y => { y with missLink := 0, lastBeat := s.eng.clk.etc }) s.eng) }) ∧
  exec (.heartbeatReceive .wire) s = .next { s with eng := noted s.eng (modYoke (fun y => { y with
      missWire := 0, lastBeat := s.eng.clk.etc, wireLost := y.wireLost && y.partnerLost }) s.eng) }

/-- HEARTBEAT MISS (R271): the path's misses grow by one, the time of its fourth is noted, and both paths are judged. -/
def heartbeatMiss : Prop := ∀ s, s.eng.pins.inReset = false → s.eng.fw.fenced = false →
  exec (.heartbeatMiss .link) s = .next { s with eng := noted s.eng (treeWork (fun e => judgePaths (modYoke (fun y => { y with
    missLink := y.missLink + 1, linkAt := if y.missLink = 3 then e.now else y.linkAt }) e)) s.eng) } ∧
  exec (.heartbeatMiss .wire) s = .next { s with eng := noted s.eng (treeWork (fun e => judgePaths (modYoke (fun y => { y with
    missWire := y.missWire + 1, wireAt := if y.missWire = 3 then e.now else y.wireAt }) e)) s.eng) }

/-- The read of the partner's tally word returns, in a stage of the takeover. -/
abbrev tallyReadOk (s : State) (t : Takeover) : Prop :=
  s.eng.reading .tally = true ∧ (landed s .tally).held pf = false ∧ (landed s .tally).yoke.takeover = t

/-- TALLY READ COMPLETE (R274, R278): the first value is kept; an equal second one means that the partner has stopped, and it
is adopted; another means that both live. A read that fails is made again. -/
def tallyReadComplete : Prop := ∀ s,
  (∀ w, tallyReadOk s (.firstTally none) → exec (.tallyReadComplete (some w)) s = .next { s with eng := noted s.eng (treeWork (fun e =>
    modYoke (fun y => { y with takeover := .firstTally (some w) }) (landRead .tally e)) s.eng) }) ∧
  (∀ v, tallyReadOk s (.secondTally v) → exec (.tallyReadComplete (some v)) s = .next { s with eng := noted s.eng (treeWork (fun e =>
    adopt (landRead .tally e)) s.eng) }) ∧
  (∀ v w, tallyReadOk s (.secondTally v) → w ≠ v → exec (.tallyReadComplete (some w)) s = .next { s with eng := noted s.eng (treeWork (fun e => split (landRead .tally e)) s.eng) }) ∧
  (∀ v, tallyReadOk s (.firstTally none) ∨ tallyReadOk s (.secondTally v) → exec (.tallyReadComplete none) s = .next { s with
    eng := noted s.eng (treeWork (fun e => hostRead pf (landRead .tally e).yoke.partnerTally 8 .tally (landRead .tally e)) s.eng) })

/-- SECOND TALLY READ (R274): the first value being known, the word is read again. -/
def secondTallyRead : Prop := ∀ s v, s.eng.yoke.takeover = .firstTally (some v) →
  exec .secondTallyRead s = .next { s with eng := noted s.eng (hostRead pf s.eng.yoke.partnerTally 8 .tally
    (modYoke (fun y => { y with takeover := .secondTally v }) s.eng)) }

/-- SETTLE READ COMPLETE (R260, R262): what the read followed has settled, and relayed entries that waited for an item record
start; a failed read settles nothing. -/
def settleReadComplete : Prop := ∀ s, s.eng.reading .settle = true → (landed s .settle).held pf = false →
  exec (.settleReadComplete true) s = .next { s with eng := noted s.eng (runWaiting (settle (landed s .settle))) } ∧
  exec (.settleReadComplete false) s = .next { s with eng := noted s.eng (landed s .settle) }

/-- A probe of an adopted object returns. -/
abbrev probeOk (s : State) (f : Fn) (r : RingRef) : Prop :=
  s.eng.reading (.probe f r) = true ∧ (landed s (.probe f r)).held f = false

/-- PROBE READ COMPLETE (R275): the object that was read takes what the read brought. -/
def probeReadComplete : Prop :=
  (∀ s f n d, probeOk s f (.cq n) → exec (.probeReadComplete f (.cq n) d) s =
    .next { s with eng := noted s.eng (probedCq f n d (landed s (.probe f (.cq n)))) }) ∧
  (∀ s f n d, probeOk s f (.sheaf n) → exec (.probeReadComplete f (.sheaf n) d) s =
    .next { s with eng := noted s.eng (probedRing f n d (landed s (.probe f (.sheaf n)))) }) ∧
  (∀ s f a d, probeOk s f (.alarm a) → exec (.probeReadComplete f (.alarm a) d) s =
    .next { s with eng := noted s.eng (probedAlarm f d (landed s (.probe f (.alarm a)))) })

/-- The pair talks and the partner names a position that is known. -/
abbrev requestOk (s : State) (p : PortId) : Prop :=
  s.eng.yoke.yoked = true ∧ s.eng.yoke.link = .up ∧ bitOf s.eng.yoke.yokedPorts p.val = true

/-- YOKE REQUEST RECEIVE (R264, R267). A position that this controller leads begins to drain; one that it does not lead it asks
for. -/
def yokeRequestReceive : Prop := ∀ s p, requestOk s p → s.eng.yoke.handovers = [] →
  ((s.eng.port p).leads = true → exec (.yokeRequestReceive (.port p)) s = .next { s with eng := noted s.eng (modYoke (fun y => { y with
    handovers := y.handovers ++ [{ pos := .port p, asking := false, granted := false, src := none }] }) s.eng) }) ∧
  ((s.eng.port p).leads = false → exec (.yokeRequestReceive (.port p)) s = .next { s with eng := noted s.eng (askFor (.port p) none s.eng) })

/-- A handover of a port that this controller holds drains, with nothing outstanding below. -/
abbrev drainOk (s : State) (p : PortId) (x : Handover) : Prop :=
  s.eng.yoke.handovers.find? (fun x => x.pos == .port p && !x.asking && !x.granted) = some x
    ∧ s.eng.busyBelow (.port p) = false

/-- HANDOVER DRAINED (R267): contexts below the position are written back; once they have settled they are dropped and the
partner gets its grant; this controller leads the position until the partner reports done. -/
def handoverDrained : Prop := ∀ s p x, drainOk s p x →
  let e := settleDue (writeBackBelow (.port p) s.eng)
  (e.settledBelow (.port p) = false → exec (.handoverDrained (.port p)) s = .next { s with eng := noted s.eng e }) ∧
  (e.settledBelow (.port p) = true → exec (.handoverDrained (.port p)) s = .next { s with eng := noted s.eng (toPartner (.grant (.port p)) (modYoke (fun y => { y with handovers := lmod (· == x) (fun z => { z with granted := true }) y.handovers })
      (dropBelow (.port p) e))) })

/-- A position that this controller has asked for and has not been granted. -/
abbrev askedOk (s : State) (pos : LeadPos) (x : Handover) : Prop :=
  s.eng.yoke.handovers.find? (fun x => x.pos == pos && x.asking && !x.granted) = some x

/-- The request marked as granted. -/
abbrev granted (x : Handover) : Engine → Engine :=
  modYoke fun y => { y with handovers := lmod (· == x) (fun z => { z with granted := true }) y.handovers }

/-- YOKE GRANT RECEIVE (R267): TAKE goes to the dual-upstream hubs of the position, top tier first; with none it is led. -/
def yokeGrantReceive : Prop := ∀ s pos x, askedOk s pos x →
  ((granted x s.eng).duals pos = [] → exec (.yokeGrantReceive pos) s =
    .next { s with eng := noted s.eng (treeWork (fun e => takeDone pos (granted x e)) s.eng) }) ∧
  (∀ d ds, (granted x s.eng).duals pos = d :: ds → exec (.yokeGrantReceive pos) s = .next { s with eng := noted s.eng (treeWork (fun e =>
    addTakes (d :: ds) ((granted x e).leadPort pos) true true (.planned pos) (granted x e)) s.eng) })

/-- YOKE REQUEST TIMEOUT (R263, R264, R268): the junior withdraws its request, and a command that waited for it ends with 0x89;
the senior waits on. A leader whose lost port the partner has not taken ends the work behind it. -/
def yokeRequestTimeout : Prop := ∀ s pos x, askedOk s pos x →
  (s.eng.senior = true → exec (.yokeRequestTimeout pos) s = .next { s with eng := noted s.eng (treeWork id s.eng) }) ∧
  (s.eng.senior = false → x.src = none → exec (.yokeRequestTimeout pos) s = .next { s with eng := noted s.eng (treeWork (fun e =>
    mirror (.withdrawn pos) (modYoke (fun y => { y with handovers := y.handovers.filter (· != x) }) e)) s.eng) }) ∧
  (∀ a, s.eng.senior = false → x.src = some a → exec (.yokeRequestTimeout pos) s = .next { s with eng := noted s.eng (treeWork (fun e =>
    finishWaiting (fun r => r.src == a && r.wait == .take pos) 0x89 (e := mirror (.withdrawn pos)
      (modYoke (fun y => { y with handovers := y.handovers.filter (· != x) }) e))) s.eng) })

/-- A led port whose link is down, which the partner was asked to take and has not taken. -/
abbrev untakenOk (s : State) (p : PortId) : Prop :=
  s.eng.yoke.handovers.find? (fun x => x.pos == .port p && x.asking && !x.granted) = none ∧ s.eng.shared p = true
    ∧ (s.eng.port p).leads = true ∧ (s.eng.port p).link.state = .ldown

/-- YOKE REQUEST TIMEOUT for such a port (R263, R264). -/
def yokeRequestTimeoutUntaken : Prop := ∀ s p, untakenOk s p →
  exec (.yokeRequestTimeout (.port p)) s = .next { s with eng := noted s.eng (treeWork (fun e =>
    modYoke (fun y => { y with handovers := y.handovers.filter fun x => !(x.pos == .port p && !x.asking) }) (loseLink p e)) s.eng) }

/-- The runner with a relayed entry waiting, and the records of settled items free. -/
abbrev arrived (s : State) (w : RelayedWork) : Engine :=
  freeRecords (modYoke (fun y => { y with waitingWork := y.waitingWork ++ [w] }) s.eng)

/-- RELAYED WORK RECEIVE (R260, R266): the runner starts the entry while the holding has an item record left; else it waits.
The runner serves a descriptor. -/
def relayedWorkReceive : Prop := ∀ s, s.eng.linked = true → s.eng.live = true →
  (∀ r u d, (arrived s (.entry r u d)).yoke.waitingWork = [.entry r u d] → (arrived s (.entry r u d)).itemRoom r.holding = true →
    exec (.relayedWorkReceive (.entry r u d)) s = .next { s with eng := noted s.eng (runEntry r u d
      (modYoke (fun y => { y with waitingWork := [] }) (arrived s (.entry r u d)))) }) ∧
  (∀ r u d, (arrived s (.entry r u d)).yoke.waitingWork = [.entry r u d] → (arrived s (.entry r u d)).itemRoom r.holding = false →
    exec (.relayedWorkReceive (.entry r u d)) s = .next { s with eng := noted s.eng (modYoke (fun y => { y with waitingWork := [.entry r u d] }) (arrived s (.entry r u d))) }) ∧
  (∀ h f r i d, exec (.relayedWorkReceive (.descriptor h f r i d)) s = .next { s with eng := noted s.eng (runDescriptor h f r i d s.eng) })

/-- RELAYED RESULT RECEIVE (R266, R274): the home takes it; while the takeover is being decided it is held. -/
def relayedResultReceive : Prop := ∀ s r,
  (s.eng.linked = true → s.eng.yoke.takeover = .none → exec (.relayedResultReceive r) s =
    .next { s with eng := noted s.eng (takeResult r s.eng) }) ∧
  (∀ v, s.eng.yoke.takeover = .firstTally v → exec (.relayedResultReceive r) s =
    .next { s with eng := noted s.eng (modYoke (fun y => { y with heldResults := y.heldResults ++ [r] }) s.eng) })

/-- SHADOW RECORD RECEIVE and JOURNAL RECORD RECEIVE (R260, R265): the records of a linked partner are taken. -/
def shadowRecordReceive : Prop := ∀ s r, s.eng.linked = true →
  exec (.shadowRecordReceive r) s = .next { s with eng := noted s.eng (takeShadow r s.eng) }

/-- The same of the journal. -/
def journalRecordReceive : Prop := ∀ s r, s.eng.linked = true →
  exec (.journalRecordReceive r) s = .next { s with eng := noted s.eng (takeJournal r s.eng) }

/-- COMMONS MIRROR RECEIVE (R27, R265): a change of a linked partner is taken; a configuration also before the pair is one. -/
def commonsMirrorReceive : Prop := ∀ s c,
  (s.eng.linked = true → exec (.commonsMirrorReceive c) s = .next { s with eng := noted s.eng (takeCommons c s.eng) }) ∧
  (∀ y p l, s.eng.yoke.link = .up → s.eng.live = true → exec (.commonsMirrorReceive (.configure y p l)) s =
    .next { s with eng := noted s.eng (takeCommons (.configure y p l) s.eng) })

/-- SLEEP BLOCK RECEIVE (R331): the partner has gone to sleep, and the link is down on purpose. -/
def sleepBlockReceive : Prop := ∀ s, s.eng.linked = true → exec .sleepBlockReceive s =
  .next { s with eng := noted s.eng (setYokeLink .down (modYoke (fun y => { y with partnerSleeps := true }) s.eng)) }

/-- The yoke link of a running controller comes up. -/
abbrev linkUpOk (s : State) : Prop :=
  s.eng.live = true ∧ s.eng.clk.bclk = true ∧ s.eng.pwr.chip = .active ∧ s.eng.yoke.link ≠ .up

/-- The link up, with its latency. -/
abbrev linkedUp (s : State) (l : Nat) : Engine := setYokeLink .up (modYoke (fun y => { y with
  latency := l, missLink := 0, partnerSleeps := false, linkLost := y.linkLost && y.partnerLost }) s.eng)

/-- YOKE LINK UP (R346): the latency is noted; a configured pair's records go to the partner. -/
def yokeLinkUp : Prop := ∀ s l, linkUpOk s → exec (.yokeLinkUp l) s = .next { s with eng := noted s.eng (whenE ((linkedUp s l).yoke.yoked && !(linkedUp s l).yoke.partnerLost) tellAll (linkedUp s l)) }

/-- A junior of a linked pair whose frame timer runs. -/
abbrev juniorOk (s : State) : Prop :=
  s.eng.senior = false ∧ s.eng.linked = true ∧ s.eng.clk.timerOn = true ∧ s.eng.pwr.chip = .active

/-- FRAME MARK RECEIVE (R346): an error above 1 us makes the junior take the senior's count at its next frame boundary; else at
most 2 BCLK cycles are added or dropped, how many being a free value (log entry 3); the senior takes no mark. -/
def frameMarkReceive : Prop :=
  (∀ s f r err, juniorOk s → 1000 < err.natAbs → exec (.frameMarkReceive f r err) s =
    .next { s with eng := noted s.eng { s.eng with clk := { s.eng.clk with step := some (f + 1) } } }) ∧
  (∀ s f r err, juniorOk s → err.natAbs ≤ 1000 → ∃ t : Int, t.natAbs ≤ 2 ∧ 4 * t.natAbs ≤ err.natAbs ∧ (0 < err → t ≤ 0)
    ∧ (err < 0 → 0 ≤ t) ∧ exec (.frameMarkReceive f r err) s =
      .next { s with eng := noted s.eng { s.eng with free := s.eng.free + 1, clk := { s.eng.clk with trim := t } } }) ∧
  (∀ s f r err, s.eng.senior = true → exec (.frameMarkReceive f r err) s = .next { s with eng := noted s.eng s.eng })

/-- YOKE CONFIGURE TIMEOUT (R265): the partner has not answered; the command ends with 0x89. -/
def yokeConfigureTimeout : Prop := ∀ s x, s.eng.yoke.configuring = some x →
  exec .yokeConfigureTimeout s = .next { s with eng := noted s.eng (finishWaiting (fun r => r.src == x.1 && r.wait == .yoke) 0x89
    (e := modYoke (fun y => { y with configuring := none }) s.eng)) }

/-! ## The power manager -/

/-- The engine with another power manager. -/
abbrev withPwr (e : Engine) (p : Pwr) : Engine := { e with pwr := p }

/-- A wake event pends: a wake source, the wake timer, or in FALLOW's commit a GO of the PF. -/
abbrev wakePends (s : State) (m : Nat) : Bool :=
  (allFin 64).any (s.cores.wakes ·) || s.eng.timerDue || (m == 2 && s.eng.pfGo)

/-- CORE WFI (R310, R324). A core that executes waits; core 0 with mode 2 or 3 asks for the commit if cores 1 to 5 are ready,
else NOTREADY is set. -/
def coreWfi : Prop := ∀ s c, executes s.eng s.cores c = true →
  let k := modCore c (fun x => { x with wfi := true }) s.cores
  let e := advancePrep k s.eng
  let m := (e.pwr.mode[c.val]).toNat
  (c.val ≠ 0 ∨ m < 2 → exec (.coreWfi c) s = .next { s with eng := noted s.eng e, cores := (settleCores e k) }) ∧
  (c.val = 0 → 2 ≤ m → othersReady e k = true →
    let e := withPwr e { e.pwr with request := some m }
    exec (.coreWfi c) s = .next { s with eng := noted s.eng e, cores := (settleCores e k) }) ∧
  (c.val = 0 → 2 ≤ m → othersReady e k = false →
    let e := withPwr e { e.pwr with notReady := true }
    exec (.coreWfi c) s = .next { s with eng := noted s.eng e, cores := (settleCores e k) })

/-- POWER COMMIT (R327): with a wake pending the commit is aborted, core 0 goes on and SLEEP_ABORTS advances; with none the
power manager commits, and the cores' registers and the L2 banks that are not retained are lost (R322). -/
def powerCommit : Prop := ∀ s m, s.eng.pwr.request = some m →
  (wakePends s m = true → exec .powerCommit s = .next { s with eng := noted s.eng (abortCommit s.eng), cores := (settleCores (abortCommit s.eng) (modCore 0 (fun x => { x with wfi := false }) s.cores)) }) ∧
  (wakePends s m = false → exec .powerCommit s =
    let e := commit m s.eng
    .next { s with eng := noted s.eng { e with free := e.free + 240 },
                   cores := loseRegs e.free (loseL2 s.eng.pwr.retL2 s.cores) })

/-- ENTRY SEQUENCE END (R328, R342): in DORMANT the clocks stop; a wake that pended meanwhile starts the exit. -/
def entrySequenceEnd : Prop := ∀ s, s.eng.pwr.entering = true →
  let p := { s.eng.pwr with entering := false, pendedWake := none }
  (s.eng.pwr.chip = .dormant → s.eng.pwr.pendedWake = none → exec .entrySequenceEnd s = .next { s with eng := noted s.eng { s.eng with
    pwr := p, clk := { s.eng.clk with pclk := false, lclk := false, bclk := false, cclk := false, tclk := false } } }) ∧
  (s.eng.pwr.chip ≠ .dormant → s.eng.pwr.pendedWake = none → exec .entrySequenceEnd s = .next { s with eng := noted s.eng (withPwr s.eng p) }) ∧
  (∀ w, s.eng.pwr.chip ≠ .dormant → s.eng.pwr.pendedWake = some w → exec .entrySequenceEnd s =
    .next { s with eng := noted s.eng (startExit w (withPwr s.eng p)) })

/-- A wake that pends outside the entry sequence starts the exit, with PE_WAKE_N driven when the link is in L2 (R332) and
PM_PME sent when it is up and the PF in D3hot (R352); during the entry sequence the first one is held for its end (R328). -/
def wakeStarts : Prop := ∀ (src : WakeSrc) (e : Engine), e.pwr.chip ≠ .active → e.pwr.exiting = false →
  (e.pwr.entering = false →
    (startWake src e).pwr.exiting = true ∧ (startWake src e).pwr.wakeSrc = wakeCode src
      ∧ (startWake src e).pwr.leaving = e.pwr.chip
      ∧ (startWake src e).pins.peWake = (e.pins.peWake || e.pcie.link == .l2)
      ∧ (startWake src e).out.host = e.out.host ++ (if e.pcie.link = .l0 ∧ (e.pfn pf).d3 = true then [.pme] else [])) ∧
  (e.pwr.entering = true → e.pwr.pendedWake = none →
    (startWake src e).pwr = { e.pwr with pendedWake := some src }
      ∧ (startWake src e).out.host = e.out.host ++ (if e.pcie.link = .l0 ∧ (e.pfn pf).d3 = true then [.pme] else [])) ∧
  (e.pwr.entering = true → e.pwr.pendedWake ≠ none → startWake src e = e)

/-- WAKE EVENT (R318, R333): in FALLOW or DORMANT, a wake source that pends and has a target, the timer, or in FALLOW the PF's GO, starts
the exit. -/
def wakeEvent : Prop := ∀ s, s.eng.pwr.chip ≠ .active →
  (∀ n, s.cores.wakes n = true → (allFin 6).any (s.cores.eligible (finOf 512 n.val)) = true → exec (.wakeEvent (.source n)) s = .next { s with eng := noted s.eng (startWake (.source n) s.eng) }) ∧
  (s.eng.timerDue = true → exec (.wakeEvent .timer) s = .next { s with eng := noted s.eng (fireTimer s.eng) }) ∧
  (s.eng.pwr.chip = .fallow → s.eng.pfGo = true → exec (.wakeEvent .mailbox) s = .next { s with eng := noted s.eng (startWake .mailbox s.eng) })

/-- The exit sequence has run. -/
abbrev exitOk (s : State) : Prop :=
  s.eng.pwr.exiting = true ∧ s.eng.pwr.gov = [] ∧ (s.eng.pwr.leaving = .dormant → s.eng.allLocked = true)

/-- WAKE EXIT DONE (R319, R334, R335): the chip is ACTIVE, what the watcher holds goes to the CIC, cores 0 to 3 run. -/
def wakeExitDone : Prop := ∀ s, exitOk s →
  let e := treeWork exitDone s.eng
  let k := forCores ((allFin 6).filter fun c => !userCore c) (fun c => modCore c fun x => { x with wfi := false })
    (handOver s.cores)
  exec .wakeExitDone s = .next { s with eng := noted s.eng e, cores := (settleCores e k) }

/-- WATCHER WAKE REQUEST (R310, R318): in FALLOW and DORMANT it wakes the chip; in ACTIVE, where every core that may take the
source sleeps, the lowest of them. -/
def watcherWakeRequest : Prop := ∀ s n c cs, s.cores.wakes n = true →
  ((allFin 6).filter fun c => s.cores.eligible (finOf 512 n.val) c) = c :: cs →
  (s.eng.pwr.chip ≠ .active → exec (.watcherWakeRequest n) s = .next { s with eng := noted s.eng (startWake (.source n) s.eng) }) ∧
  (s.eng.pwr.chip = .active → (c :: cs).any (awake s.eng s.cores ·) = false → s.eng.pwr.request = none →
    exec (.watcherWakeRequest n) s = .next { s with eng := noted s.eng s.eng, cores := (settleCores s.eng (modCore c (fun x => { x with wfi := false }) s.cores)) })

/-- GOVERNOR STEP (R337): in ACTIVE the next step starts; during a droop none does. -/
def governorStep : Prop := ∀ s,
  (s.eng.pwr.droop = false → s.eng.pwr.chip = .active ∨ s.eng.pwr.exiting = true →
    exec .governorStep s = .next { s with eng := noted s.eng (govStep s.eng) }) ∧
  (s.eng.pwr.droop = true → exec .governorStep s = .next { s with eng := noted s.eng s.eng })

/-- VDD DROOP and its recovery (R337). -/
def vddDroop : Prop := ∀ s, exec .vddDroop s = .next { s with eng := noted s.eng (withPwr s.eng { s.eng.pwr with droop := true }) }

/-- Recovery. -/
def vddDroopRecover : Prop := ∀ s, exec .vddDroopRecover s = .next { s with eng := noted s.eng (withPwr s.eng { s.eng.pwr with droop := false }) }

/-- The throttle's threshold in degrees C: 90, or 100 for the part of the extended range (R338). -/
abbrev alertAt : Int := if Config.extendedTemp then 100 else 90

/-- The controller is throttled from now on, with entry 0x0045 in every log. -/
abbrev throttles (e : Engine) (p : Pwr) : Engine := attnAll 0x45 0 1 false (withPwr e { p with throttled := true })

/-- THERM ALERT (R338): above the threshold THERM_ALERT_N is driven and the controller throttled; 3 C below it the pin is let
go; between the two nothing changes. -/
def thermAlert : Prop := ∀ s c, s.eng.pins.inReset = false → s.eng.fw.fenced = false →
  (alertAt < c → s.eng.pwr.throttled = false → exec (.thermAlert c) s =
    .next { s with eng := noted s.eng (throttles s.eng { s.eng.pwr with therm := true }) }) ∧
  (alertAt < c → s.eng.pwr.throttled = true → exec (.thermAlert c) s =
    .next { s with eng := noted s.eng (withPwr s.eng { s.eng.pwr with therm := true }) }) ∧
  (c ≤ alertAt - 3 → exec (.thermAlert c) s = .next { s with eng := noted s.eng (withPwr s.eng { s.eng.pwr with therm := false }) }) ∧
  (alertAt - 3 < c → c ≤ alertAt → exec (.thermAlert c) s = .next { s with eng := noted s.eng s.eng })

/-- PWR_LIMIT CHANGE (R338): low throttles the controller at once. -/
def pwrLimitChange : Prop := ∀ s, s.eng.pins.inReset = false → s.eng.fw.fenced = false → s.eng.pwr.throttled = false →
  exec (.pwrLimitChange true) s = .next { s with eng := noted s.eng (throttles s.eng { s.eng.pwr with limitLow := true }) } ∧
  (s.eng.pwr.therm = false →
    exec (.pwrLimitChange false) s = .next { s with eng := noted s.eng (withPwr s.eng { s.eng.pwr with limitLow := false }) })

/-- THROTTLE END (R338): with both causes gone, throttling ends, with its entry; while one stands it goes on. -/
def throttleEnd : Prop := ∀ s, s.eng.pwr.throttled = true →
  (s.eng.pwr.therm = false → s.eng.pwr.limitLow = false → exec .throttleEnd s =
    .next { s with eng := noted s.eng (attnAll 0x45 0 0 false (withPwr s.eng { s.eng.pwr with throttled := false })) }) ∧
  (s.eng.pwr.therm = true ∨ s.eng.pwr.limitLow = true → exec .throttleEnd s = .next { s with eng := noted s.eng s.eng })

/-- PWR_WAKE FIRE (R341): at its compare value the armed timer fires and is no longer armed; before it nothing happens. -/
def pwrWakeFire : Prop := ∀ s,
  (s.eng.timerDue = true → exec .pwrWakeFire s =
    .next { s with eng := noted s.eng (startWake .timer (withPwr s.eng { s.eng.pwr with wakeArm := false })) }) ∧
  (s.eng.timerDue = false → exec .pwrWakeFire s = .next { s with eng := noted s.eng s.eng })

/-- PWR_WAKE_HI WRITE (R341): a firmware core sets CMP_HI and ARM; a user core's write is ignored and counted. -/
def pwrWakeHiWrite : Prop := ∀ s c v, executes s.eng s.cores c = true →
  (userCore c = false → exec (.pwrWakeHiWrite c v) s =
    .next { s with eng := noted s.eng (withPwr s.eng { s.eng.pwr with wakeHi := fld v 0 31, wakeArm := bitOf v 31 }) }) ∧
  (userCore c = true → exec (.pwrWakeHiWrite c v) s = .next { s with eng := noted s.eng (countDev 6 s.eng) })

/-- PME_TURN_OFF (R332): the PCIe link goes from L0 to L2, source 45 being raised; a wake that pends drives PE_WAKE_N. -/
def pmeTurnOff : Prop := ∀ s, s.eng.pcie.link = .l0 → s.eng.pwr.chip ≠ .dormant →
  exec .pmeTurnOff s = .next { s with eng := noted s.eng (let e := pulse 45 { s.eng with pcie := { s.eng.pcie with link := .l2 } }
    { e with pins := { e.pins with peWake := e.pins.peWake || e.pwr.exiting || e.pwr.pendedWake.isSome } }) }

/-- A preparation that waits for started items. -/
abbrev drainWaits (s : State) : Prop := s.eng.pwr.prepDrain = true

/-- POWER STATE DRAIN TIMEOUT (R325): with a started item left the preparation has failed; with none it goes on. -/
def powerStateDrainTimeout : Prop := ∀ s, drainWaits s →
  ((s.eng.items.all fun i => i.jr.status.isSome) = false → exec .powerStateDrainTimeout s = .next { s with eng := noted s.eng (failPrep s.eng) }) ∧
  ((s.eng.items.all fun i => i.jr.status.isSome) = true → exec .powerStateDrainTimeout s =
    .next { s with eng := noted s.eng (advancePrep s.cores (withPwr s.eng { s.eng.pwr with prepDrain := false, sleep := true })) })

/-- A preparation that has asked the user cores to sleep. -/
abbrev sleepWaits (s : State) : Prop :=
  s.eng.pwr.prep.isSome = true ∧ s.eng.pwr.prepDrain = false ∧ s.eng.pwr.sleep = true ∧ s.eng.pwr.held = none

/-- SLEEP REQUEST TIMEOUT (R325, R326): with a user core still awake the preparation has failed. -/
def sleepRequestTimeout : Prop := ∀ s, sleepWaits s →
  (usersAsleep s.eng s.cores = true → exec .sleepRequestTimeout s = .next { s with eng := noted s.eng (finishPrep s.eng) }) ∧
  (usersAsleep s.eng s.cores = false → exec .sleepRequestTimeout s = .next { s with eng := noted s.eng (failPrep s.eng) })

/-! ## The interrupt controller -/

/-- A core that executes instructions. -/
abbrev runs (s : State) (c : CoreId) : Prop := executes s.eng s.cores c = true

/-- What an event of a source does: while the CIC is off, to the sources 0 to 63 that the watcher holds. -/
abbrev held (s : State) (n : SrcId) : Prop := s.eng.pwr.chip ≠ .active ∧ n.val < 64

/-- CIC PULSE EVENT (R305, R307, R319): a pulse source pends and is counted; while the CIC is off the watcher holds it. -/
def cicPulseEvent : Prop := ∀ s n, s.eng.pulses.contains n.val = true → isReserved n = false →
    isLevel n = false →
  let e := { s.eng with pulses := s.eng.pulses.erase n.val }
  (¬ held s n → exec (.cicPulseEvent n) s = .next { s with eng := noted s.eng e, cores := (settleCores e (pend e.now n s.cores)) }) ∧
  (held s n → exec (.cicPulseEvent n) s = .next { s with eng := noted s.eng e, cores := (watchHold s.eng.now n true s.cores) })

/-- A level source whose input rises. -/
abbrev riseOk (s : State) (n : SrcId) : Prop :=
  isLevel n = true ∧ s.eng.level n = true ∧ (s.cores.s n).level = false

/-- CIC LEVEL RISE (R304, R307, R319): the source pends; one that pends already is not counted again. While the CIC is off the
watcher holds it. -/
def cicLevelRise : Prop := ∀ s n, riseOk s n →
  let k := modSrc n (fun x => { x with level := true }) s.cores
  (¬ held s n → (s.cores.s n).pending = false →
    exec (.cicLevelRise n) s = .next { s with cores := settleCores s.eng (pend s.eng.now n k) }) ∧
  (¬ held s n → (s.cores.s n).pending = true → exec (.cicLevelRise n) s = .next { s with cores := settleCores s.eng k }) ∧
  (held s n → exec (.cicLevelRise n) s =
    .next { s with cores := watchHold s.eng.now n (!(bitOf s.cores.wPend n.val || (s.cores.s n).pending)) k })

/-- A level source whose input falls. -/
abbrev fallOk (s : State) (n : SrcId) : Prop :=
  isLevel n = true ∧ s.eng.level n = false ∧ (s.cores.s n).level = true

/-- CIC LEVEL FALL (R304, R307): it no longer pends, in the CIC or in the watcher. -/
def cicLevelFall : Prop := ∀ s n, fallOk s n →
  let k := modSrc n (fun x => { x with level := false, pending := false }) s.cores
  (¬ held s n → exec (.cicLevelFall n) s = .next { s with cores := settleCores s.eng k }) ∧
  (held s n → exec (.cicLevelFall n) s = .next { s with cores := { k with wPend := k.wPend &&& ~~~(1#64 <<< n.val) } })

/-- CIC CLAIM (R309, R313). The core reads its highest-ranked deliverable source, with its count and level, which becomes
ACTIVE; with none it reads 1023; the claim register of another core is a load access fault. -/
def cicClaim : Prop := ∀ s c, runs s c →
  (∀ n, bestSource s.eng s.cores c = some n → exec (.cicClaim c c) s =
    let e := { s.eng with readValue := BitVec.setWidth 64 (BitVec.ofNat 32 (n.val
      + 65536 * (s.cores.s n).count.toNat + 2 ^ 24 * b2n (s.eng.level n))) }
    .next { s with eng := noted s.eng e, cores := settleCores e (claim c n s.cores) }) ∧
  (bestSource s.eng s.cores c = none → exec (.cicClaim c c) s = .next { s with eng := noted s.eng { s.eng with readValue := 1023 } }) ∧
  (∀ d, d ≠ c → exec (.cicClaim d c) s = .next { s with cores := (loadFault c (0x40004000 + 16 * d.val) s.cores) })

/-- CIC EOI (R314). The number of the stack's top source pops it, and the source is no longer ACTIVE; any other number but 1023
sets EOI_ERR; the register of another core is a store access fault. -/
def cicEoi : Prop := ∀ s c v, runs s c →
  (∀ p n rest, (s.cores.at c).stack = (p, n) :: rest → fldN v 0 10 = n → n ≠ 1023 → exec (.cicEoi c c v) s = .next { s with cores := (settleCores s.eng (endActive s.eng (finOf 512 n) (modCore c (fun x => { x with stack := rest }) s.cores))) }) ∧
  (∀ p n rest, (s.cores.at c).stack = (p, n) :: rest → fldN v 0 10 ≠ n → fldN v 0 10 ≠ 1023 → exec (.cicEoi c c v) s =
    .next { s with cores := (settleCores s.eng (modCore c (fun x => { x with eoiErr := true }) s.cores)) }) ∧
  (fldN v 0 10 = 1023 → exec (.cicEoi c c v) s = .next { s with cores := (settleCores s.eng s.cores) }) ∧
  (∀ d, d ≠ c → exec (.cicEoi d c v) s = .next { s with cores := (storeFault c (0x40004004 + 16 * d.val) s.cores) })

/-- What a write of a 16-word array does: to every source written as 1 that the core sees. -/
abbrev arrays (f : Engine → SrcId → Cores → Cores) (cmd : CoreId → Fin 16 → Dword → Instr) : Prop :=
  ∀ s c w v, runs s c → exec (cmd c w v) s = .next { s with cores := (settleCores s.eng (forCores (wordSources c w v) (f s.eng) s.cores)) }

/-- CIC_PEND_SET (R307). -/
def cicPendSet : Prop := arrays (fun e n => pend e.now n) .cicPendSet

/-- CIC_PEND_CLR (R307): but for a level source whose level is high. -/
def cicPendClr : Prop := arrays (fun e n k =>
  if isLevel n && e.level n then k else modSrc n (fun x => { x with pending := false }) k) .cicPendClr

/-- CIC_MASK_SET (R308). -/
def cicMaskSet : Prop := arrays (fun _ => setMask true) .cicMaskSet

/-- CIC_MASK_CLR (R308, R317): a quarantined source stays masked. -/
def cicMaskClr : Prop := arrays (fun _ => setMask false) .cicMaskClr ∧
  ∀ n k, (k.s n).quar = true → ((setMask false n k).s n).masked = (k.s n).masked

/-- CIC_WAKE_SET (R318, R321): sources 0 to 63 have wake bits. -/
def cicWakeSet : Prop :=
  arrays (fun _ n => modSrc n fun x => { x with wake := x.wake || decide (n.val < 64) }) .cicWakeSet

/-- CIC_WAKE_CLR (R318). -/
def cicWakeClr : Prop := arrays (fun _ n => modSrc n fun x => { x with wake := false }) .cicWakeClr

/-- CIC_QUAR (R317): the quarantine ends, the mask stays. -/
def cicQuar : Prop := arrays (fun _ n => modSrc n fun x => { x with quar := false }) .cicQuar

/-- CIC_ROUTE (R306, R311): the targets that the source may have, and the mode; a core writes only what it sees. -/
def cicRoute : Prop := ∀ s c n v, runs s c →
  (seesSrc c n = true → exec (.cicRoute c n v) s = .next { s with cores := (settleCores s.eng (modSrc n (fun x => { x with
    targets := if isUser n then fld v 0 6 &&& 0x30#6 else fld v 0 6 &&& 0x0F#6, lowest := bitOf v 8 }) s.cores)) }) ∧
  (seesSrc c n = false → exec (.cicRoute c n v) s = .next { s with eng := noted s.eng s.eng })

/-- CIC_PRIO (R309, R321): the priority of a source from 384 on; the others have none. -/
def cicPrio : Prop := ∀ s c n v, runs s c →
  (seesSrc c n = true → 384 ≤ n.val → exec (.cicPrio c n v) s =
    .next { s with cores := (settleCores s.eng (modSrc n (fun x => { x with prio := fld v 0 4 }) s.cores)) }) ∧
  (n.val < 384 → exec (.cicPrio c n v) s = .next { s with eng := noted s.eng s.eng })

/-- STORM QUARANTINE (R317): a source that was unmasked while its counter filled within 1 ms is masked and quarantined, with
entry 0x0034 to the PF. -/
def stormQuarantine : Prop := ∀ s n, (s.cores.s n).hot = true → (s.cores.s n).masked = false →
  let e := attn pf 0x34 0 0 (BitVec.ofNat 32 n.val) 0 false s.eng
  exec (.stormQuarantine n) s = .next { s with eng := noted s.eng e, cores := (settleCores s.eng (modSrc n (fun x => { x with
    masked := true, quar := true, steady := false, hot := false }) s.cores)) }

/-! ## The dispatcher -/

/-- A core that may write a thread's registers: a user core only those of threads from 192 on. -/
abbrev mayWrite (s : State) (c : CoreId) (t : ThreadId) : Prop := runs s c ∧ (userCore c && decide (t.val < 192)) = false

/-- What a write to a thread's register does; by a user core to a thread below 192 it is a store access fault (R302). -/
abbrev threads (off : Nat) (f : CoreId → ThreadId → Dword → Cores → Cores)
    (cmd : CoreId → ThreadId → Dword → Instr) : Prop := ∀ s c t v,
  (mayWrite s c t → exec (cmd c t v) s = .next { s with cores := (settleCores s.eng (f c t v s.cores)) }) ∧
  (runs s c → (userCore c && decide (t.val < 192)) = true → exec (cmd c t v) s =
    .next { s with cores := (storeFault c (0x40010000 + off + 4 * t.val) s.cores) })

/-- DSP_FLAG_SET (R297): a wait that the flags meet ends. -/
def dspFlagSet : Prop := threads 0x400 (fun _ t v => setFlags t v) .dspFlagSet

/-- DSP_FLAG_CLR (R297). -/
def dspFlagClr : Prop :=
  threads 0x800 (fun _ t v => modThread t fun x => { x with flags := x.flags &&& ~~~v }) .dspFlagClr

/-- DSP_WAIT (R296, R297). A running thread's wait that is met takes its flags at once; one that is not leaves the core WAITING;
of a thread that the core does not run it is an error. -/
def dspWait : Prop := threads 0xC00 (fun c t v => waitThread c t v) .dspWait ∧
  (∀ c t m k, (k.at c).run ≠ some t → waitThread c t m k = modThread t (fun x => { x with err := true }) k)

/-- START (R296): a DORMANT thread is READY; else ERR. -/
def start : Prop := threads 0x1400 (fun _ t _ => startThread t) (fun c t _ => .start c t) ∧
  (∀ t k, (k.th t).state = .dormant → startThread t k = makeReady t k) ∧
  (∀ t k, (k.th t).state ≠ .dormant → startThread t k = modThread t (fun x => { x with err := true }) k)

/-- STOP (R296): a thread that is not DORMANT becomes so; else ERR. -/
def stop : Prop := threads 0x1400 (fun _ t _ => stopThread t) (fun c t _ => .stop c t) ∧
  (∀ t k, (k.th t).state = .dormant → stopThread t k = modThread t (fun x => { x with err := true }) k) ∧
  (∀ t k, (k.th t).state ≠ .dormant → ((stopThread t k).th t).state = .dormant)

/-- DSP_CTX (R301): an address that R301 allows is taken; any other sets ERR. -/
def dspCtx : Prop := threads 0x1800 (fun _ t v k => if ctxOkFor t v.toNat then
  modThread t (fun x => { x with ctx := v }) k else modThread t (fun x => { x with err := true }) k) .dspCtx

/-- A core in INTERRUPT mode that dispatches and runs no thread. -/
abbrev dispatches (s : State) (c : CoreId) : Prop :=
  runs s c ∧ (s.cores.at c).preempt = false ∧ (s.cores.at c).run = none

/-- DSP_RUN (R296, R299), written by the core itself. A READY thread that may run there runs; any other is REFUSED; 0x1FF
releases the thread that runs. A core in PRE-EMPT mode refuses. -/
def dspRun : Prop := ∀ s c v,
  (∀ t, dispatches s c → fldN v 0 9 = t.val → t.val < 256 → (s.cores.th t).state = .ready →
    bitOf (s.cores.th t).affinity c.val = true → (s.cores.at c).enable = true → exec (.dspRun c c v) s =
      .next { s with cores := (settleCores s.eng (modThread t (fun y => { y with state := .running, core := c.val })
        (modCore c (fun x => { x with run := some t, refused := false }) s.cores))) }) ∧
  (∀ t : ThreadId, dispatches s c → fldN v 0 9 = t.val → (s.cores.th t).state ≠ .ready → exec (.dspRun c c v) s =
    .next { s with cores := (settleCores s.eng (modCore c (fun x => { x with refused := true }) s.cores)) }) ∧
  (∀ t, runs s c → (s.cores.at c).preempt = false → (s.cores.at c).run = some t → fldN v 0 9 = 0x1FF →
    exec (.dspRun c c v) s = .next { s with cores := (settleCores s.eng (modCore c (fun x => { x with refused := false })
      (makeReady t (modCore c (fun x => { x with run := none }) s.cores)))) }) ∧
  (runs s c → (s.cores.at c).preempt = true → exec (.dspRun c c v) s =
    .next { s with cores := (settleCores s.eng (modCore c (fun x => { x with refused := true }) s.cores)) })

/-- DSP_MODE (R302): PREEMPT and ENABLE; a user core that writes a firmware core's takes a store access fault. -/
def dspMode : Prop := ∀ s c d v, runs s d →
  ((userCore d && !userCore c) = false → exec (.dspMode c d v) s = .next { s with cores := (settleCores s.eng (modCore c (fun x => { x with preempt := bitOf v 0, enable := bitOf v 1 }) s.cores)) }) ∧
  ((userCore d && !userCore c) = true → exec (.dspMode c d v) s =
    .next { s with cores := (storeFault d (0x40012000 + 8 + 32 * c.val) s.cores) })

/-- DISPATCH SWITCH (R300): where a switch may be taken it is; elsewhere nothing changes. -/
def dispatchSwitch : Prop := ∀ s c,
  (maySwitch s.eng s.cores c = true → exec (.dispatchSwitch c) s =
    .next { s with cores := (settleCores s.eng (switchCore s.eng c s.cores)) }) ∧
  (maySwitch s.eng s.cores c = false → exec (.dispatchSwitch c) s = .next { s with eng := noted s.eng s.eng })

/-- An armed dispatcher timer at its time. -/
abbrev timerOk (s : State) (c : CoreId) : Prop :=
  (s.cores.at c).tmrArm = true ∧ (s.cores.at c).tmr.toNat ≤ s.eng.now ∧ s.eng.pwr.chip ≠ .dormant
    ∧ timerMay c (s.cores.at c).tmrThread.toNat = true

/-- The timers of Skelku's table on a core that are due. -/
abbrev dueTimers (s : State) (c : CoreId) : List SkTimer := s.cores.timers.filter fun y => y.core == c && decide (y.due ≤ s.eng.now)

/-- DSP TIMER FIRE (R293, R302): ARM clears, the threads whose Skelku timers are due go on, with TIMEOUT (1) where the timer was
a wait's, and the flag of the timer's thread is set; in DORMANT no timer fires. -/
def dspTimerFire : Prop := ∀ s c,
  (timerOk s c →
    let k := { modCore c (fun x => { x with tmrArm := false }) s.cores with
      timers := s.cores.timers.filter fun y => !(dueTimers s c).contains y }
    exec (.dspTimerFire c) s = .next { s with cores := settleCores s.eng (setFlags (finOf 256 (s.cores.at c).tmrThread.toNat) (1#32 <<< (s.cores.at c).tmrFlag.toNat)
        (forCores (dueTimers s c) (fun y => wakeThread y.thread (if y.timeout then 1 else 0)) k)) }) ∧
  (s.eng.pwr.chip = .dormant → exec (.dspTimerFire c) s = .next { s with eng := noted s.eng s.eng })

/-! ## Skelku -/

/-- A user thread calls Skelku from a core that runs an image. -/
abbrev calls (s : State) (c : CoreId) (t : ThreadId) : Prop := caller s.eng s.cores c = some t

/-- The cores after the ecall: its trap, with cause 8, was the last one, and the pc is past it (R291, R293). -/
abbrev past (s : State) (c : CoreId) : Cores := handledTrap c 8 ((s.cores.at c).regs.pc + 4) s.cores

/-- A result code in a0. -/
abbrev back (c : CoreId) (code : Dword) : Cores → Cores := setX c 10 code

/-- YIELD (R293): OK; the caller is READY again, behind the others. -/
def skelkuYield : Prop := ∀ s c t, calls s c t → exec (.skelkuYield c) s =
  .next { s with cores := (settleCores s.eng (makeReady t (leaveCore t true (back c 0 (past s c))))) }

/-- WAIT (R293, R297): the dispatcher's wait with the mask and mode; a wait that is not met has its timeout, 0 being none. -/
def skelkuWait : Prop := ∀ s c t mask (mode : Dword) timeout, calls s c t →
  let k := waitThread c t mask (modThread t (fun x => { x with all := mode == 1, call := .wait }) (back c 0 (past s c)))
  ((k.th t).state ≠ .waiting → exec (.skelkuWait c mask mode timeout) s =
    .next { s with cores := (settleCores s.eng (modThread t (fun x => { x with call := .none }) k)) }) ∧
  ((k.th t).state = .waiting → timeout = 0 → exec (.skelkuWait c mask mode timeout) s =
    .next { s with cores := (settleCores s.eng k) }) ∧
  ((k.th t).state = .waiting → timeout ≠ 0 → exec (.skelkuWait c mask mode timeout) s = .next { s with cores := (settleCores s.eng
    { k with timers := k.timers ++ [{ core := c, thread := t, due := s.eng.now + timeout.toNat, timeout := true }] }) })

/-- SIGNAL, CLEAR, STOP, SET_PRIORITY, TIME, REARM (R293). A thread number that is no user thread, and a priority above 31, is
INVALID (2). -/
def skelkuSignal : Prop := ∀ s c t n v, calls s c t →
  (∀ u, userThread n = some u → exec (.skelkuSignal c n v) s =
    .next { s with cores := (settleCores s.eng (setFlags u v (back c 0 (past s c)))) }) ∧
  (userThread n = none → exec (.skelkuSignal c n v) s = .next { s with cores := (settleCores s.eng (back c 2 (past s c))) })

/-- CLEAR. -/
def skelkuClear : Prop := ∀ s c t v, calls s c t → exec (.skelkuClear c v) s = .next { s with cores := (settleCores s.eng (modThread t (fun x => { x with flags := x.flags &&& ~~~v }) (back c 0 (past s c)))) }

/-- A thread that START may start: a DORMANT user thread with an affinity of user cores alone. -/
abbrev startsOk (s : State) (c : CoreId) (n cfg : Dword) (u : ThreadId) : Prop :=
  userThread n = some u ∧ ((past s c).th u).state = .dormant ∧ fld cfg 8 6 &&& 0x0F#6 = 0

/-- START (R293, R301): the thread has the configuration's priority and affinity, its block the entry, the stack and VALID; it
is READY. mstatus' other bits and the address of a block that has none are free values (log entry 3). -/
def skelkuStart : Prop := ∀ s c t n entry stack cfg u, calls s c t → startsOk s c n cfg u → ∃ k ms a,
  exec (.skelkuStart c n entry stack cfg) s = .next { s with eng := noted s.eng { s.eng with free := s.eng.free + 2 }, cores := (settleCores { s.eng with free := s.eng.free + 2 } (startThread u k)) } ∧
  k = { modThread u (fun x => { x with prio := fld cfg 0 5, affinity := affinityOf u cfg, ctx := a }) (back c 0 (past s c)) with
    mem := memPut (memPuts (memPuts s.cores.mem a.toNat (wordBytes entry ++ wordBytes ms)) (a.toNat + 12) (wordBytes stack))
      (a.toNat + 138) (memByte (memPuts (memPuts s.cores.mem a.toNat (wordBytes entry ++ wordBytes ms)) (a.toNat + 12)
        (wordBytes stack)) (a.toNat + 138) ||| 1) } ∧
  ms &&& 0x1800#32 = 0

/-- STOP. -/
def skelkuStop : Prop := ∀ s c t n, calls s c t →
  (∀ u, userThread n = some u → exec (.skelkuStop c n) s = .next { s with cores := (settleCores s.eng (stopThread u (back c 0 (past s c)))) }) ∧
  (userThread n = none → exec (.skelkuStop c n) s = .next { s with cores := (settleCores s.eng (back c 2 (past s c))) })

/-- SET_PRIORITY. -/
def skelkuSetPriority : Prop := ∀ s c t n p, calls s c t →
  (∀ u, userThread n = some u → p.toNat < 32 → exec (.skelkuSetPriority c n p) s = .next { s with cores := (settleCores s.eng (modThread u (fun x => { x with prio := fld p 0 5 }) (back c 0 (past s c)))) }) ∧
  (userThread n = none ∨ 32 ≤ p.toNat → exec (.skelkuSetPriority c n p) s =
    .next { s with cores := (settleCores s.eng (back c 2 (past s c))) })

/-- TIME: ETC in a0 and a1, EPOCH in a2. -/
def skelkuTime : Prop := ∀ s c t, calls s c t → exec (.skelkuTime c) s = .next { s with cores := (settleCores s.eng (setX c 12 s.eng.clk.epoch (setX c 11 (fld s.eng.clk.etc 32 32) (setX c 10 (fld s.eng.clk.etc 0 32) (past s c))))) }

/-- SLEEP (R293): the caller waits for a timer. -/
def skelkuSleep : Prop := ∀ s c t ns, calls s c t → exec (.skelkuSleep c ns) s = .next { s with cores := (settleCores s.eng (let k := leaveCore t true (modThread t (fun x => { x with state := .waiting, call := .sleep }) (back c 0 (past s c)))
   { k with timers := k.timers ++ [{ core := c, thread := t, due := s.eng.now + ns.toNat, timeout := false }] })) }

/-- A copy that an image may make: within its host window, and in TCM or L2 where its core has the right (R289, R293). -/
abbrev copyOk (s : State) (c : CoreId) (i : UserImage) (w : CoreAccess) (offset addr len : Dword) : Prop :=
  (s.cores.at c).image = some i ∧ i.winBase ≠ 0 ∧ offset.toNat + len.toNat ≤ i.winSize
    ∧ isMemory addr.toNat len.toNat = true ∧ ((past s c).at c).may c w addr.toNat len.toNat = true

/-- HOST_COPY (R289, R293): toward the host the bytes are written there; from it they are read, and the caller waits for the
end. Outside the window it is DENIED (3). -/
def skelkuHostCopy : Prop := ∀ s c t i offset addr len, calls s c t →
  let k (h : Bool) := leaveCore t true (modThread t (fun x => { x with state := .waiting, call := .copy })
    (modThread t (fun x => { x with copy := some { toHost := h, addr := addr, len := len.toNat } }) (back c 0 (past s c))))
  (copyOk s c i .load offset addr len → exec (.skelkuHostCopy c 0 offset addr len) s =
    let e := hostWrite pf (i.winBase + offset.setWidth 64) (memGet s.cores.mem addr.toNat len.toNat) false s.eng
    .next { s with eng := noted s.eng e, cores := settleCores e (k true) }) ∧
  (copyOk s c i .store offset addr len → exec (.skelkuHostCopy c 1 offset addr len) s =
    let e := hostRead pf (i.winBase + offset.setWidth 64) len.toNat (.hostCopy t) s.eng
    .next { s with eng := noted s.eng e, cores := settleCores e (k false) }) ∧
  ((s.cores.at c).image = some i → i.winSize < offset.toNat + len.toNat → exec (.skelkuHostCopy c 0 offset addr len) s =
    .next { s with cores := (settleCores s.eng (back c 3 (past s c))) })

/-- A copy of a waiting thread is under way. -/
abbrev copying (s : State) (t : ThreadId) (x : HostCopy) : Prop :=
  (s.cores.th t).copy = some x ∧ (s.cores.th t).state = .waiting

/-- A copy's thread goes on with a result. -/
abbrev copied (t : ThreadId) (code : Dword) (k : Cores) : Cores :=
  wakeThread t code (modThread t (fun y => { y with copy := none }) k)

/-- HOST COPY COMPLETE (R293): the bytes read are in the core's memory and the thread goes on with OK; a failed read leaves the
memory and gives FAULT (4). -/
def hostCopyComplete : Prop := ∀ s t x, copying s t x →
  (∀ d, x.toHost = true → exec (.hostCopyComplete t d) s = .next { s with cores := (settleCores s.eng (copied t 0 s.cores)) }) ∧
  (∀ bs, x.toHost = false → s.eng.reading (.hostCopy t) = true → (landed s (.hostCopy t)).held pf = false →
    exec (.hostCopyComplete t (some bs)) s = .next { s with eng := noted s.eng (landed s (.hostCopy t)), cores := (settleCores (landed s (.hostCopy t))
      (copied t 0 { s.cores with mem := memPuts s.cores.mem x.addr.toNat (bs.take x.len) })) }) ∧
  (x.toHost = false → s.eng.reading (.hostCopy t) = true →
    exec (.hostCopyComplete t none) s = .next { s with eng := noted s.eng (landed s (.hostCopy t)), cores := (settleCores (landed s (.hostCopy t)) (copied t 4 s.cores)) })

/-- ATTACH (R293, R294): a source of the user set goes to the caller's core, unmasked, its events to the thread's flag; any
other source is DENIED (3). -/
def skelkuAttach : Prop := ∀ s c t (n : SrcId) (u : ThreadId) flag, calls s c t → 192 ≤ u.val →
  (isUser n = true → flag.toNat < 32 → exec (.skelkuAttach c (BitVec.ofNat 32 n.val) (BitVec.ofNat 32 u.val) flag) s =
    .next { s with cores := (settleCores s.eng (let k := setMask false n (setRoute n (BitVec.ofNat 32 (2 ^ c.val)) (back c 0 (past s c)))
      { k with attach := mput k.attach n.val (u, flag.toNat) })) }) ∧
  (isUser n = false → exec (.skelkuAttach c (BitVec.ofNat 32 n.val) (BitVec.ofNat 32 u.val) flag) s =
    .next { s with cores := (settleCores s.eng (back c 3 (past s c))) })

/-- REARM: the mask of a source of the user set is cleared. -/
def skelkuRearm : Prop := ∀ s c t (n : SrcId), calls s c t → isUser n = true →
  exec (.skelkuRearm c (BitVec.ofNat 32 n.val)) s =
    .next { s with cores := (settleCores s.eng (setMask false n (back c 0 (past s c)))) }

/-- A load from a used slot of the ring window, by a core that has the right to it. -/
abbrev windowOk (s : State) (c : CoreId) (addr : Dword) (i : UserImage) (n : Nat) (r : SheafRing) : Prop :=
  runs s c ∧ fldN addr 28 4 = 5 ∧ (s.cores.at c).may c .load addr.toNat 4 = true ∧ (s.cores.at c).image = some i ∧ i.slots[fldN addr 25 3]? = some n ∧ n ≠ 0xFF
    ∧ fldN addr 25 3 ≠ 7 ∧ mget (s.eng.hold pf).rings n = some r ∧ s.eng.held pf = false ∧ s.eng.fw.fenced = false

/-- WINDOW LOAD (R289): a load inside the ring that the image names for the slot reads host memory; a load beyond the ring, and
a failed read, is a load access fault. -/
def windowLoad : Prop := ∀ s c addr i n r, windowOk s c addr i n r →
  (∀ bs, fldN addr 0 25 + 4 ≤ r.par.size → exec (.windowLoad c addr (some bs)) s = .next { s with eng := noted s.eng { s.eng with
    out := { s.eng.out with host := s.eng.out.host ++
      [.read pf (r.par.base + BitVec.ofNat 64 (fldN addr 0 25)) 4 (.window c)] }
    readValue := BitVec.ofNat 64 (leAt 0 4 bs) } }) ∧
  (∀ d, r.par.size < fldN addr 0 25 + 4 → exec (.windowLoad c addr d) s = .next { s with cores := (loadFault c addr.toNat s.cores) })

/-! ## Registers -/

/-- A host access that reaches a register of a block that is on. -/
abbrev hostOk (s : State) (f : Fn) (off : Nat) : Prop :=
  s.eng.reachable f = true ∧ offId s.eng s.cores (if f = pf ∨ off < 0x10000 then bar0Block off else none) = none

/-- What a host access does: it acts; on a block that is off it is counted and logged, and reads that block's id; of a function
that cannot be reached nothing happens (R339, R351). -/
abbrev hosts (f : Fn) (off : Nat) (act : Engine → Cores → Engine × Cores) (i : Instr) : Prop := ∀ s,
  (hostOk s f off → exec i s = .next { s with eng := noted s.eng (act s.eng s.cores).1, cores := (act s.eng s.cores).2 }) ∧
  (∀ b, s.eng.reachable f = true →
    offId s.eng s.cores (if f = pf ∨ off < 0x10000 then bar0Block off else none) = some b →
    exec i s = .next { s with eng := noted s.eng { offAccess b off s.eng with readValue := (offWord b).setWidth 64 } }) ∧
  (s.eng.reachable f = false → exec i s = .next { s with eng := noted s.eng s.eng })

/-- ETC_LO (R344): the low dword is read, and the function's ETC_HI latches the high one. -/
def etcLo : Prop := ∀ f, hosts f 0x110 (fun e k => ({ modFn f (fun x => { x with etcHi := fld e.clk.etc 32 32 }) e with
  readValue := (fld e.clk.etc 0 32 : Dword).setWidth 64 }, k)) (.etcLo f)

/-- FRAME_EXT_LO (R361): the same of the extended frame count. -/
def frameExtLo : Prop := ∀ f, hosts f 0x104 (fun e k => ({ modFn f (fun x => { x with frameHi := fld e.clk.frame 32 16 }) e with
  readValue := (fld e.clk.frame 0 32 : Dword).setWidth 64 }, k)) (.frameExtLo f)

/-- ARBITER SET DWORD0 READ (R396): dword 0 of the set is read, and dwords 1 to 3 are latched for the reader. -/
def arbiterSetDword0Read : Prop := ∀ s f off n, hostOk s f off →
  setAt f (finOf 64 s.eng.test.cntSel.toNat) off = some (n, 0) →
  exec (.arbiterSetDword0Read f off) s = .next { s with eng := noted s.eng { modFn f (fun x => { x with
      arbLatch := mput x.arbLatch n (fld (s.eng.arbSet n).bits 32 96) }) s.eng with
    readValue := (fld (s.eng.arbSet n).bits 0 32 : Dword).setWidth 64 } }

/-- CNT_CTRL (R397 to R399): bit 0 zeroes the arbiter sets of the window, bit 1 its event counters: the function's own, or the
window that CNT_SEL names for the PF. -/
def cntCtrl : Prop :=
  (∀ f v be, hosts f 0x2000 (fun e k => (clearCounters f (bitOf be 0 && bitOf v 0) (bitOf be 0 && bitOf v 1) e, k))
    (.cntCtrl f false v be)) ∧
  (∀ v be, hosts pf 0x2000 (fun e k => (clearCounters (finOf 64 e.test.cntSel.toNat) (bitOf be 0 && bitOf v 0)
    (bitOf be 0 && bitOf v 1) e, k)) (.cntCtrl pf true v be))

/-- TEST_KEY (R402): 0x5EED then 0x7111 unlocks the test block; 0 locks it, unless the strap unlocked it; any other value
starts the sequence anew. -/
def testKey : Prop := ∀ s, hostOk s pf 0x30000 →
  exec (.testKey 0x5EED#32) s = .next { s with eng := noted s.eng { s.eng with test := { s.eng.test with keyHalf := true } } } ∧
  (s.eng.test.keyHalf = true → exec (.testKey 0x7111#32) s =
    .next { s with eng := noted s.eng { s.eng with test := { s.eng.test with keyHalf := false, byKey := true } } }) ∧
  (s.eng.test.keyHalf = false → exec (.testKey 0x7111#32) s = .next { s with eng := noted s.eng s.eng }) ∧
  (s.eng.test.byStrap = false → exec (.testKey 0) s = .next { s with eng := noted s.eng (lockTest s.eng) }) ∧
  (∀ v : Dword, v ≠ 0x5EED#32 → v ≠ 0x7111#32 → v ≠ 0 → exec (.testKey v) s =
    .next { s with eng := noted s.eng { s.eng with test := { s.eng.test with keyHalf := false } } })

/-- TP_CTL (R402): while the block is unlocked, bit 1 clears ERR and bit 0 turns the control on or off; while it is locked
nothing happens. -/
def tpCtl : Prop := ∀ s n v be, hostOk s pf (0x30100 + 16 * n.val) →
  (s.eng.unlocked = true → bitOf be 0 = true → exec (.tpCtl n v be) s = .next { s with eng := noted s.eng (setCtl n (bitOf v 0)
    (if bitOf v 1 then modCtl n (fun c => { c with err := false }) s.eng else s.eng)) }) ∧
  (s.eng.unlocked = false ∨ bitOf be 0 = false → exec (.tpCtl n v be) s = .next { s with eng := noted s.eng s.eng })

/-- The user cores as DBG_HALT leaves them. -/
abbrev haltUsers (v : Dword) (k : Cores) : Cores := forCores ((allFin 6).filter userCore) (fun c => modCore c fun x =>
  match x.state, bitOf v c.val with
  | .running, true => { x with state := .halted }
  | .halted, false => { x with state := .running }
  | _, _ => x) k

/-- DBG_HALT (R291, R364): a running user core halts and a halted one goes on by its bit; firmware cores only while the test
block is unlocked. -/
def dbgHalt : Prop := ∀ s v be, hostOk s pf 0x70000 → bitOf be 0 = true →
  (s.eng.unlocked = false → exec (.dbgHalt v be) s = .next { s with cores := (settleCores s.eng (haltUsers v s.cores)) }) ∧
  (s.eng.unlocked = true → exec (.dbgHalt v be) s =
    let e := { s.eng with fw := { s.eng.fw with halted := fld v 0 4 } }
    .next { s with eng := noted s.eng e, cores := settleCores e (haltUsers v s.cores) })

/-- The engine in which a core that may trip the outputs of `grant` asks for those of `v`: what it may it trips, each other
output that it asks for is counted as refused. -/
abbrev softTripped (v : Dword) (grant : BitVec 4) (e : Engine) : Engine :=
  forAll ((List.range 4).filter fun n => bitOf v n && !bitOf grant n) (fun _ => countDev 2)
    { e with pins := { e.pins with tripped := e.pins.tripped ||| (fld v 0 4 &&& grant) } }

/-- TRIP_SOFT (R162, R290): a firmware core trips what it names; a user core trips only what its image may, each other output
being counted as refused; without an image it may trip none. -/
def tripSoft : Prop := ∀ s c v, runs s c →
  (userCore c = false → exec (.tripSoft c v) s = .next { s with eng := noted s.eng (softTripped v 0xF s.eng) }) ∧
  (∀ i, userCore c = true → (s.cores.at c).image = some i → exec (.tripSoft c v) s =
    .next { s with eng := noted s.eng (softTripped v i.tripGrant s.eng) }) ∧
  (userCore c = true → (s.cores.at c).image = none → exec (.tripSoft c v) s =
    .next { s with eng := noted s.eng (softTripped v 0 s.eng) })

/-- A core that executes stores to an address to which it has the right, in a block that is on. -/
abbrev storeOk (s : State) (c : CoreId) (a : Nat) : Prop :=
  runs s c ∧ (s.cores.at c).may c .store a 4 = true ∧ offId s.eng s.cores (coreBlock a) = none

/-- REGISTER WRITE (R285, R286, R339, R358). A host write to a register of a function; a store to TCM or L2; a store to the power
manager; a store of a core without the right to it, and one to a block that is off, which is counted and logged too: a store
access fault. -/
def registerWrite : Prop :=
  (∀ s f off v be, hostOk s f off → off < 0x2000 → off ≠ 0x1080 → exec (.registerWrite (.bar0 f) off v be) s =
    .next { s with eng := noted s.eng (fnWrite f off v be s.eng) }) ∧
  (∀ s f v be, exec (.registerWrite (.bar0 f) 0x1080 v be) s = exec (.mbxGo f v be) s) ∧
  (∀ s c a v be, storeOk s c a → isMemory a 4 = true →
    exec (.registerWrite (.core c) a v be) s = .next { s with cores := { s.cores with mem := storeBytes a v be s.cores.mem } }) ∧
  (∀ s c a v be, runs s c → (s.cores.at c).may c .store a 4 = false →
    exec (.registerWrite (.core c) a v be) s = .next { s with cores := storeFault c a s.cores }) ∧
  (∀ s c off v be, off < 0x10000 → storeOk s c (0x40020000 + off) →
    let e := pwrWrite c off v be s.eng s.cores
    exec (.registerWrite (.core c) (0x40020000 + off) v be) s = .next { s with eng := noted s.eng e, cores := settleCores e s.cores }) ∧
  (∀ s c a v be b, runs s c → (s.cores.at c).may c .store a 4 = true → offId s.eng s.cores (coreBlock a) = some b →
    exec (.registerWrite (.core c) a v be) s = .next { s with eng := noted s.eng (offAccess b a s.eng), cores := storeFault c a s.cores })

/-! ## PCIe -/

/-- VF Enable clear and no VFs. -/
abbrev noVfs (e : Engine) : Engine := { e with pcie := { e.pcie with vfEnable := false, numVfs := 0 } }

/-- PE_PERST_N ASSERT (R241, R349, R366, R367): sources 44 and 45 are raised where the pin and the link change, the link goes
down, the tag pool is chosen anew and tags in flight are free, every created holding comes to its reset point, every function
is at its reset values and held, and VF Enable is clear. -/
def pePerstNAssert : Prop := ∀ s,
  let up := whenE (s.eng.pcie.link != .down) (pulse 45) (whenE (!s.eng.pcie.perst) (pulse 44) s.eng)
  exec .pePerstNAssert s = .next { s with eng := noted s.eng (pumpReads (noVfs (forAll (allFin 64)
    (fun h e => resetFunction h true (modFn h (fun x => { x with perstHold := true }) e))
    (forAll s.eng.created (fun h => resetPoint h .perst none false)
      (resetTags { up with pcie := { up.pcie with perst := true, link := .down } }))))) }

/-- The engine after PE_PERST_N has been let go, PE_WAKE_N with it (R332). -/
abbrev perstGone (l : PcieLink) (crs : Bool) (e : Engine) : Engine :=
  { e with pins := { e.pins with peWake := false }
           pcie := { e.pcie with perst := false, link := l, fns := e.pcie.fns.map fun x => { x with crs } } }

/-- PE_PERST_N RELEASE (R332, R357): the link comes up with sources 44 and 45 raised, PE_WAKE_N is let go, and configuration
reads return CRS until firmware is ready; a part held in reset keeps its link down. While it is not asserted nothing changes. -/
def pePerstNRelease : Prop := ∀ s,
  (s.eng.pcie.perst = true → s.eng.pins.inReset = false → s.eng.fw.fenced = false → s.eng.jtag.holds = false →
    exec .pePerstNRelease s = .next { s with eng := noted s.eng (perstGone .l0 (!s.eng.fw.ready && !s.eng.fw.noImage)
      (pulse 45 (pulse 44 s.eng))) }) ∧
  (s.eng.pcie.perst = true → s.eng.pins.inReset = true ∨ s.eng.fw.fenced = true ∨ s.eng.jtag.holds = true →
    exec .pePerstNRelease s = .next { s with eng := noted s.eng (perstGone .down true (pulse 44 s.eng)) }) ∧
  (s.eng.pcie.perst = false → exec .pePerstNRelease s = .next { s with eng := noted s.eng s.eng })

/-- A function that configuration reaches. -/
abbrev fnOk (s : State) (f : Fn) : Prop :=
  (s.eng.pfn f).crs = false ∧ s.eng.fnEnabled f = true ∧ s.eng.pins.inReset = false

/-- FLR (R241, R349, R366): the holding comes to its reset point and the function is at its reset values; that of the PF
chooses the tag pool anew and clears VF Enable too. -/
def flr : Prop := ∀ s f, fnOk s f →
  (f ≠ pf → exec (.flr f) s = .next { s with eng := noted s.eng (pumpReads (flrOne f s.eng)) }) ∧
  (f = pf → exec (.flr f) s = .next { s with eng := noted s.eng (pumpReads (clearVfs (flrOne pf (resetTags s.eng)))) })

/-- HOLDING RESET ABANDON (R242): what is still outstanding of a holding in reset is given up. -/
def holdingResetAbandon : Prop := ∀ s f r, (s.eng.fn f).reset = some r →
  exec (.holdingResetAbandon f) s = .next { s with eng := noted s.eng (abandon f (r.kind == .perst) s.eng) }

/-- HOLDING RESET END (R243 to R246). -/
def holdingResetEnd : Prop := ∀ s f, exec (.holdingResetEnd f) s = .next { s with eng := noted s.eng (treeWork (resetEnd f) s.eng) }

/-- VF Enable clear, NumVFs lowered to a limit. -/
abbrev fewVfs (n : Nat) (e : Engine) : Engine :=
  { e with pcie := { e.pcie with vfEnable := false, numVfs := min n e.pcie.numVfs } }

/-- VF ENABLE CLEAR (R246, R356): every VF holding is destroyed; NumVFs keeps what it may. -/
def vfEnableClear : Prop := ∀ s n, (s.eng.pfn pf).crs = false → s.eng.pins.inReset = false → s.eng.pcie.vfEnable = true →
  exec (.vfEnableClear false n) s = .next { s with eng := noted s.eng (fewVfs n (forAll (s.eng.created.filter (· != pf))
    (fun h e => resetFunction h (e.pfn h).crs (resetPoint h .gone none true e)) s.eng)) }

/-- VF ENABLE SET (R355): the VFs up to NumVFs are there, at most 63, and at most 7 while ARI Capable Hierarchy is clear. -/
def vfEnableSet : Prop := ∀ s n, (s.eng.pfn pf).crs = false → s.eng.pins.inReset = false → s.eng.pcie.vfEnable = false →
  exec (.vfEnableSet n) s = .next { s with eng := noted s.eng { s.eng with pcie := { s.eng.pcie with
    vfEnable := true, numVfs := min (if Config.ariHierarchy then 63 else 7) n } } }

/-- The PF's Bus Master Enable is the host's again (R234, R281). -/
abbrev bmeKept (f : Fn) (e : Engine) : Engine := if f = pf then { e with pcie := { e.pcie with bmeLost := false } } else e

/-- BUS MASTER ENABLE SET (R234, R352): requests resume. -/
def busMasterEnableSet : Prop := ∀ s f, fnOk s f →
  exec (.busMasterEnableSet f) s = .next { s with eng := noted s.eng (resume f (modPfn f (fun x => { x with bme := true }) (bmeKept f s.eng))) }

/-- BUS MASTER ENABLE CLEAR (R234): the function is held; reads of others may go out in its place. -/
def busMasterEnableClear : Prop := ∀ s f, (s.eng.pfn f).crs = false → s.eng.pins.inReset = false →
  exec (.busMasterEnableClear f) s = .next { s with eng := noted s.eng (pumpReads (modPfn f (fun x => { x with bme := false }) (bmeKept f s.eng))) }

/-- D3HOT ENTRY and D0 RETURN (R352): the function is held, and resumes. -/
def d3hotEntry : Prop := ∀ s f, fnOk s f →
  exec (.d3hotEntry f) s = .next { s with eng := noted s.eng (pumpReads (modPfn f (fun x => { x with d3 := true }) s.eng)) }

/-- D0 RETURN. -/
def d0Return : Prop := ∀ s f, (s.eng.pfn f).crs = false → s.eng.pins.inReset = false →
  exec (.d0Return f) s = .next { s with eng := noted s.eng (resume f (modPfn f (fun x => { x with d3 := false }) s.eng)) }

/-- READ COMPLETION TIMEOUT (R351): an outstanding read fails as the requester's rule has it; with none outstanding nothing
happens. -/
def readCompletionTimeout : Prop := ∀ s,
  (∀ f sq, (s.eng.read? (.poll f sq)).isSome = true → exec (.readCompletionTimeout (.poll f sq)) s =
    exec (.pollReadComplete f sq none) s) ∧
  (∀ f sq, (s.eng.read? (.fetch f sq)).isSome = true → exec (.readCompletionTimeout (.fetch f sq)) s =
    exec (.fetchReadComplete f sq none) s) ∧
  (∀ i, (s.eng.read? (.context i)).isSome = true → exec (.readCompletionTimeout (.context i)) s =
    exec (.contextReadComplete i none) s) ∧
  (∀ f a, (s.eng.read? (.slot f a)).isSome = true → exec (.readCompletionTimeout (.slot f a)) s =
    exec (.slotEntryReadComplete f a none) s) ∧
  (∀ t, s.eng.read? t = none → exec (.readCompletionTimeout t) s = .next { s with eng := noted s.eng s.eng })


/-! # The whole block, and the operations that many commands share -/

/-! ## The step, the queue, the invariant -/

/-- A step takes the command at the front of the queue and is that command on the state with the queue's rest. -/
def stepRunsFront : Prop := ∀ (s : State) (c : Instr) (rest : List Instr),
  s.pending = c :: rest → step s = exec c { s with pending := rest }

/-- On an empty queue a step is one tick of the clock that the ETC counts (the model's choice, log entry 1): engine time
advances, the ETC counts as R343 gives, and nothing else changes. -/
def stepTicks : Prop := ∀ s : State, s.pending = [] → ∃ t, step s = .next t ∧ t.pending = [] ∧ t.cores = s.cores
  ∧ t.eng = { s.eng with clk := t.eng.clk } ∧ t.eng.clk.etc = s.eng.clk.etc + (if s.eng.domainRuns .bclk then 4 else 40)

/-- The invariant holds at reset. -/
def resetKeepsForm : Prop := Inv State.reset

/-- Every step from a state that has the invariant, reached or not, ends in one that has it. -/
def stepKeepsForm : Prop := ∀ s t : State, Inv s → step s = .next t → Inv t

/-- Every command but L2_LOAD answers a next state in every state; L2_LOAD stops only on an offset whose four bytes do not lie
in L2. -/
def everyCommandGoes : Prop := ∀ (c : Instr) (s : State),
  (∃ t, exec c s = .next t)
    ∨ ∃ dr, c = .l2Load dr ∧ 2621440 < fldN dr 0 32 + 4 ∧ exec c s = .fault .l2OffsetBeyond

/-- No command touches the queue. -/
def commandsLeaveQueue : Prop := ∀ (c : Instr) (s t : State), exec c s = .next t → t.pending = s.pending

/-- The commands that can act on the cores, their memory, the interrupt controller or the dispatcher. -/
def actsOnCores : Instr → Bool
  | .registerWrite .. | .readCompletionTimeout .. | .loadUserImage .. | .userCoreControl ..
  | .controllerResetTakesEffect .. | .eccUncorrectable .. | .firmwareWatchdogExpiry .. | .coreWfi .. | .powerCommit ..
  | .wakeExitDone .. | .pllLockLoss .. | .cicPulseEvent .. | .cicLevelRise .. | .cicLevelFall .. | .cicClaim ..
  | .cicEoi .. | .cicRoute .. | .cicPrio .. | .stormQuarantine .. | .watcherWakeRequest .. | .dispatchSwitch ..
  | .dspTimerFire .. | .porNAssert .. | .pgAoRise .. | .extest .. | .clamp .. | .hostCopyComplete .. | .windowLoad ..
  | .fence .. | .thermalShutdown .. | .cicPendSet .. | .cicPendClr .. | .cicMaskSet .. | .cicMaskClr .. | .cicWakeSet ..
  | .cicWakeClr .. | .cicQuar .. | .dspFlagSet .. | .dspFlagClr .. | .dspWait .. | .start .. | .stop .. | .dspCtx ..
  | .dspRun .. | .dspMode .. | .skelkuYield .. | .skelkuWait .. | .skelkuSignal .. | .skelkuStart .. | .skelkuStop ..
  | .skelkuSetPriority .. | .skelkuClear .. | .skelkuTime .. | .skelkuSleep .. | .skelkuHostCopy .. | .skelkuAttach ..
  | .skelkuRearm .. | .dbgHalt .. | .l2Load .. => true
  | _ => false

/-- The stores to the interrupt controller's arrays and to the dispatcher's registers. -/
def actsOnCoresOnly : Instr → Bool
  | .cicPendSet .. | .cicPendClr .. | .cicMaskSet .. | .cicMaskClr .. | .cicWakeSet .. | .cicWakeClr .. | .cicQuar ..
  | .dspFlagSet .. | .dspFlagClr .. | .dspWait .. | .start .. | .stop .. | .dspCtx .. | .dspRun .. | .dspMode .. => true
  | _ => false

/-- What a command that is not among those leaves, and what a store to the arrays leaves. -/
def commandsKeepTheRest : Prop := ∀ (c : Instr) (s t : State), exec c s = .next t →
  (actsOnCores c = false → t.cores = s.cores) ∧ (actsOnCoresOnly c = true → t.eng = s.eng)

/-! ## Memory of the cores -/

/-- L2_LOAD, unlocked and while the boot ROM waits for an image: the four bytes that it stores read as the word's, in byte
order, every other byte of the cores' memory reads as before, and nothing else of the cores changes. -/
def loadStoresFour : Prop := ∀ (s : State) (dr : Qword), Memory.wf s.cores.mem = true → s.eng.unlocked = true →
  s.eng.pins.strapBoot = 3 → ({ s.eng with jtag := { s.eng.jtag with holds := false } } : Engine).booting = true →
  fldN dr 0 32 + 4 ≤ 2621440 → ∃ t, exec (.l2Load dr) s = .next t ∧ t.cores = { s.cores with mem := t.cores.mem }
    ∧ Memory.wf t.cores.mem = true ∧ (∀ i < 4, memByte t.cores.mem (l2Base + fldN dr 0 32 + i) = fld dr (32 + 8 * i) 8)
    ∧ ∀ a, a < l2Base + fldN dr 0 32 ∨ l2Base + fldN dr 0 32 + 4 ≤ a → memByte t.cores.mem a = memByte s.cores.mem a

/-! ## Packets -/

/-- One step of a CRC that takes the polynomial most significant bit first. -/
def crcStep {w : Nat} (poly c : BitVec w) (bit : Bool) : BitVec w :=
  (c <<< 1) ^^^ (if c.msb != bit then poly else 0)

/-- R42 as it is written: initial value all ones, input reflected (each byte from its bit 0), output reflected, final
exclusive-or with all ones. -/
def crcOf {w : Nat} (poly : BitVec w) (bs : List Byte) : BitVec w :=
  (((bs.flatMap fun b => (List.range 8).map fun i => bitOf b i).foldl (crcStep poly) (BitVec.allOnes w)).reverse) ^^^
    BitVec.allOnes w

/-- The ASCII bytes "123456789". -/
def nineDigits : List Byte := [0x31, 0x32, 0x33, 0x34, 0x35, 0x36, 0x37, 0x38, 0x39]

/-- R42: both CRCs, their values over "123456789", and where they stand in a token and in a DATA packet. -/
def crcsAreR42 : Prop :=
  (∀ bs, crc16 bs = crcOf 0x1021#16 bs) ∧ (∀ bs, crc32 bs = crcOf 0x04C11DB7#32 bs)
    ∧ crc16 nineDigits = 0x906E#16 ∧ crc32 nineDigits = 0xCBF43926#32
    ∧ (∀ t : Token, t.bytes = t.bytes.take 14 ++ leBytes 2 (crc16 (t.bytes.take 14)).toNat)
    ∧ ∀ dev ep seq payload, dataPacket dev ep seq payload =
        (dataPacket dev ep seq payload).take (8 + payload.length) ++
          leBytes 4 (crc32 ((dataPacket dev ep seq payload).take (8 + payload.length))).toNat

/-- A data packet as a device sends it: type, flags, target, sequence, length field, payload, CRC (R50 to R52). -/
def dataFrame (type flags : Nat) (dev : DevNum) (ep : EpNum) (seq : Byte) (length : Nat) (payload : List Byte) : List Byte :=
  let b := leBytes 1 type ++ leBytes 1 flags ++ targetBytes dev ep ++ leBytes 1 seq.toNat ++ leBytes 2 length ++ payload
  b ++ wordBytes (crc32 b)

/-- The first six bytes of a handshake (R53). -/
def handshakeHead (type flags : Nat) (dev : DevNum) (ep : EpNum) (seq : Byte) : List Byte :=
  leBytes 1 type ++ leBytes 1 flags ++ targetBytes dev ep ++ leBytes 1 seq.toNat

/-- A handshake as a device sends it. -/
def handshake (type flags : Nat) (dev : DevNum) (ep : EpNum) (seq : Byte) : List Byte :=
  handshakeHead type flags dev ep seq ++ wordBytes (crc16 (handshakeHead type flags dev ep seq))

/-- Every packet kind that a device sends is read back with every field, at every value of the fields. -/
def packetsReadBack : Prop := ∀ (dev : DevNum) (ep : EpNum) (seq : Byte) (flags : Nat) (payload : List Byte), flags < 256 →
  (payload.length < 2048 → parsePacket (dataFrame 0x10 flags dev ep seq payload.length payload) =
    some (.data dev ep seq (decide (128 ≤ flags)) payload)) ∧
  (payload.length < 32768 → ∀ attn : Bool,
    parsePacket (dataFrame 0x11 flags dev ep seq (payload.length + 32768 * b2n attn) payload) =
      some (.sheaf flags dev ep seq attn payload)) ∧
  (payload.length < 1024 → parsePacket (dataFrame 0x12 flags dev ep seq payload.length payload) =
    some (.alarms (decide (flags % 2 = 1)) (decide (128 ≤ flags)) dev seq payload)) ∧
  parsePacket (handshake 0x20 flags dev ep seq) = some (.ack dev ep seq (decide (128 ≤ flags)) (decide (flags % 2 = 1))) ∧
  parsePacket (handshake 0x21 flags dev ep seq) = some (.nak dev ep seq (decide (128 ≤ flags))) ∧
  parsePacket (handshake 0x22 flags dev ep seq) =
    some (.stall dev ep seq (decide (128 ≤ flags)) (BitVec.ofNat 8 (flags % 64)))

/-- R41: a received packet whose type byte is not listed, whose CRC fails, or whose byte count differs from the one that its
header implies is discarded; a token is no packet that a root port receives. -/
def badPacketsDiscarded : Prop := ∀ bs : List Byte,
  (leAt 0 1 bs ∉ [0x10, 0x11, 0x12, 0x20, 0x21, 0x22] → parsePacket bs = none) ∧
  (leAt 0 1 bs ∈ [0x20, 0x21, 0x22] →
    bs.length ≠ 8 ∨ bs.drop 6 ≠ wordBytes (crc16 (bs.take 6)) → parsePacket bs = none) ∧
  (∀ x ∈ [(0x10, 2048), (0x11, 32768), (0x12, 1024)], leAt 0 1 bs = x.1 →
    bs.length ≠ leAt 6 2 bs % x.2 + 12 ∨ bs.drop (bs.length - 4) ≠ wordBytes (crc32 (bs.take (bs.length - 4))) →
      parsePacket bs = none)

/-- R44: every field of a token stands at its place in the 16 bytes. -/
def tokensReadBack : Prop := ∀ t : Token, t.type < 256 → t.flags < 256 → t.tag < 256 → t.len < 65536 →
  t.bytes.length = 16 ∧ leAt 0 1 t.bytes = t.type ∧ leAt 1 1 t.bytes = t.flags ∧ leAt 2 4 t.bytes = t.route.toNat
    ∧ leAt 6 3 t.bytes = t.dev.toNat + 2 ^ 20 * t.ep.toNat ∧ leAt 9 1 t.bytes = t.tag ∧ leAt 10 2 t.bytes = t.seq.toNat
    ∧ leAt 12 2 t.bytes = t.len ∧ leAt 14 2 t.bytes = (crc16 (t.bytes.take 14)).toNat

/-- R136, R137: the image of a reap list is read back whole. -/
def imagesReadBack : Prop := ∀ l : PlantedList, l.listId < 256 → l.entries.length < 65536 → l.deadline < 65536 →
  parseImage (imageBytes l) = some
    { version := 1, listId := l.listId, deadline := l.deadline, tag := l.holding.val, reserved := 0, entries := l.entries }

/-! ## The bus: serials, APOLL, periodic descriptors -/

/-- R45: with at most 64 transactions outstanding on a port (R60), the serial that a REAP or TAKE takes is one that no
transaction outstanding on the hub's endpoint 0 carries in its low byte, and every serial that was skipped is carried. -/
def serialsDistinct : Prop := ∀ (l : List Tx) (hub : DevNum) (s : BitVec 16), l.length ≤ 64 →
  ∃ k : Nat, k ≤ 64 ∧ nextSerial l hub 70 s = s + BitVec.ofNat 16 k
    ∧ (∀ t ∈ l, t.dev = hub → t.ep = 0 → t.seq.setWidth 8 ≠ ((s + BitVec.ofNat 16 k).setWidth 8 : Byte))
    ∧ ∀ j < k, ∃ t ∈ l, t.dev = hub ∧ t.ep = 0 ∧ t.seq.setWidth 8 = ((s + BitVec.ofNat 16 j).setWidth 8 : Byte)

/-- The sum that R56 bounds by 2,000 ns. -/
def apollSum (a tau rtt n : Nat) : Nat := a + 18 * tau + rtt + 600 + (14 + 8 * n) * tau + 40

/-- R56: where one alarm fits (R37), the alarm count is the largest from 1 to 64 that fits and the deadline is the time left
in 10 ns units, rounded down, at least 600 ns; and the two examples of the rule. -/
def apollCountsLargest : Prop := (∀ a tau rtt, apollSum a tau rtt 1 ≤ 2000 →
    1 ≤ (apollArith a tau rtt).1 ∧ (apollArith a tau rtt).1 ≤ 64 ∧ apollSum a tau rtt (apollArith a tau rtt).1 ≤ 2000
      ∧ (∀ n, n ≤ 64 → apollSum a tau rtt n ≤ 2000 → n ≤ (apollArith a tau rtt).1)
      ∧ (apollArith a tau rtt).2 = (2600 - apollSum a tau rtt (apollArith a tau rtt).1) / 10
      ∧ 60 ≤ (apollArith a tau rtt).2)
  ∧ (∀ frame row n d, (apollToken frame row n d).flags = n ∧ (apollToken frame row n d).len = d)
  ∧ apollArith 0 2 230 = (64, 64) ∧ apollArith 44 2 230 = (63, 61)

/-- R118: the order is a rearrangement of the candidates, longest span (earliest latest start) first, and candidates of one
span keep their order. -/
def ordersByLatestStart : Prop := ∀ l : List Cand, (∀ c ∈ l, c.span ≤ 1000000000) →
  (orderCands l).Perm l ∧ (orderCands l).Pairwise (fun a b => b.span ≤ a.span)
    ∧ ∀ n, (orderCands l).filter (fun c => c.span == n) = l.filter fun c => c.span == n

/-- The charges admitted so far on a port. -/
def chargesOn (p : PortId) (l : List Cand) : Nat := ((l.filter fun c => c.port == p).map (·.charge)).sum

/-- R119: after any candidates the next one is admitted if and only if the charges admitted on its port leave room for its own
within C, and its start and span fit in the row of 62.5 us; the next is tested in any case. -/
def admitsByRegion : Prop := ∀ (reg : PortId → Nat × Nat) (l : List Cand) (c : Cand),
  admission reg (l ++ [c]) (fun _ => 0) = admission reg l (fun _ => 0) ++
    (if chargesOn c.port (admission reg l fun _ => 0) + c.charge ≤ (reg c.port).2 ∧ c.span ≤ 60500
        ∧ 10 * (reg c.port).1 + 10 * chargesOn c.port (admission reg l fun _ => 0) + c.span ≤ 62500 then [c] else [])

/-- R119's isolation: what is admitted on a port depends on that port's region and candidates only. -/
def admissionIsPerPort : Prop := ∀ (reg reg' : PortId → Nat × Nat) (l : List Cand) (p : PortId), reg p = reg' p →
  (admission reg l fun _ => 0).filter (fun c => c.port == p) = admission reg' (l.filter fun c => c.port == p) fun _ => 0

/-- R161: what it is for a rule to match an alarm. -/
def rulesMatchR161 : Prop := ∀ (r : BitVec 128) (a : Alarm), ruleHits r a = true ↔
  r.getLsbD 31 = true ∧ r.getLsbD 30 = a.pin ∧ (r.getLsbD 29 = true ∨ r.getLsbD 30 = true ∨ fldN r 24 5 = a.port)
    ∧ (∀ i < 20, r.getLsbD (32 + i) = true → a.dev.getLsbD i = r.getLsbD i)
    ∧ (∀ i < 4, r.getLsbD (52 + i) = true → a.ep.getLsbD i = r.getLsbD (20 + i))
    ∧ fldN r 64 16 ≤ a.code.toNat ∧ a.code.toNat ≤ fldN r 80 16

/-! ## Queues and rings -/

/-- R173: the bytes of IN data fill the scatter elements in order: what is written is the data as far as the elements after
the offset reach, and every write lies inside one element. -/
def dataFillsElements : Prop := ∀ (sg : List (Qword × Nat)) (off : Nat) (d : List Byte),
  (spread sg off d).flatMap (·.2) = d.take ((sg.map (·.2)).sum - off)
    ∧ ∀ w ∈ spread sg off d, ∃ x ∈ sg, ∃ k, w.1 = x.1 + BitVec.ofNat 64 k ∧ k + w.2.length ≤ x.2

/-- The entries among cached ones that reserve a CQ slot: every entry but a PAD (R183). -/
def reservers (l : List Cached) : Nat :=
  (l.filter fun c => match c.units with | h :: _ => eOpcode h != 0 | [] => false).length

/-- R183: a fetch read takes no entry for which the CQ has no free slot. -/
def fetchKeepsRoom : Prop := ∀ (q : Sq) (start : Nat) (us : List (BitVec 256)) (room : Nat) (fuel off : Nat)
    (old fresh : List (Nat × Nat × Bool)),
  reservers (walkFetch q start us room fuel off old [] fresh).1 ≤ room

/-- Positions in a ring (R151, R165, R193): an advance stays inside and inverts the phase at the end, advances add up, a
release word of a position is read back, and space taken and space released add up. -/
def ringPositions : Prop := ∀ (size : Nat) (r : RingPos) (a b : Nat), r.at_ < size →
  (a ≤ size → (ringAdv r a size).at_ < size ∧ (ringAdv r a size).at_ = (r.at_ + a) % size
    ∧ (ringAdv r a size).phase = (r.phase != decide (size ≤ r.at_ + a))) ∧
  (a + b ≤ size → ringAdv (ringAdv r a size) b size = ringAdv r (a + b) size) ∧
  (a + b ≤ size → ringFree size (ringAdv r (a + b) size) r = size - (a + b)
    ∧ ringFree size (ringAdv r (a + b) size) (ringAdv r a size) = size - b) ∧
  (size ≤ 2 ^ 31 → ∀ unit, unit ∣ r.at_ →
    releaseOf (BitVec.ofNat 64 (r.at_ + 2 ^ 32 * b2n r.phase)) size unit = some r)

/-- R233: the slices of n plots cover the context table without overlap, in whole blocks of 4,096, and differ by one block at
most. -/
def slicesCoverTable : Prop := ∀ n blocks : Nat, 0 < n →
  (∀ i < 4096 * blocks, ∃ k < n, (sliceOf k n (4096 * blocks)).1 ≤ i
      ∧ i < (sliceOf k n (4096 * blocks)).1 + (sliceOf k n (4096 * blocks)).2
      ∧ ∀ j < n, (sliceOf j n (4096 * blocks)).1 ≤ i →
          i < (sliceOf j n (4096 * blocks)).1 + (sliceOf j n (4096 * blocks)).2 → j = k) ∧
  (∀ k < n, 4096 ∣ (sliceOf k n (4096 * blocks)).1 ∧ ((sliceOf k n (4096 * blocks)).2 = 4096 * (blocks / n)
      ∨ (sliceOf k n (4096 * blocks)).2 = 4096 * (blocks / n + 1)))

/-! ## What firmware keeps for a function -/

/-- Entries written one after another. -/
def attnList (h : Fn) : List (Nat × Dword) → Engine → Engine
  | [], e => e
  | (kind, argument) :: rest, e => attnList h rest (attn h kind 0 0 0 argument false e)

/-- R222, R224: of entries written one after another to a log with room, the log takes as many as it has room for, in order,
each with the next sequence, the first with the count lost before it; the rest are counted as lost. -/
def logKeepsWhatFits : Prop := ∀ (h : Fn) (l : List (Nat × Dword)) (e : Engine),
  (e.fn h).log.length ≤ attnCapacity h →
  ∃ new, ((attnList h l e).fn h).log = (e.fn h).log ++ new
    ∧ new.length = min l.length (attnCapacity h - (e.fn h).log.length)
    ∧ new.map (fun a => (a.kind, a.argument)) = l.take new.length
    ∧ (∀ i : Nat, ∀ a, new[i]? = some a → a.seq = (e.fn h).logNext + BitVec.ofNat 32 i
        ∧ a.lost = (if i = 0 then (e.fn h).logLost else 0))
    ∧ ((attnList h l e).fn h).logNext = (e.fn h).logNext + BitVec.ofNat 32 new.length
    ∧ ((attnList h l e).fn h).logLost = (if new = [] then (e.fn h).logLost else 0) + (l.length - new.length)

/-- A class A command with APPLY_ONCE, of a tag. -/
def OnceTag (c : BitVec 512) (tag : Dword) : Prop := classA c = true ∧ cOnce c = true ∧ cTag c = tag

/-- R227: the record of a tag is found until 64 further records of other tags have been written; no more than 64 are kept. -/
def recordsLastSixtyFour : Prop := ∀ (f : Fn) (c : BitVec 512) (st : Byte) (d : Dword)
    (later : List (BitVec 512 × Byte × Dword)) (e : Engine),
  classA c = true → cOnce c = true → (e.fn f).once c = none → later.length < 64 →
  (∀ x ∈ later, classA x.1 = true ∧ cOnce x.1 = true ∧ cTag x.1 ≠ cTag c) →
  let e' := later.foldl (fun e x => recordOnce f x.1 x.2.1 x.2.2 e) (recordOnce f c st d e)
  ((e'.fn f).once c = some { tag := cTag c, opcode := cOp c, status := st, dword2 := d })
    ∧ (e'.fn f).applied.length ≤ 64

/-- R245: an account holds at most 65,536 outcomes in the order in which they came; each that does not fit folds the oldest
into SUMMARY, and the running count counts every one. -/
def accountFoldsOldest : Prop := ∀ (a : Account) (l : List Outcome), a.kept.length ≤ 65536 →
  let b := l.foldl Account.add a
  b.kept = (a.kept ++ l).drop ((a.kept ++ l).length - 65536) ∧ b.kept.length ≤ 65536
    ∧ b.next = a.next + BitVec.ofNat 32 l.length ∧ b.folded = a.folded + ((a.kept ++ l).length - 65536)

/-- R395: an event counter advances by one and stays at 0xFFFF_FFFF; the counters beside it keep their values. -/
def countersSaturate : Prop :=
  (∀ c : Dword, (bump c).toNat = min (c.toNat + 1) 0xFFFFFFFF) ∧
  (∀ (c : Dword) (n : Nat), (bump^[n] c).toNat = min (c.toNat + n) 0xFFFFFFFF) ∧
  ∀ (v : Vector Dword 16) (k j : Nat) (_ : k < 16) (hj : j < 16),
    (bumpAt v k)[j] = if j = k then bump v[j] else v[j]

/-! ## Replies -/

/-- Taking a command off its source and answering it touch only the queues, logs and tables of the issuing holding and
function and the streams that leave the block: not the rest of the engine, and no other holding's part. -/
def repliesStayHome : Prop := ∀ (src : AdminSrc) (c : BitVec 512) (st : Byte) (d : Dword) (data : List Byte) (wake : Bool)
    (e : Engine) (h : Fn), h ≠ src.fn →
  (takeCommand src e).restButReads = e.restButReads ∧ (finish src c st d data wake e).rest = e.rest
    ∧ (takeCommand src e).hold h = e.hold h ∧ (finish src c st d data wake e).hold h = e.hold h
    ∧ (takeCommand src e).fn h = e.fn h ∧ (finish src c st d data wake e).fn h = e.fn h
    ∧ (finish src c st d data wake e).pfn h = e.pfn h

/-! ## Reset -/

/-- What the spec gives of the state after POR_N: the spare pool (R13), holding 0 with every plot, port and quota and no other
holding (R115, R229), the ports LDOWN and unpowered, no command waiting, queues and rings empty, TRIP_N unarmed and not
tripped (R162), the interrupt controller masked. -/
def resetIsAsGiven : Prop :=
  (∀ p : PlotId, (State.reset.eng.plot p).spare = decide (256 ≤ p.val)
      ∧ (State.reset.eng.plot p).allotted = decide (p.val < 256)) ∧
  (State.reset.eng.hold 0).created = true ∧ (∀ h : Fn, h ≠ 0 → (State.reset.eng.hold h).created = false) ∧
  (∀ p : PortId, (State.reset.eng.hold 0).reserve[p.val] = { s := 200, c := 5000, p := 8, w := 16 }) ∧
  (State.reset.eng.hold 0).portSet = 0xFFFFFFFF#32 ∧
  (∀ h : Fn, (State.reset.eng.hold h).sqs = [] ∧ (State.reset.eng.hold h).cqs = []
      ∧ (State.reset.eng.hold h).rings = [] ∧ (State.reset.eng.fn h).log = [] ∧ (State.reset.eng.fn h).applied = []) ∧
  (∀ p : PortId, (State.reset.eng.port p).link.state = .ldown ∧ (State.reset.eng.port p).arb.outstanding = []) ∧
  State.reset.eng.commons.devs = [] ∧ State.reset.eng.pins.tripped = 0 ∧ State.reset.eng.pins.armed = 0 ∧
  (∀ n : SrcId, (State.reset.cores.s n).pending = false ∧ (State.reset.cores.s n).masked = true) ∧
  State.reset.pending = []

/-! ## Journal records, read tags and configuration headers -/

/-- A position record whose fields lie in their places (R261). -/
abbrev posOk (r : PosRec) : Prop :=
  r.num < 4096 ∧ r.issued.at_ < 2 ^ 31 ∧ r.settled.at_ < 2 ^ 31 ∧ (r.kind ≠ .sheafRing → r.sequence = 0)

/-- A periodic record whose fields lie in their places (R261). -/
abbrev periodicOk (r : PeriodicRec) : Prop := r.ring < 256 ∧ r.listId < 256 ∧ r.row < 16 ∧ r.kind < 8

/-- An item record whose fields lie in their places (R261); a decided item has no transaction outstanding. -/
abbrev itemOk (r : ItemRec) : Prop :=
  r.sq < 4096 ∧ r.unit < 2 ^ 20 ∧ 1 ≤ r.units ∧ r.units ≤ 16 ∧ r.opcode < 256 ∧ r.bytes < 2 ^ 32 ∧ r.length < 2 ^ 32
    ∧ r.cq < 4096 ∧ (r.status.isSome = true → r.outstanding = false)

/-- R261: position and periodic records have 16 bytes and item records 32; every record is read back from its bytes with
every field; the record kind stands in the low half of the first byte and the holding in the second; an item's state is 1
while it is started, 2 while a transaction of it is outstanding and 3 once it is decided. -/
def journalsReadBack : Prop :=
  (∀ r : PosRec, posOk r → (posBytes r).length = 16 ∧ parsePosRec (posBytes r) = some r
    ∧ leAt 0 1 (posBytes r) = posCode r.kind ∧ leAt 1 1 (posBytes r) = r.holding.val) ∧
  (∀ r : PeriodicRec, periodicOk r → (periodicBytes r).length = 16 ∧ parsePeriodicRec (periodicBytes r) = some r
    ∧ leAt 0 1 (periodicBytes r) = 6 + 16 * (if r.replied then 2 else 1)
    ∧ leAt 1 1 (periodicBytes r) = r.holding.val) ∧
  (∀ r : ItemRec, itemOk r → (itemBytes r).length = 32 ∧ parseItemRec (itemBytes r) = some r
    ∧ leAt 0 1 (itemBytes r) = 5 + 16 * (if r.status.isSome then 3 else if r.outstanding then 2 else 1)
    ∧ leAt 1 1 (itemBytes r) = r.holding.val)

/-- R349: the requests into which a read or write is cut are no longer than the limit, none crosses a multiple of it, and
together they name every byte once, in order. -/
def requestsInLimit : Prop := ∀ (m : Nat) (a : Qword) (len : Nat), 0 < m →
  (∀ x ∈ splitReq m (len + 1) a len, 0 < x.2 ∧ x.1.toNat % m + x.2 ≤ m)
    ∧ ((splitReq m (len + 1) a len).flatMap fun x => (List.range x.2).map fun i => x.1 + BitVec.ofNat 64 i)
        = (List.range len).map fun i => a + BitVec.ofNat 64 i

/-- No requester holds more tags than its pool has, and a read that has not gone out holds none. -/
def TagsInPool (e : Engine) : Prop :=
  (∀ w, e.tagsHeld w ≤ e.pcie.pool.tags w) ∧ ∀ r ∈ e.reads, r.sent = false → r.tags = 0

/-- R25, R349: the tags that the pool gives a requester are never exceeded: pumpReads keeps TagsInPool; what has gone out
stays as it is; and while all tags of a requester are held, a waiting read of its stays as it is (but of a function whose
requests are held, R234, or behind the fence, whose reads end). -/
def tagsWithinPool : Prop := ∀ (e : Engine), TagsInPool e →
  TagsInPool (pumpReads e)
    ∧ (pumpReads e).reads.length = e.reads.length ∧ (pumpReads e).pcie = e.pcie
    ∧ (∀ (k : Nat) (r : HostRead), e.reads[k]? = some r → r.sent = true → (pumpReads e).reads[k]? = some r)
    ∧ ∀ (k : Nat) (r : HostRead), e.reads[k]? = some r → e.tagsHeld r.who = e.pcie.pool.tags r.who →
        e.held r.fn = false → e.fw.fenced = false → (pumpReads e).reads[k]? = some r

/-- R349: the tags of each row of the table. -/
def tagPoolsAreR349 : Prop :=
  [TagPool.p768, .p256, .p32].map (fun p => [p.tags .plots, p.tags .queues, p.tags .yoke, p.tags .saves, p.tags .cores])
    = [[384, 256, 32, 64, 32], [128, 80, 16, 16, 16], [16, 8, 4, 2, 2]]

/-- R353: the identity fields of the PF's header and of every VF's, read while the function answers; none while it returns
CRS (R357). -/
def headersIdentify : Prop := ∀ (e : Engine) (f : Fn), e.fnEnabled f = true → e.pcie.perst = false →
  ((e.pfn f).crs = true → e.configIdentity f = none) ∧
  ((e.pfn f).crs = false → ∃ i, e.configIdentity f = some i
    ∧ i.vendor = (if f = pf then 0x1FD3 else 0xFFFF) ∧ i.device = (if f = pf then 0x9208 else 0xFFFF)
    ∧ i.revision = 0xB1 ∧ i.classCode = 0x0C8000 ∧ i.headerType = 0 ∧ i.interruptPin = 0
    ∧ i.subVendor = (identityOf pf).subVendor ∧ i.subsystem = (identityOf pf).subsystem
    ∧ (Config.subsystem = none → i.subVendor = 0x1FD3 ∧ i.subsystem = 0x9208))
  ∧ vfIds = (0x1FD3, 0x9209)
end Sys2Proof.Claim

/-- A step is the command at the front of the queue, run on the state with the rest of the queue. -/
def Obligations.StepRunsTheFrontCommand : Prop :=
  Sys2Proof.Claim.stepRunsFront

/-- On an empty queue a step is one tick of the ETC clock and nothing else (the model's choice, log entry 1). -/
def Obligations.StepTicksOnAnEmptyQueue : Prop :=
  Sys2Proof.Claim.stepTicks

/-- What reset leaves, and that the invariant of the block holds there. -/
def Obligations.ResetStateIsAsGiven : Prop :=
  Sys2Proof.Claim.resetKeepsForm ∧ Sys2Proof.Claim.resetIsAsGiven

/-- Every step keeps the invariant of the core cluster: memory form, x0, routes of sources, cores of threads. -/
def Obligations.StepKeepsTheInvariant : Prop :=
  Sys2Proof.Claim.stepKeepsForm

/-- Every command answers a next state in every state; only L2_LOAD beyond L2 stops. -/
def Obligations.EveryCommandAnswers : Prop :=
  Sys2Proof.Claim.everyCommandGoes

/-- No command touches the queue; engine commands leave the cores, dispatcher and CIC stores leave the engine. -/
def Obligations.CommandsLeaveQueueAndOtherHalf : Prop :=
  Sys2Proof.Claim.commandsLeaveQueue ∧ Sys2Proof.Claim.commandsKeepTheRest

/-- R42: the CRC-16 and the CRC-32 of packets are the polynomials as written, and stand little-endian at the end. -/
def Obligations.CrcsAreAsWritten : Prop :=
  Sys2Proof.Claim.crcsAreR42

/-- Every packet kind is read back with every field at every value; damaged and unlisted packets are discarded. -/
def Obligations.PacketsReadBack : Prop :=
  Sys2Proof.Claim.packetsReadBack ∧ Sys2Proof.Claim.badPacketsDiscarded ∧ Sys2Proof.Claim.tokensReadBack

/-- The image bytes of a reap list are read back whole. -/
def Obligations.ReapImagesReadBack : Prop :=
  Sys2Proof.Claim.imagesReadBack

/-- A REAP or TAKE takes the first serial that no transaction on the hub's endpoint 0 carries. -/
def Obligations.SerialsStayDistinct : Prop :=
  Sys2Proof.Claim.serialsDistinct

/-- R56: the alarm count is the largest that fits the 2,000 ns and the deadline is the time left. -/
def Obligations.ApollCountIsTheLargest : Prop :=
  Sys2Proof.Claim.apollCountsLargest

/-- Descriptors are ordered by latest start and admitted by their own region, port by port. -/
def Obligations.AdmissionByRegion : Prop :=
  Sys2Proof.Claim.ordersByLatestStart ∧ Sys2Proof.Claim.admitsByRegion ∧ Sys2Proof.Claim.admissionIsPerPort

/-- A trip rule matches an alarm exactly under the six conditions of R161. -/
def Obligations.TripRulesMatch : Prop :=
  Sys2Proof.Claim.rulesMatchR161

/-- IN data fills the scatter elements in order, and no write leaves an element. -/
def Obligations.DataFillsScatterElements : Prop :=
  Sys2Proof.Claim.dataFillsElements

/-- A fetch read takes no entry for which the completion queue has no slot. -/
def Obligations.FetchKeepsCompletionSlots : Prop :=
  Sys2Proof.Claim.fetchKeepsRoom

/-- Ring positions stay inside, flip the phase at the end, add up, and are read back from release words. -/
def Obligations.RingPositionsAddUp : Prop :=
  Sys2Proof.Claim.ringPositions

/-- The slices of n plots cover the context table in whole blocks, without overlap, equal but for one block. -/
def Obligations.SlicesCoverTheTable : Prop :=
  Sys2Proof.Claim.slicesCoverTable

/-- The attention log keeps what fits and counts the rest; a reset account folds its oldest outcomes. -/
def Obligations.LogsAndAccountsKeepOrder : Prop :=
  Sys2Proof.Claim.logKeepsWhatFits ∧ Sys2Proof.Claim.accountFoldsOldest

/-- An apply-once record is found until 64 further ones have been written. -/
def Obligations.ApplyOnceRecordsStay : Prop :=
  Sys2Proof.Claim.recordsLastSixtyFour

/-- Event counters advance by one per event, saturate at 0xFFFF_FFFF and leave each other alone. -/
def Obligations.CountersSaturate : Prop :=
  Sys2Proof.Claim.countersSaturate

/-- Taking and answering an admin command touch no other holding, no other function and no engine part but the streams. -/
def Obligations.RepliesStayInTheHolding : Prop :=
  Sys2Proof.Claim.repliesStayHome

/-- IDENTIFY and QUICK START complete with the data and settings that the rules give; an undefined opcode answers 0x81. -/
def Obligations.IdentityCommandsComplete : Prop :=
  Sys2Proof.Claim.identify ∧ Sys2Proof.Claim.quickStart ∧ Sys2Proof.Claim.undefinedAdminOpcode

/-- The SQ and CQ commands create, delete, disable, enable, recall and tune queues as given. -/
def Obligations.QueueCommandsComplete : Prop :=
  Sys2Proof.Claim.createSq ∧ Sys2Proof.Claim.deleteSq ∧ Sys2Proof.Claim.disableSq ∧ Sys2Proof.Claim.enableSq
    ∧ Sys2Proof.Claim.recallSq ∧ Sys2Proof.Claim.setPoll ∧ Sys2Proof.Claim.createCq ∧ Sys2Proof.Claim.deleteCq

/-- SET CONTEXT TABLE, SET FIELD MAP, RESERVE, SCHEDULE and UNSCHEDULE ENDPOINT take effect as given. -/
def Obligations.ScheduleCommandsComplete : Prop :=
  Sys2Proof.Claim.setContextTable ∧ Sys2Proof.Claim.setFieldMap ∧ Sys2Proof.Claim.reserve
    ∧ Sys2Proof.Claim.scheduleEndpoint ∧ Sys2Proof.Claim.unscheduleEndpoint

/-- LOAD REAP LIST, CLEAR REAP LIST and REAP GROUP plant, clear and group reap lists. -/
def Obligations.ReapListCommandsComplete : Prop :=
  Sys2Proof.Claim.loadReapList ∧ Sys2Proof.Claim.clearReapList ∧ Sys2Proof.Claim.reapGroup

/-- CREATE SHEAF RING, CREATE ALARM RING and SET TRIP RULE set rings, rules and outputs. -/
def Obligations.RingAndTripCommandsComplete : Prop :=
  Sys2Proof.Claim.createSheafRing ∧ Sys2Proof.Claim.createAlarmRing ∧ Sys2Proof.Claim.setTripRule

/-- ENUMERATE, ASSIGN DEVICE, PORT CONTROL and DEVICE RESET change the tree as given. -/
def Obligations.TreeCommandsComplete : Prop :=
  Sys2Proof.Claim.enumerate ∧ Sys2Proof.Claim.assignDevice ∧ Sys2Proof.Claim.portControl
    ∧ Sys2Proof.Claim.rootOrders ∧ Sys2Proof.Claim.deviceReset

/-- READ ATTENTION LOG, READ COUNTERS and RESET ACCOUNT return and release what is kept. -/
def Obligations.ReadingCommandsComplete : Prop :=
  Sys2Proof.Claim.readAttentionLog ∧ Sys2Proof.Claim.readCounters ∧ Sys2Proof.Claim.readArbiterSets
    ∧ Sys2Proof.Claim.resetAccount

/-- HOLDING CREATE, DESTROY, ALLOT PLOTS, HOLDING RESET and SET GLEANING act on holdings as given. -/
def Obligations.HoldingCommandsComplete : Prop :=
  Sys2Proof.Claim.holdingCreate ∧ Sys2Proof.Claim.holdingDestroy ∧ Sys2Proof.Claim.allotPlots
    ∧ Sys2Proof.Claim.holdingReset ∧ Sys2Proof.Claim.setGleaning

/-- HOLDING FREEZE, SAVE, RESTORE and THAW drain, write, read and release a holding. -/
def Obligations.MigrationCommandsComplete : Prop :=
  Sys2Proof.Claim.holdingFreeze ∧ Sys2Proof.Claim.holdingSave ∧ Sys2Proof.Claim.holdingRestore
    ∧ Sys2Proof.Claim.holdingThaw

/-- YOKE CONFIGURE, TAKE SUBTREE, YOKE STATUS, POWER STATE and SET RETENTION act as given. -/
def Obligations.SystemCommandsComplete : Prop :=
  Sys2Proof.Claim.yokeConfigure ∧ Sys2Proof.Claim.takeSubtree ∧ Sys2Proof.Claim.yokeStatus
    ∧ Sys2Proof.Claim.powerState ∧ Sys2Proof.Claim.setRetention

/-- LOAD USER IMAGE, USER CORE CONTROL, TEST CONTROL and CONTROLLER RESET act as given. -/
def Obligations.ImageAndTestCommandsComplete : Prop :=
  Sys2Proof.Claim.loadUserImage ∧ Sys2Proof.Claim.userCoreControl ∧ Sys2Proof.Claim.testControl
    ∧ Sys2Proof.Claim.controllerReset ∧ Sys2Proof.Claim.controllerResetTakesEffect

/-- MBX_GO and every transfer entry opcode are taken, started or answered as given. -/
def Obligations.EntriesComplete : Prop :=
  Sys2Proof.Claim.mbxGo ∧ Sys2Proof.Claim.pad ∧ Sys2Proof.Claim.bulkIn ∧ Sys2Proof.Claim.bulkOut
    ∧ Sys2Proof.Claim.control ∧ Sys2Proof.Claim.mark ∧ Sys2Proof.Claim.reservedTransferOpcode

/-- Polls, fetch reads, head mirrors, context reads and OUT data reads move the queue engine on. -/
def Obligations.QueueReadsComplete : Prop :=
  Sys2Proof.Claim.pollDue ∧ Sys2Proof.Claim.pollReadComplete ∧ Sys2Proof.Claim.fetchReadComplete
    ∧ Sys2Proof.Claim.headMirrorWrite ∧ Sys2Proof.Claim.contextReadComplete ∧ Sys2Proof.Claim.outDataReadComplete

/-- Completion writes, moderation, unmasked vectors, condition notes and release words act as given. -/
def Obligations.CompletionsComplete : Prop :=
  Sys2Proof.Claim.completionWrite ∧ Sys2Proof.Claim.cqModerationTimeout ∧ Sys2Proof.Claim.msixUnmask
    ∧ Sys2Proof.Claim.conditionNoteWrite ∧ Sys2Proof.Claim.releaseWordReadComplete

/-- HEADLAND and the reads of slot entries, row lists, out slots, contexts and reap images stage descriptors. -/
def Obligations.HeadlandsComplete : Prop :=
  Sys2Proof.Claim.headland ∧ Sys2Proof.Claim.slotEntryReadComplete ∧ Sys2Proof.Claim.rowListReadComplete
    ∧ Sys2Proof.Claim.outSlotReadComplete ∧ Sys2Proof.Claim.soloContextFetchComplete
    ∧ Sys2Proof.Claim.reapImageReadComplete

/-- ROW_BOUNDARY, APOLL_MISS_RUN_LOG and FRAME_RETIRED_ADVANCE move frame time on. -/
def Obligations.RowBoundariesComplete : Prop :=
  Sys2Proof.Claim.rowBoundary ∧ Sys2Proof.Claim.apollMissRunLog ∧ Sys2Proof.Claim.frameRetiredAdvance

/-- ARBITER_DECISION grants by rank and share; withdrawn grants and passed starts end as given. -/
def Obligations.ArbitrationCompletes : Prop :=
  Sys2Proof.Claim.arbiterDecision ∧ Sys2Proof.Claim.grantWithdraw ∧ Sys2Proof.Claim.latestStartPassed

/-- Received replies, timeouts and NAK re-offers end or retry their transactions. -/
def Obligations.RepliesComplete : Prop :=
  Sys2Proof.Claim.receiveData ∧ Sys2Proof.Claim.receiveAck ∧ Sys2Proof.Claim.receiveNak
    ∧ Sys2Proof.Claim.receiveStall ∧ Sys2Proof.Claim.receiveSheaf ∧ Sys2Proof.Claim.transactionTimeout
    ∧ Sys2Proof.Claim.reapTimeout ∧ Sys2Proof.Claim.nakReoffer

/-- Sheaves and alarms are written to their rings; alarm sheaves, mutes and ALM_IN act as given. -/
def Obligations.RingsAndAlarmsComplete : Prop :=
  Sys2Proof.Claim.sheafWrite ∧ Sys2Proof.Claim.alarmEntryWrite ∧ Sys2Proof.Claim.receiveAlarmSheaf
    ∧ Sys2Proof.Claim.alarmMute ∧ Sys2Proof.Claim.alarmUnmute ∧ Sys2Proof.Claim.almInChange

/-- Replant, port change and enumeration transfers and power-on orders move the tree on. -/
def Obligations.TreeTransfersComplete : Prop :=
  Sys2Proof.Claim.replantTransferComplete ∧ Sys2Proof.Claim.portChangeReadComplete
    ∧ Sys2Proof.Claim.enumerationTransferComplete ∧ Sys2Proof.Claim.powerOnOrderRelease

/-- Sideband, lock, training, repair and retry events move a link through its states. -/
def Obligations.TrainingCompletes : Prop :=
  Sys2Proof.Claim.sidebandScan ∧ Sys2Proof.Claim.symbolLockAcquired ∧ Sys2Proof.Claim.lossOfLock
    ∧ Sys2Proof.Claim.trainingMeasured ∧ Sys2Proof.Claim.trainingTrialTimeout ∧ Sys2Proof.Claim.lmendTimeout
    ∧ Sys2Proof.Claim.retryHoldoffExpiry

/-- Reset, resume, suspend, debounce and quarantine events move a root port through its states. -/
def Obligations.PortEventsComplete : Prop :=
  Sys2Proof.Claim.linkResetElapsed ∧ Sys2Proof.Claim.resumeReceived ∧ Sys2Proof.Claim.resumeDone
    ∧ Sys2Proof.Claim.lwakeTimeout ∧ Sys2Proof.Claim.suspendDrained ∧ Sys2Proof.Claim.debounceExpiry
    ∧ Sys2Proof.Claim.resettingTimeout ∧ Sys2Proof.Claim.resumingTimeout ∧ Sys2Proof.Claim.portQuarantine

/-- Plot faults, SPARE, plot clears and stalls move work between plots as given. -/
def Obligations.PlotEventsComplete : Prop :=
  Sys2Proof.Claim.plotFaultDetected ∧ Sys2Proof.Claim.spare ∧ Sys2Proof.Claim.plotClearComplete
    ∧ Sys2Proof.Claim.plotStallEnd

/-- ECC, journal, port lane, datapath and firmware faults are contained as given. -/
def Obligations.FaultEventsComplete : Prop :=
  Sys2Proof.Claim.eccUncorrectable ∧ Sys2Proof.Claim.journalResyncComplete ∧ Sys2Proof.Claim.portLaneFault
    ∧ Sys2Proof.Claim.portLaneFaultDown ∧ Sys2Proof.Claim.datapathScrubComplete
    ∧ Sys2Proof.Claim.firmwareWatchdogExpiry ∧ Sys2Proof.Claim.firmwareRestartComplete

/-- POR_N, boot, PLL lock, shutdown and fence events start and stop the controller as given. -/
def Obligations.BootAndClockEventsComplete : Prop :=
  Sys2Proof.Claim.porNAssert ∧ Sys2Proof.Claim.pgAoRise ∧ Sys2Proof.Claim.internalResetRelease
    ∧ Sys2Proof.Claim.firmwareReady ∧ Sys2Proof.Claim.noValidImage ∧ Sys2Proof.Claim.aliveToggle
    ∧ Sys2Proof.Claim.pllLock ∧ Sys2Proof.Claim.pllLockLoss ∧ Sys2Proof.Claim.thermalShutdown ∧ Sys2Proof.Claim.fence

/-- The TAP instructions select registers, hold the pins, load L2 and write the operator key as given. -/
def Obligations.TapCommandsComplete : Prop :=
  Sys2Proof.Claim.extest ∧ Sys2Proof.Claim.clamp ∧ Sys2Proof.Claim.samplePreload ∧ Sys2Proof.Claim.idcode
    ∧ Sys2Proof.Claim.bypass ∧ Sys2Proof.Claim.tapReset ∧ Sys2Proof.Claim.l2Load ∧ Sys2Proof.Claim.otpKey
    ∧ Sys2Proof.Claim.loadStoresFour

/-- Heartbeats, tally writes and misses keep the partners' watch on each other. -/
def Obligations.HeartbeatsComplete : Prop :=
  Sys2Proof.Claim.heartbeatSend ∧ Sys2Proof.Claim.tallyWrite ∧ Sys2Proof.Claim.heartbeatReceive
    ∧ Sys2Proof.Claim.heartbeatMiss

/-- The tally, settling and probe reads of a takeover lead to its end. -/
def Obligations.TakeoverReadsComplete : Prop :=
  Sys2Proof.Claim.tallyReadComplete ∧ Sys2Proof.Claim.secondTallyRead ∧ Sys2Proof.Claim.settleReadComplete
    ∧ Sys2Proof.Claim.probeReadComplete

/-- Yoke requests, grants and drains hand the lead of ports over. -/
def Obligations.HandoversComplete : Prop :=
  Sys2Proof.Claim.yokeRequestReceive ∧ Sys2Proof.Claim.handoverDrained ∧ Sys2Proof.Claim.yokeGrantReceive
    ∧ Sys2Proof.Claim.yokeRequestTimeout ∧ Sys2Proof.Claim.yokeRequestTimeoutUntaken
    ∧ Sys2Proof.Claim.yokeConfigureTimeout

/-- Relayed work and results, shadows, journal records and frame marks of the partner have their effect. -/
def Obligations.YokeMessagesComplete : Prop :=
  Sys2Proof.Claim.relayedWorkReceive ∧ Sys2Proof.Claim.relayedResultReceive ∧ Sys2Proof.Claim.shadowRecordReceive
    ∧ Sys2Proof.Claim.journalRecordReceive ∧ Sys2Proof.Claim.commonsMirrorReceive ∧ Sys2Proof.Claim.sleepBlockReceive
    ∧ Sys2Proof.Claim.yokeLinkUp ∧ Sys2Proof.Claim.frameMarkReceive

/-- WFI, commit, entry, wake and exit move the chip between its power states. -/
def Obligations.SleepAndWakeComplete : Prop :=
  Sys2Proof.Claim.coreWfi ∧ Sys2Proof.Claim.powerCommit ∧ Sys2Proof.Claim.entrySequenceEnd
    ∧ Sys2Proof.Claim.wakeStarts ∧ Sys2Proof.Claim.wakeEvent ∧ Sys2Proof.Claim.wakeExitDone
    ∧ Sys2Proof.Claim.watcherWakeRequest ∧ Sys2Proof.Claim.powerStateDrainTimeout
    ∧ Sys2Proof.Claim.sleepRequestTimeout

/-- The governor, droop, thermal, limit and wake-timer events act as given. -/
def Obligations.PowerEventsComplete : Prop :=
  Sys2Proof.Claim.governorStep ∧ Sys2Proof.Claim.vddDroop ∧ Sys2Proof.Claim.vddDroopRecover
    ∧ Sys2Proof.Claim.thermAlert ∧ Sys2Proof.Claim.pwrLimitChange ∧ Sys2Proof.Claim.throttleEnd
    ∧ Sys2Proof.Claim.pwrWakeFire ∧ Sys2Proof.Claim.pwrWakeHiWrite ∧ Sys2Proof.Claim.pmeTurnOff

/-- Pulses, levels, claims and EOIs pend, activate and end interrupt sources. -/
def Obligations.SourcesComplete : Prop :=
  Sys2Proof.Claim.cicPulseEvent ∧ Sys2Proof.Claim.cicLevelRise ∧ Sys2Proof.Claim.cicLevelFall
    ∧ Sys2Proof.Claim.cicClaim ∧ Sys2Proof.Claim.cicEoi

/-- Stores to the CIC arrays, routes and priorities, and the storm quarantine, change their sources. -/
def Obligations.CicStoresComplete : Prop :=
  Sys2Proof.Claim.cicPendSet ∧ Sys2Proof.Claim.cicPendClr ∧ Sys2Proof.Claim.cicMaskSet ∧ Sys2Proof.Claim.cicMaskClr
    ∧ Sys2Proof.Claim.cicWakeSet ∧ Sys2Proof.Claim.cicWakeClr ∧ Sys2Proof.Claim.cicQuar ∧ Sys2Proof.Claim.cicRoute
    ∧ Sys2Proof.Claim.cicPrio ∧ Sys2Proof.Claim.stormQuarantine

/-- The dispatcher stores, switches and timers start, stop, wake and place threads. -/
def Obligations.DispatcherComplete : Prop :=
  Sys2Proof.Claim.dspFlagSet ∧ Sys2Proof.Claim.dspFlagClr ∧ Sys2Proof.Claim.dspWait ∧ Sys2Proof.Claim.start
    ∧ Sys2Proof.Claim.stop ∧ Sys2Proof.Claim.dspCtx ∧ Sys2Proof.Claim.dspRun ∧ Sys2Proof.Claim.dspMode
    ∧ Sys2Proof.Claim.dispatchSwitch ∧ Sys2Proof.Claim.dspTimerFire

/-- The Skelku services, host copies and the code window answer user threads as given. -/
def Obligations.SkelkuServicesComplete : Prop :=
  Sys2Proof.Claim.skelkuYield ∧ Sys2Proof.Claim.skelkuWait ∧ Sys2Proof.Claim.skelkuSignal
    ∧ Sys2Proof.Claim.skelkuClear ∧ Sys2Proof.Claim.skelkuStart ∧ Sys2Proof.Claim.skelkuStop
    ∧ Sys2Proof.Claim.skelkuSetPriority ∧ Sys2Proof.Claim.skelkuTime ∧ Sys2Proof.Claim.skelkuSleep
    ∧ Sys2Proof.Claim.skelkuHostCopy ∧ Sys2Proof.Claim.hostCopyComplete ∧ Sys2Proof.Claim.skelkuAttach
    ∧ Sys2Proof.Claim.skelkuRearm ∧ Sys2Proof.Claim.windowLoad

/-- The latching reads, the control registers and every other register write act as given. -/
def Obligations.RegisterCommandsComplete : Prop :=
  Sys2Proof.Claim.etcLo ∧ Sys2Proof.Claim.frameExtLo ∧ Sys2Proof.Claim.arbiterSetDword0Read
    ∧ Sys2Proof.Claim.cntCtrl ∧ Sys2Proof.Claim.testKey ∧ Sys2Proof.Claim.tpCtl ∧ Sys2Proof.Claim.dbgHalt
    ∧ Sys2Proof.Claim.tripSoft ∧ Sys2Proof.Claim.registerWrite

/-- PE_PERST_N, FLR, VF enable, bus master enable, D-states and read timeouts act as given; requests are cut and tagged, headers identify, as given. -/
def Obligations.PcieEventsComplete : Prop :=
  Sys2Proof.Claim.pePerstNAssert ∧ Sys2Proof.Claim.pePerstNRelease ∧ Sys2Proof.Claim.flr
    ∧ Sys2Proof.Claim.holdingResetAbandon ∧ Sys2Proof.Claim.holdingResetEnd ∧ Sys2Proof.Claim.vfEnableClear
    ∧ Sys2Proof.Claim.vfEnableSet ∧ Sys2Proof.Claim.busMasterEnableSet ∧ Sys2Proof.Claim.busMasterEnableClear
    ∧ Sys2Proof.Claim.d3hotEntry ∧ Sys2Proof.Claim.d0Return ∧ Sys2Proof.Claim.readCompletionTimeout
    ∧ Sys2Proof.Claim.requestsInLimit ∧ Sys2Proof.Claim.tagsWithinPool ∧ Sys2Proof.Claim.tagPoolsAreR349
    ∧ Sys2Proof.Claim.headersIdentify

/-- Position, periodic and item records of the journal are read back from their bytes with every field. -/
def Obligations.JournalRecordsReadBack : Prop :=
  Sys2Proof.Claim.journalsReadBack
end

