-- ==== Sys2Proof/WellFormed.lean ====
section
/-! DEFINITION. Which commands can occur: the ranges that the spec gives queue, ring and vector numbers, ring
units, packet sizes and register offsets. The meanings are total and do not rest on it. -/

namespace Sys2Proof.WellFormed

/-- An SQ or CQ number of a holding, 0-4,095 (R167), or 4,096 more for an adopted one (R276). -/
def queueOk (n : Nat) : Bool := decide (n < 8192)

/-- A unit index, below the largest SQ (R168). -/
def unitOk (n : Nat) : Bool := decide (n < 1048576)

/-- An admin command comes from a unit of SQ 0, or the mailbox (R199). -/
def srcOk : AdminSrc → Bool
  | .mailbox _ => true
  | .queue _ u => unitOk u

/-- A ring named by a release-word read or a probe: sheaf rings 0-255 (R148), or 256 more for an adopted one. -/
def ringOk : RingRef → Bool
  | .sheaf n => decide (n < 512)
  | .alarm _ => true
  | .cq n => queueOk n

/-- A fetch read covers at most 16 units (R182). -/
def fetchOk : Option (List (BitVec 256)) → Bool
  | none => true
  | some l => decide (l.length ≤ 16)

/-- A packet has at most 8 + 16,384 + 4 bytes (R41, R50). -/
def packetOk (bs : List Byte) : Bool := decide (bs.length ≤ 16396)

/-- A register offset is a multiple of 4 (R358), in the 1 MiB of BAR0 or in the core address space (R286). -/
def offsetOk : RegPort → Nat → Bool
  | .bar0 _, a => decide (a < 1048576) && a % 4 == 0
  | .core _, a => decide (a < 2 ^ 32) && a % 4 == 0

/-- A row list has at most 4,096 descriptors (R106). -/
def rowsOk : Option (List (BitVec 256)) → Bool
  | none => true
  | some l => decide (l.length ≤ 4096)

/-- Whether a command can occur. -/
def wf : Instr → Bool
  | .identify src => srcOk src
  | .quickStart src => srcOk src
  | .createSq src => srcOk src
  | .deleteSq src => srcOk src
  | .createCq src => srcOk src
  | .deleteCq src => srcOk src
  | .disableSq src => srcOk src
  | .enableSq src => srcOk src
  | .recallSq src => srcOk src
  | .setPoll src => srcOk src
  | .setContextTable src _ => srcOk src
  | .setFieldMap src => srcOk src
  | .reserve src => srcOk src
  | .scheduleEndpoint src => srcOk src
  | .unscheduleEndpoint src => srcOk src
  | .loadReapList src _ => srcOk src
  | .clearReapList src => srcOk src
  | .reapGroup src => srcOk src
  | .createSheafRing src => srcOk src
  | .createAlarmRing src => srcOk src
  | .setTripRule src => srcOk src
  | .enumerate src => srcOk src
  | .assignDevice src => srcOk src
  | .portControl src => srcOk src
  | .deviceReset src => srcOk src
  | .readAttentionLog src => srcOk src
  | .readCounters src => srcOk src
  | .resetAccount src => srcOk src
  | .holdingCreate src => srcOk src
  | .holdingDestroy src => srcOk src
  | .allotPlots src => srcOk src
  | .holdingReset src => srcOk src
  | .holdingFreeze src => srcOk src
  | .holdingSave src => srcOk src
  | .holdingRestore src _ => srcOk src
  | .holdingThaw src => srcOk src
  | .setGleaning src => srcOk src
  | .yokeConfigure src _ => srcOk src
  | .takeSubtree src => srcOk src
  | .yokeStatus src => srcOk src
  | .powerState src => srcOk src
  | .setRetention src => srcOk src
  | .loadUserImage src _ => srcOk src
  | .userCoreControl src => srcOk src
  | .testControl src => srcOk src
  | .controllerReset src => srcOk src
  | .undefinedAdminOpcode src => srcOk src
  | .pad _ sq => queueOk sq
  | .bulkIn _ sq => queueOk sq
  | .bulkOut _ sq => queueOk sq
  | .control _ sq => queueOk sq
  | .mark _ sq => queueOk sq
  | .reservedTransferOpcode _ sq => queueOk sq
  | .pollDue _ sq => queueOk sq
  | .pollReadComplete _ sq _ => queueOk sq
  | .fetchReadComplete _ sq us => queueOk sq && fetchOk us
  | .headMirrorWrite _ sq => queueOk sq
  | .completionWrite _ cq => queueOk cq
  | .cqModerationTimeout _ cq => queueOk cq
  | .releaseWordReadComplete _ r _ => ringOk r
  | .rowListReadComplete _ _ _ us => rowsOk us
  | .receiveData _ _ bs => packetOk bs
  | .receiveAck _ _ bs => packetOk bs
  | .receiveNak _ _ bs => packetOk bs
  | .receiveStall _ _ bs => packetOk bs
  | .receiveSheaf _ _ bs => packetOk bs
  | .receiveAlarmSheaf _ _ bs => packetOk bs
  | .sheafWrite _ r => ringOk (.sheaf r)
  | .arbiterSetDword0Read _ a => offsetOk (.bar0 0) a
  | .registerWrite p a _ _ => offsetOk p a
  | .probeReadComplete _ r _ => ringOk r
  | _ => true

end Sys2Proof.WellFormed
end

