-- ==== Sys2Proof/Tests/Slice0.lean ====
section
/-! SUPPORT. Small tests: a command that each check of WellFormed refuses; values that the spec prints; and for every
hypothesis of a statement a concrete state and operands that meet it. -/

namespace Sys2Proof.Tests

set_option Elab.async false

open Sys2Proof.Machine Sys2Proof.Safety Sys2Proof.Claim

/-! ## Small states -/

/-- A value that is there. -/
theorem some_of {α : Type} {o : Option α} (h : o.isSome = true) : ∃ x, o = some x := Option.isSome_iff_exists.mp h

/-- A word made of fields: byte, bit in it, value. -/
def word (n : Nat) (l : List (Nat × Nat × Nat)) : BitVec n := BitVec.ofNat n (l.foldl (fun a x => a + x.2.2 * 2 ^ (8 * x.1 + x.2.1)) 0)

/-- An admin command of one unit with an opcode and fields. -/
def cmd (op : Nat) (l : List (Nat × Nat × Nat)) : BitVec 512 := word 512 ([(0, 0, 1), (1, 0, op)] ++ l)

/-- The same with APPLY_ONCE. -/
def once (op : Nat) (l : List (Nat × Nat × Nat)) : BitVec 512 := cmd op ([(2, 3, 1)] ++ l)

/-- The PF's mailbox. -/
abbrev mb : AdminSrc := .mailbox 0

/-- A running controller: clocks locked, firmware ready, the functions bus masters, frame 10, row 3. -/
def eng0 : Engine :=
  { Engine.reset with
    clk := { hclk := true, pclk := true, lclk := true, bclk := true, cclk := true, tclk := true, timerOn := true,
             frame := 10, row := 3, started := true, epochDue := false, nextRetire := 9 }
    pins := { inReset := false, strapYoke := false }
    pcie := { link := .l0, perst := false, vfEnable := true, numVfs := 63
              fns := Vector.replicate 64 { bme := true, crs := false } }
    fw := { ready := true } }

/-- A command in the PF's mailbox. -/
def eBox (c : BitVec 512) (e : Engine) : Engine := modMbx 0 (fun m => { m with busy := true, latched := some c }) e

/-- The state of an engine. -/
def sOf (e : Engine) : State := { eng := e, cores := {}, pending := [] }

/-- A command in the PF's mailbox of a running controller. -/
def sBox (c : BitVec 512) : State := sOf (eBox c eng0)

/-- Holding 0 changed. -/
def with0 (f : Holding → Holding) (e : Engine) : Engine := modHold 0 f e

/-- CQ 1 of holding 0. -/
def cq1 : Cq := { par := { base := 0x20000, size := 4096, release := 0x30008 } }

/-- SQ 1 of holding 0, bound to CQ 1. -/
def sq1 : Sq := { par := { base := 0, size := 4096, cq := 1, headMirror := 0x30000, kb := 2, kc := 12 }, k := 2 }

/-! ## Witnesses: queue commands (R168, R169, R180, R196, R198) -/

theorem witness_identify : identifyOk (sBox (cmd 0x01 [])) mb (cmd 0x01 []) ∧
    identifyOk (sBox (cmd 0x01 [(32, 0, 1)])) mb (cmd 0x01 [(32, 0, 1)]) := by decide +kernel

theorem witness_quickStart : quickStartOk (sBox (once 0x02 [(40, 0, 196624)])) mb (once 0x02 [(40, 0, 196624)]) := by
  decide +kernel

theorem witness_undefinedAdminOpcode : undefinedAdminOpcodeOk (sBox (cmd 0x77 [])) mb (cmd 0x77 []) := by decide +kernel

/-- The PF's mailbox holds a command; holding 0 has CQ 1 and the SQ. -/
def sSq (q : Sq) (c : BitVec 512) : State := sOf (eBox c (with0 (fun x => { x with sqs := [(1, q)], cqs := [(1, cq1)] }) eng0))

theorem witness_createSq : createSqOk (sOf (eBox (once 0x04 [(40, 0, 1048576), (44, 0, 4095), (46, 0, 1), (57, 0, 18)])
      (with0 (fun x => { x with cqs := [(1, cq1)] }) eng0))) mb
    (once 0x04 [(40, 0, 1048576), (44, 0, 4095), (46, 0, 1), (57, 0, 18)]) := by decide +kernel

theorem witness_deleteSq : deleteSqOk (sSq { sq1 with state := .disabled } (once 0x05 [(44, 0, 1)])) mb (once 0x05 [(44, 0, 1)])
    { sq1 with state := .disabled } := by decide +kernel

/-- A started entry of SQ 1 that is not reported. -/
def rec1 : BatchRec := { unit := 0, tag := 0, complete := false, interrupt := false, status := none, bytes := 0, order := 0 }

theorem witness_disableSq : disableSqOk (sSq sq1 (cmd 0x08 [(44, 0, 1)])) mb (cmd 0x08 [(44, 0, 1)]) sq1 ∧
    (quiet (sSq sq1 (cmd 0x08 [(44, 0, 1)])) mb 1 sq1).sqBusy 0 1 = false ∧
    disableSqOk (sSq { sq1 with batch := [rec1] } (cmd 0x08 [(44, 0, 1)])) mb (cmd 0x08 [(44, 0, 1)])
      { sq1 with batch := [rec1] } ∧
    (quiet (sSq { sq1 with batch := [rec1] } (cmd 0x08 [(44, 0, 1)])) mb 1 { sq1 with batch := [rec1] }).sqBusy 0 1 = true := by
  decide +kernel

theorem witness_enableSq : enableSqOk (sSq { sq1 with state := .disabled } (cmd 0x09 [(44, 0, 1)])) mb (cmd 0x09 [(44, 0, 1)])
      { sq1 with state := .disabled } ∧
    enableSqOk (sSq { sq1 with state := .disabled } (cmd 0x09 [(44, 0, 1), (48, 0, 1)])) mb (cmd 0x09 [(44, 0, 1), (48, 0, 1)])
      { sq1 with state := .disabled } := by decide +kernel

theorem witness_recallSq : recallSqOk (sSq sq1 (once 0x0A [(44, 0, 1)])) mb (once 0x0A [(44, 0, 1)]) sq1 ∧
    recallSqOk (sSq { sq1 with state := .stopping } (once 0x0A [(44, 0, 1)])) mb (once 0x0A [(44, 0, 1)])
      { sq1 with state := .stopping } := by decide +kernel

theorem witness_setPoll : setPollOk (sSq sq1 (cmd 0x0B [(44, 0, 1), (56, 0, 18), (57, 0, 18)])) mb
    (cmd 0x0B [(44, 0, 1), (56, 0, 18), (57, 0, 18)]) sq1 := by decide +kernel

theorem witness_createCq : createCqOk (sBox (once 0x06 [(40, 0, 64), (46, 0, 4095), (56, 0, 1)])) mb
    (once 0x06 [(40, 0, 64), (46, 0, 4095), (56, 0, 1)]) := by decide +kernel

theorem witness_deleteCq : deleteCqOk (sOf (eBox (once 0x07 [(46, 0, 1)]) (with0 (fun x => { x with cqs := [(1, cq1)] }) eng0))) mb
    (once 0x07 [(46, 0, 1)]) := by decide +kernel

/-! ## Witnesses: tables and schedules (R104, R115, R133, R211) -/

theorem witness_setContextTable : contextTableOk (sBox (cmd 0x10 [(40, 0, 4096), (48, 0, 4096)])) mb
      (cmd 0x10 [(40, 0, 4096), (48, 0, 4096)]) ∧
    installOk (sOf (eBox (cmd 0x10 [(32, 0, 1), (36, 0, 4095), (48, 0, 1)]) (with0 (fun x => { x with ctxEntries := 4096 }) eng0)))
      mb (cmd 0x10 [(32, 0, 1), (36, 0, 4095), (48, 0, 1)]) [0] := by decide +kernel

theorem witness_setFieldMap : setFieldMapOk (sBox (cmd 0x11 [(40, 0, 8192)])) mb (cmd 0x11 [(40, 0, 8192)]) ∧
    setFieldMapOk (sBox (cmd 0x11 [(32, 0, 1), (40, 0, 8192), (56, 0, 16777216)])) mb
      (cmd 0x11 [(32, 0, 1), (40, 0, 8192), (56, 0, 16777216)]) := by decide +kernel

theorem witness_reserve : reserveOk (sBox (cmd 0x12 [(34, 0, 200), (36, 0, 5000), (38, 0, 8), (39, 0, 16), (40, 0, 1)])) mb
    (cmd 0x12 [(34, 0, 200), (36, 0, 5000), (38, 0, 8), (39, 0, 16), (40, 0, 1)]) := by decide +kernel

/-- Device 5, of holding 0, on root port 1. -/
def dev5 : Dev :=
  { pos := .root 1, root := 1, route := 0, depth := 0, owner := 0, hub := none, present := true, configured := true,
    e0 := 0, rate := .r5000, rtt := 200 }

/-- Hub 1, of tier 1 with 8 ports, on root port 0. -/
def hub1 : Dev :=
  { dev5 with pos := .root 0, root := 0, hub := some { tier := 1, ports := 8, dual := false, down := [], leads := true } }

/-- Device 7 on port 2 of hub 1. -/
def dev7 : Dev := { dev5 with pos := .hubPort 1 2, root := 0, route := routeBelow 0 0 2, depth := 1 }

/-- A running controller with hub 1, devices 5 and 7, ports 0 and 1 ENABLED with links up. -/
def eTree : Engine :=
  { eng0 with
    commons := { devs := [(1, hub1), (5, dev5), (7, dev7)], fresh := 8 }
    ports := ((eng0.ports.set 0 { link := { state := .lup, rtt := 200 }, rh := { state := .enabled, power := true, connected := true } }).set
      1 { link := { state := .lup, rtt := 200 }, rh := { state := .enabled, power := true, connected := true } }) }

/-- A command in the PF's mailbox with that tree; holding 0 changed. -/
def sTree (f : Holding → Holding) (c : BitVec 512) : State := sOf (eBox c (with0 f eTree))

/-- A managed field map and a table of one block of contexts. -/
def managed0 (x : Holding) : Holding :=
  { x with ctxEntries := 4096, fieldMap := some { addr := 8192, managed := true, workArea := 0x1000000, workSize := 16777216 } }

/-- SCHEDULE ENDPOINT of endpoint 1 of device 5 as SOLO-IN with an interval. -/
def cSched (interval : Nat) : BitVec 512 :=
  once 0x13 [(8, 0, 5), (10, 4, 1), (32, 0, 2), (34, 0, interval), (36, 0, 64)]

theorem witness_scheduleEndpoint : scheduleOk (sTree managed0 (cSched 0xFFFF)) mb (cSched 0xFFFF) dev5 ∧
    (after (sTree managed0 (cSched 0xFFFF)) mb).rowrateShort 0 = false ∧
    scheduleOk (sTree managed0 (cSched 1)) mb (cSched 1) dev5 ∧
    (after (sTree managed0 (cSched 1)) mb).findPlace 0 1 1 (schedDesc (cScheduled (cSched 1))) = some (0, 0) := by decide +kernel

theorem witness_unscheduleEndpoint :
    unscheduleOk (sTree managed0 (cmd 0x14 [(8, 0, 5), (10, 4, 1), (32, 0, 2)])) mb (cmd 0x14 [(8, 0, 5), (10, 4, 1), (32, 0, 2)]) ∧
    unscheduleOk (sTree (fun x => { managed0 x with scheduled := [cScheduled (cSched 1)] })
      (cmd 0x14 [(8, 0, 5), (10, 4, 1), (32, 0, 2)])) mb (cmd 0x14 [(8, 0, 5), (10, 4, 1), (32, 0, 2)]) ∧
    names (cmd 0x14 [(8, 0, 5), (10, 4, 1), (32, 0, 2)]) (cScheduled (cSched 1)) = true := by decide +kernel

/-! ## Witnesses: reap lists, rings, trip rules (R148, R153 to R155, R160, R164) -/

/-- A list of one leaf: endpoint 1 of device 7, 16 bytes, below port 2 of hub 1. -/
def list1 : PlantedList :=
  { hub := 1, listId := 0, holding := 0, image := 0x4000, deadline := 200, nested := false, group := none
    entries := [BitVec.ofNat 64 (7 + 2 ^ 20 + 2 * 2 ^ 24 + 2 ^ 44 + 16 * 2 ^ 48)] }

theorem witness_loadReapList : loadReapListOk (sTree id (once 0x18 [(32, 0, 1), (40, 0, 0x4000), (48, 0, 24)])) mb
    (once 0x18 [(32, 0, 1), (40, 0, 0x4000), (48, 0, 24)]) (imageBytes list1) hub1
    { tier := 1, ports := 8, dual := false, down := [], leads := true }
    { version := 1, listId := 0, deadline := 200, tag := 0, reserved := 0, entries := list1.entries } := by
  refine ⟨?_, ?_, ?_, ?_, ?_, ?_, ?_, ?_, ?_⟩
  case refine_8 => rfl
  all_goals decide +kernel

/-- The tree with a list planted. -/
def sList (l : PlantedList) (c : BitVec 512) : State :=
  sOf (eBox c { eTree with commons := { eTree.commons with lists := [l] } })

theorem witness_clearReapList : clearReapListOk (sList list1 (once 0x19 [(32, 0, 1)])) mb (once 0x19 [(32, 0, 1)])
      { tier := 1, ports := 8, dual := false, down := [], leads := true } ∧
    clearReapListOk (sList list1 (once 0x19 [(32, 0, 1), (37, 0, 1)])) mb (once 0x19 [(32, 0, 1), (37, 0, 1)])
      { tier := 1, ports := 8, dual := false, down := [], leads := true } := by decide +kernel

/-- A group of endpoint 1 on root port 0. -/
def group1 : ReapGroup := { root := 0, rootPort := some 0, ep := 1, limit := 16, interval := 1, ring := 0 }

theorem witness_reapGroup :
    removeGroupOk (sTree (fun x => { managed0 x with groups := [(3, group1)] }) (once 0x1A [(42, 0, 3)])) mb (once 0x1A [(42, 0, 3)]) ∧
    makeGroupOk (sTree managed0 (once 0x1A [(35, 1, 1), (36, 0, 15), (38, 0, 1024), (40, 0, 16), (42, 0, 0xFFFF)])) mb
      (once 0x1A [(35, 1, 1), (36, 0, 15), (38, 0, 1024), (40, 0, 16), (42, 0, 0xFFFF)]) 0 0 := by decide +kernel

theorem witness_createSheafRing :
    makeRingOk (sBox (once 0x1B [(40, 0, 65536), (56, 0, 255), (58, 0, 1024)])) mb (once 0x1B [(40, 0, 65536), (56, 0, 255), (58, 0, 1024)]) ∧
    removeRingOk (sOf (eBox (once 0x1B [(56, 0, 1)]) (with0 (fun x => { x with rings := [(1, { par := {} })] }) eng0))) mb
      (once 0x1B [(56, 0, 1)]) { par := {} } ∧
    geMod (eng0.clk.retired + 1) ((after (sOf (eBox (once 0x1B [(56, 0, 1)])
      (with0 (fun x => { x with rings := [(1, { par := {} })] }) eng0))) mb).nextG.setWidth 32) = false ∧
    removeRingOk (sOf (eBox (once 0x1B [(56, 0, 1)]) (with0 (fun x => { x with rings := [(1, { par := {} })] })
      { eng0 with clk := { eng0.clk with retired := 10 } }))) mb (once 0x1B [(56, 0, 1)]) { par := {} } ∧
    geMod (10#32 + 1) ((after (sOf (eBox (once 0x1B [(56, 0, 1)]) (with0 (fun x => { x with rings := [(1, { par := {} })] })
      { eng0 with clk := { eng0.clk with retired := 10 } }))) mb).nextG.setWidth 32) = true := by decide +kernel

theorem witness_createAlarmRing :
    makeAlarmRingOk (sBox (once 0x1C [(40, 0, 64), (58, 0, 1)])) mb (once 0x1C [(40, 0, 64), (58, 0, 1)]) ∧
    removeAlarmRingOk (sOf (eBox (once 0x1C []) (with0 (fun x => { x with alarmRing := some { par := {} } }) eng0))) mb
      (once 0x1C []) := by decide +kernel

theorem witness_setTripRule : setTripRuleOk (sBox (cmd 0x1D [(32, 0, 1023), (34, 0, 1), (35, 0, 1), (36, 0, 15)])) mb
    (cmd 0x1D [(32, 0, 1023), (34, 0, 1), (35, 0, 1), (36, 0, 15)]) ∧
    setTripRuleOk (sBox (cmd 0x1D [(35, 0, 0x12)])) mb (cmd 0x1D [(35, 0, 0x12)]) := by decide +kernel

/-! ## Witnesses: the tree, logs, counters, accounts (R72, R82, R84, R215, R222, R236, R401) -/

theorem witness_enumerate : listOk (sBox (cmd 0x20 [])) mb (cmd 0x20 []) ∧
    modeOk (sBox (cmd 0x20 [(32, 0, 1), (33, 0, 1)])) mb (cmd 0x20 [(32, 0, 1), (33, 0, 1)]) ∧
    portOk (sTree id (once 0x20 [(32, 0, 2), (36, 0, 1), (40, 0, 7), (44, 0, 0xFFFFE)])) mb
      (once 0x20 [(32, 0, 2), (36, 0, 1), (40, 0, 7), (44, 0, 0xFFFFE)]) ∧
    portOk (sTree id (once 0x20 [(32, 0, 2), (39, 1, 1), (38, 4, 15), (39, 0, 1)])) mb
      (once 0x20 [(32, 0, 2), (39, 1, 1), (38, 4, 15), (39, 0, 1)]) := by
  refine ⟨?_, ?_, ?_, ?_⟩ <;> decide +kernel

theorem witness_assignDevice : assignOk (sTree id (cmd 0x21 [(32, 0, 1), (36, 0, 2)])) mb (cmd 0x21 [(32, 0, 1), (36, 0, 2)]) 0 ∧
    (after (sTree id (cmd 0x21 [(32, 0, 1), (36, 0, 2)])) mb).changing
      (cPosition (cmd 0x21 [(32, 0, 1), (36, 0, 2)]) 32 36) 0 = [] := by decide +kernel

/-- PORT CONTROL on root port 0. -/
def cRoot (l : List (Nat × Nat × Nat)) : BitVec 512 := cmd 0x22 ([(35, 1, 1)] ++ l)

theorem witness_portControl : rootControlOk (sTree id (cRoot [])) mb (cRoot []) 0 ∧
    rootControlOk (sTree id (cRoot [(38, 0, 8), (40, 0, 64), (41, 0, 8)])) mb (cRoot [(38, 0, 8), (40, 0, 64), (41, 0, 8)]) 0 ∧
    rootControlOk (sTree id (cRoot [(38, 0, 9), (42, 0, 32)])) mb (cRoot [(38, 0, 9), (42, 0, 32)]) 0 ∧
    hubControlOk (sTree id (cmd 0x22 [(32, 0, 1), (36, 0, 7)])) mb (cmd 0x22 [(32, 0, 1), (36, 0, 7)]) ∧
    hubControlOk (sTree id (cmd 0x22 [(32, 0, 1), (36, 0, 7), (38, 0, 1)])) mb (cmd 0x22 [(32, 0, 1), (36, 0, 7), (38, 0, 1)]) ∧
    (after (sTree id (cmd 0x22 [(32, 0, 1), (36, 0, 7), (38, 0, 1)])) mb).rootOf 1 = some 0 := by
  refine ⟨?_, ?_, ?_, ?_, ?_, ?_⟩ <;> decide +kernel

/-- PORT CONTROL of a suspended root port 0: a resume. -/
def sResume : State :=
  sOf (eBox (cRoot [(38, 0, 6)]) (modPort 0 (fun t => { t with
    link := { t.link with state := .lquiet }, rh := { t.rh with state := .suspended } }) eTree))

theorem witness_rootOrders : ∀ x ∈ [(sTree id (cRoot [(2, 3, 1), (38, 0, 3), (39, 0, 12)]), cRoot [(2, 3, 1), (38, 0, 3), (39, 0, 12)]),
    (sTree id (cRoot [(38, 0, 2)]), cRoot [(38, 0, 2)]), (sResume, cRoot [(38, 0, 6)])], ∃ e, rootOrderOk x.1 mb x.2 0 e := by
  have h : ∀ x ∈ [(sTree id (cRoot [(2, 3, 1), (38, 0, 3), (39, 0, 12)]), cRoot [(2, 3, 1), (38, 0, 3), (39, 0, 12)]),
      (sTree id (cRoot [(38, 0, 2)]), cRoot [(38, 0, 2)]), (sResume, cRoot [(38, 0, 6)])], rootControlOk x.1 mb x.2 0 ∧
      1 ≤ cf x.2 38 0 8 ∧ cf x.2 38 0 8 ≤ 7 ∧ (orderRoot 0 (cf x.2 38 0 8) (cf x.2 39 0 8) (after x.1 mb)).isSome = true := by
    decide +kernel
  intro x hx
  obtain ⟨a, b, c, d⟩ := h x hx
  obtain ⟨e, he⟩ := some_of d
  exact ⟨e, a, b, c, he⟩

/-- DEVICE RESET of a device. -/
def cReset (d : Nat) : BitVec 512 := once 0x23 [(8, 0, d)]

theorem witness_deviceReset : deviceResetOk (sTree id (cReset 5)) mb (cReset 5) dev5 ∧
    (orderRoot 1 3 0 (after (sTree id (cReset 5)) mb)).isSome = true ∧
    deviceResetOk (sTree id (cReset 7)) mb (cReset 7) dev7 := by
  refine ⟨?_, ?_, ?_⟩ <;> decide +kernel

theorem witness_readAttentionLog : readLogOk (sBox (cmd 0x28 [(40, 0, 64)])) mb (cmd 0x28 [(40, 0, 64)]) := by decide +kernel

theorem witness_readCounters : ∀ g ∈ [0, 1, 2, 3, 4, 5],
    let c := once 0x29 [(32, 0, g), (33, 0, if g = 2 ∨ g = 5 then 0 else 31), (34, 0, 1)]
    readCountersOk (sBox c) mb c := by
  decide +kernel

theorem witness_resetAccount : resetAccountOk (sBox (cmd 0x2A [(12, 0, 64)])) mb (cmd 0x2A [(12, 0, 64)]) := by decide +kernel

/-! ## Witnesses: holdings (R125, R230 to R232, R241, R246 to R251) -/

/-- A running controller with plots 254 and 255 free, and a holding 2 if `h` is given. -/
def eHold (h : Option Holding) : Engine :=
  let e := modPlot 254 (fun q => { q with allotted := false }) (modPlot 255 (fun q => { q with allotted := false }) eng0)
  match h with | none => e | some x => modHold 2 (fun _ => x) e

/-- A command of the PF in that controller. -/
def sHold (h : Option Holding) (c : BitVec 512) : State := sOf (eBox c (eHold h))

/-- A holding that exists, with no quota. -/
def bare : Holding := { created := true }

theorem witness_holdingCreate : holdingCreateOk (sHold none (once 0x30 [(32, 0, 2), (33, 0, 1), (34, 0, 4096), (36, 0, 4096),
      (38, 0, 4194304), (42, 0, 4096), (44, 0, 8388608), (48, 0, 1), (52, 0, 256)])) mb
    (once 0x30 [(32, 0, 2), (33, 0, 1), (34, 0, 4096), (36, 0, 4096), (38, 0, 4194304), (42, 0, 4096), (44, 0, 8388608), (48, 0, 1),
      (52, 0, 256)]) := by decide +kernel

theorem witness_holdingDestroy : holdingDestroyOk (sHold (some bare) (once 0x31 [(32, 0, 2)])) mb (once 0x31 [(32, 0, 2)]) := by
  decide +kernel

theorem witness_allotPlots : ∀ n ∈ [253, 254, 255], allotPlotsOk (sHold none (cmd 0x32 [(33, 0, n)])) mb (cmd 0x32 [(33, 0, n)]) := by
  decide +kernel

theorem witness_holdingReset : holdingResetOk (sHold (some bare) (once 0x33 [(32, 0, 2)])) mb (once 0x33 [(32, 0, 2)]) := by
  decide +kernel

theorem witness_setGleaning : setGleaningOk (sHold none (cmd 0x38 [(36, 0, 0xFFFFFFFF)])) mb (cmd 0x38 [(36, 0, 0xFFFFFFFF)]) := by
  decide +kernel

/-- A frozen holding. -/
def frozen2 : Holding := { bare with freeze := some { frame := 5, reached := true } }

theorem witness_holdingFreeze : holdingFreezeOk (sHold (some bare) (cmd 0x34 [(32, 0, 2)])) mb (cmd 0x34 [(32, 0, 2)]) ∧
    holdingFreezeOk (sHold (some frozen2) (cmd 0x34 [(32, 0, 2)])) mb (cmd 0x34 [(32, 0, 2)]) := by decide +kernel

theorem witness_holdingSave : holdingSaveOk (sHold (some frozen2) (cmd 0x35 [(32, 0, 2), (40, 0, 4096), (48, 0, 4096)])) mb
    (cmd 0x35 [(32, 0, 2), (40, 0, 4096), (48, 0, 4096)]) := by decide +kernel

/-- An image of a holding without objects. -/
def image0 : SaveImage :=
  { version := 1, holding := 2, managed := false, epoch := 0, etc := 0, frame := 0, serial := 0, sqs := [], cqs := [], rings := [],
    alarm := none, fieldMap := none, ctxBase := 0, ctxEntries := 0, lists := [], groups := [], scheduled := [], seqs := [],
    digest := 0 }

/-- HOLDING RESTORE into holding 2. -/
def cRestore : BitVec 512 := once 0x36 [(32, 0, 2), (40, 0, 4096), (48, 0, 4096)]

theorem witness_holdingRestore : holdingRestoreOk (sHold (some bare) cRestore) mb cRestore image0 := by decide +kernel

theorem witness_restoreDigest (d : BitVec 256) : holdingRestoreOk (sHold (some bare) cRestore) mb cRestore { image0 with digest := d } :=
  witness_holdingRestore

/-- The digest of an image does not depend on the digest that it carries. -/
theorem body_of (d : BitVec 256) : imageBody image0 = imageBody { image0 with digest := d } := rfl

theorem witness_restoreDigestAgrees : ∃ m : SaveImage, holdingRestoreOk (sHold (some bare) cRestore) mb cRestore m ∧
    m.digest = sha256 (imageBody m) :=
  ⟨{ image0 with digest := sha256 (imageBody image0) }, witness_restoreDigest _, congrArg sha256 (body_of _)⟩

theorem witness_restoreDigestDiffers : ∃ m : SaveImage, holdingRestoreOk (sHold (some bare) cRestore) mb cRestore m ∧
    m.digest ≠ sha256 (imageBody m) := by
  by_cases h : (0 : BitVec 256) = sha256 (imageBody image0)
  · exact ⟨{ image0 with digest := 1 }, witness_restoreDigest _, fun x => absurd ((x.trans (congrArg sha256 (body_of 1)).symm).trans h.symm)
      (by decide)⟩
  · exact ⟨image0, witness_holdingRestore, h⟩

theorem witness_holdingThaw : holdingThawOk (sHold (some frozen2) (cmd 0x37 [(32, 0, 2)])) mb (cmd 0x37 [(32, 0, 2)]) := by
  decide +kernel

/-! ## Witnesses: yoke, power, user cores, test and reset commands (R217, R265, R267, R325, R366, R402) -/

theorem witness_yokeConfigure : yokeConfigureOk (sBox (cmd 0x40 [(32, 0, 3)])) mb (cmd 0x40 [(32, 0, 3)]) ∧
    (true ≠ (sBox (cmd 0x40 [(32, 0, 3)])).eng.senior ∨ false ≠ (sBox (cmd 0x40 [(32, 0, 3)])).eng.senior) ∧
    yokeConfigureOk (sOf (eBox (cmd 0x40 [(32, 0, 3)]) { eng0 with yoke := { link := .up } })) mb (cmd 0x40 [(32, 0, 3)]) := by
  decide +kernel

/-- The tree, yoked on root ports 0 and 1. -/
def eYoke : Engine :=
  { eTree with yoke := { yoked := true, link := .up, yokedPorts := 3, seniorLeads := 3, missLink := 0, missWire := 0 } }

/-- TAKE SUBTREE of root port 1. -/
def cTake : BitVec 512 := cmd 0x41 [(34, 4, 1), (35, 1, 1)]

theorem witness_takeSubtree : takeSubtreeOk (sOf (eBox cTake eYoke)) mb cTake ∧
    (after (sOf (eBox cTake eYoke)) mb).leadsPos (cLead cTake) = true ∧
    takeSubtreeOk (sOf (eBox cTake (modPort 1 (fun t => { t with leads := false }) eYoke))) mb cTake ∧
    (after (sOf (eBox cTake (modPort 1 (fun t => { t with leads := false }) eYoke))) mb).leadsPos (cLead cTake) = false := by
  refine ⟨⟨?_, ?_, ?_, ?_, ?_⟩, ?_, ⟨?_, ?_, ?_, ?_, ?_⟩, ?_⟩ <;> decide +kernel

theorem witness_yokeStatus : yokeStatusOk (sBox (cmd 0x42 [])) mb (cmd 0x42 []) := by decide +kernel

theorem witness_powerState : powerStateOk (sBox (cmd 0x48 [])) mb (cmd 0x48 []) ∧
    powerStateOk (sBox (cmd 0x48 [(32, 0, 1), (36, 0, 3)])) mb (cmd 0x48 [(32, 0, 1), (36, 0, 3)]) ∧
    (watchShort 3 (after (sBox (cmd 0x48 [(32, 0, 1), (36, 0, 3)])) mb)).1 = false ∧
    powerStateOk (sBox (cmd 0x48 [(32, 0, 2)])) mb (cmd 0x48 [(32, 0, 2)]) := by decide +kernel

theorem witness_setRetention : setRetentionOk (sBox (cmd 0x49 [(32, 0, 63), (34, 0, 1023)])) mb (cmd 0x49 [(32, 0, 63), (34, 0, 1023)]) := by
  decide +kernel

/-- An image for core 4 with four bytes of TCM, entered at their first, and 64 bytes of signature. -/
def userBytes (signature : Nat) : List Byte :=
  leBytes 4 0x49554751 ++ leBytes 2 1 ++ leBytes 2 4 ++ leBytes 4 (tcmBase 4) ++ leBytes 4 4 ++ leBytes 28 0 ++ leBytes 84 0 ++
    leBytes 4 0x13 ++ leBytes 64 signature

/-- The signature of that image by the private key 7 with the nonce 11, computed apart from the model by the equations of
ECDSA. -/
def userSignature : Nat :=
  0xdebe68df4421a2799d114c57c5c99e9a3283d615576b060561be1aef8a18ab02d121bc74d3913343bf485025d02e7416da1cc2b09d373806594c3b88b713d13e

/-- The public key of the private key 7. -/
def userKey : BitVec 512 :=
  0xb400f4c1861a5ec5211b04cb3336c7530090f5a6839f066d361833e0bd1deb73a3b28731702806305bef0fa8b8f8f97e60fb017c6630bb25467bbfa06f3b538e#512

/-- LOAD USER IMAGE of those bytes. -/
def cImage : BitVec 512 := once 0x50 [(32, 0, 4), (40, 0, 4096), (48, 0, 196)]

/-- LOAD USER IMAGE on a controller whose OTP key is programmed. -/
def sImage : State := sOf (eBox cImage { eng0 with fw := { ready := true, otp := some userKey } })

theorem witness_loadUserImage : loadUserImageOk sImage mb cImage (userBytes userSignature) 4 ∧
    loadUserImageOk sImage mb cImage (userBytes 0) 4 ∧
    (imaging sImage mb cImage).signedOk (userFile (userBytes 0)) = false := by
  refine ⟨?_, ?_, ?_⟩ <;> decide +kernel

theorem witness_signedImage : (imaging sImage mb cImage).signedOk (userFile (userBytes userSignature)) = true := by
  decide +kernel

/-- The digest of the three bytes "abc" that FIPS 180-4's example prints. -/
theorem test_sha256 : sha256 [0x61, 0x62, 0x63] =
    0xba7816bf8f01cfea414140de5dae2223b00361a396177a9cb410ff61f20015ad#256 := by decide +kernel

/-- USER CORE CONTROL of core 4, whose state is given. -/
def sCore (st : CoreState) (action : Nat) : State :=
  { sBox (cmd 0x51 [(32, 0, 4), (33, 0, action)]) with cores := modCore 4 (fun x => { x with state := st }) {} }

/-- USER CORE CONTROL of core 4. -/
def cCore (action : Nat) : BitVec 512 := cmd 0x51 [(32, 0, 4), (33, 0, action)]

/-- An action that a core's state allows has cores after it. -/
theorem action_some (e : Engine) (k : Cores) (st : CoreState) (action : Nat) (h : (k.at 4).state = st)
    (m : (st, action) ∈ [(CoreState.halted, 0), (.running, 2), (.halted, 3), (.stopped, 4)]) :
    ∃ k', coreAction e 4 action k = some k' := by
  fin_cases m <;> simp only [coreAction, h] <;> exact ⟨_, rfl⟩

theorem witness_userCoreControl (st : CoreState) (action : Nat) (h : (st, action) ∈ [(CoreState.halted, 0), (.running, 2),
    (.halted, 3), (.stopped, 4)]) : ∃ k, userCoreControlOk (sCore st action) mb (cCore action) 4 k := by
  have a : Taken (sCore st action) mb (cCore action) 0x51 false [(32, 0, 8), (33, 0, 8)] ∧ Idle (sCore st action) mb ∧
      userCoreOf (cf (cCore action) 32 0 8) = some 4 ∧ cf (cCore action) 33 0 8 = action ∧ action ≤ 4 ∧
      ((sCore st action).cores.at 4).state = st := by
    fin_cases h <;> decide +kernel
  obtain ⟨a1, a2, a3, a4, a5, a6⟩ := a
  obtain ⟨k, hk⟩ := action_some (after (sCore st action) mb) (sCore st action).cores st action a6 h
  refine ⟨k, a1, a2, rfl, a3, ?_, ?_⟩
  · rw [a4]; exact a5
  · rw [a4]; exact hk

theorem witness_testControl : testControlOk (sOf (eBox (cmd 0x58 [(32, 0, 18), (33, 0, 1), (36, 0, 3), (40, 0, 255)])
    { eng0 with test := { byKey := true } })) mb (cmd 0x58 [(32, 0, 18), (33, 0, 1), (36, 0, 3), (40, 0, 255)]) := by decide +kernel

theorem witness_controllerReset : controllerResetOk (sBox (once 0x5F [(32, 0, 0x5F5F)])) mb (once 0x5F [(32, 0, 0x5F5F)]) := by
  decide +kernel

theorem witness_controllerResetTakesEffect : (sOf { eng0 with fw := { resetComing := true } }).eng.fw.resetComing = true := rfl

/-! ## Witnesses: the mailbox, entries, polls, completions (R171 to R194, R204, R228) -/

theorem witness_mbxGo : mbxGoOk (sOf eng0) 63 1 1 ∧ ((sOf eng0).eng.fn 63).mbx.busy = false ∧
    mbxGoOk (sBox 0) 0 1 15 ∧ ((sBox 0).eng.fn 0).mbx.busy = true := by decide +kernel

/-- The header unit of an entry: opcode, phase 1, and further fields. -/
def unit (op : Nat) (l : List (Nat × Nat × Nat)) : BitVec 256 := word 256 ([(0, 7, 1), (1, 0, op)] ++ l)

/-- SQ 1 with an entry of one unit cached. -/
def sqWith (u : BitVec 256) : Sq := { sq1 with cached := [{ unit := 0, units := [u] }], next := { at_ := 1 } }

/-- Holding 0 with SQ 1, CQ 1, a block of contexts and the context of endpoint 1 of device 5 at index 0, on the tree; plot 0 holds
the block. -/
def eQueue (q : Sq) : Engine :=
  modPlot 0 (fun p => { p with count := 4096 }) (with0 (fun x => { x with
    sqs := [(1, q)], cqs := [(1, { cq1 with reserved := 1 })], ctxEntries := 4096, ctxOf := [((5, 1), 0)] }) eTree)

theorem witness_pad : padOk (sOf (eQueue (sqWith (unit 0 [])))) 0 1 (sqWith (unit 0 [])) { unit := 0, units := [unit 0 []] } (unit 0 []) := by
  decide +kernel

/-- A BULK entry of 64 bytes for an endpoint of device 5. -/
def bulk (op ep : Nat) : BitVec 256 := unit op [(8, 0, 5), (10, 4, ep), (12, 0, 64), (16, 0, 0x5000), (24, 0, 64)]

/-- The started form of the hypotheses, for an entry of one unit. -/
abbrev startOf (op : Nat) (u : BitVec 256) : Prop :=
  startOk (sOf (eQueue (sqWith u))) 0 1 op (sqWith u) { unit := 0, units := [u] } u

/-- The engine with that entry started. -/
abbrev begunOf (u : BitVec 256) : Engine := begun (sOf (eQueue (sqWith u))) 0 1 { unit := 0, units := [u] } u

theorem witness_bulk : ∀ op ∈ [1, 2],
    (startOf op (bulk op 1) ∧ bulkCheck [bulk op 1] = some [(0x5000, 64)] ∧
      (freeRecords (eQueue (sqWith (bulk op 1)))).unplaced 0 5 1 = false ∧ (begunOf (bulk op 1)).lookup 0 5 1 = none ∧
      ((begunOf (bulk op 1)).hold 0).ctxIndex 5 1 = some 0 ∧ (begunOf (bulk op 1)).plotOf 0 0 = some 0) := by decide +kernel

theorem witness_bulkLookup : ∀ op ∈ [1, 2], startOf op (bulk op 2) ∧ bulkCheck [bulk op 2] = some [(0x5000, 64)] ∧
    (freeRecords (eQueue (sqWith (bulk op 2)))).lookup 0 5 2 = some 0x33 ∧ (begunOf (bulk op 2)).lookup 0 5 2 = some 0x33 := by
  decide +kernel

theorem witness_bulkForm : ∀ op ∈ [1, 2], startOf op (bulk op 0) ∧ bulkCheck [bulk op 0] = none := by decide +kernel

/-- A CONTROL entry without a data stage for endpoint 0 of device 5, with a request code. -/
def ctl (code : Nat) : BitVec 256 := unit 3 [(8, 0, 5), (16, 0, code)]

theorem witness_control : startOf 3 (ctl 1) ∧ controlCheck [ctl 1] = some [] ∧ startOf 3 (ctl 2) ∧ (controlCheck [ctl 2]).isSome = true ∧
    setupCode (eSetup (ctl 1)) ≠ 2 ∧ setupCode (eSetup (ctl 2)) = 2 := by decide +kernel

theorem witness_mark : markOk (sOf (eQueue (sqWith (unit 4 [])))) 0 1 (sqWith (unit 4 [])) { unit := 0, units := [unit 4 []] } (unit 4 []) := by
  decide +kernel

theorem witness_reserved : ∀ op ∈ [5, 255], reservedOk (sOf (eQueue (sqWith (unit op [])))) 0 1 (sqWith (unit op []))
    { unit := 0, units := [unit op []] } (unit op []) := by decide +kernel

/-- A CQ 1 without a free slot. -/
def cqFull : Cq := { cq1 with reserved := 4096 }

theorem witness_pollDue : pollDueOk (sOf (eQueue sq1)) 0 1 sq1 ∧ (eQueue sq1).cqRoom 0 1 sq1 = true ∧
    pollDueOk (sOf (with0 (fun x => { x with cqs := [(1, cqFull)] }) (eQueue sq1))) 0 1 sq1 ∧
    cqKey 1 sq1.par.cq = 1 ∧
    (with0 (fun x => { x with cqs := [(1, cqFull)] }) (eQueue sq1)).cqRoom 0 1 sq1 = false := by decide +kernel

/-- The engine with reads outstanding. -/
def reading (l : List ReadTag) (e : Engine) : Engine := { e with reads := l.map fun t => { tag := t, who := readWho t } }

theorem witness_pollReadComplete :
    pollReadOk (sOf (reading [.poll 0 1] (eQueue { sq1 with polling := [sq1.next] }))) 0 1 { sq1 with polling := [sq1.next] } sq1.next [] ∧
    pollReadOk (sOf (reading [.poll 0 1] (eQueue { sq1 with polling := [{ at_ := 7 }] }))) 0 1 { sq1 with polling := [{ at_ := 7 }] } { at_ := 7 } [] ∧
    ({ at_ := 7 } : RingPos) ≠ sq1.next := by
  decide +kernel

/-- An SQ that has seen its first entry and is fetching it. -/
def sqFetch : Sq := { sq1 with next := { at_ := 1 }, seen := [(0, 1, false)], fetching := some (0, 16) }

theorem witness_fetchReadComplete : fetchReadOk (sOf (reading [.fetch 0 1] (eQueue sqFetch))) 0 1 sqFetch 0 16 ∧
    walkFetch sqFetch 0 ([bulk 1 1].take 16) (({ cq1 with reserved := 1 } : Cq).free 1) 17 0 [(0, 1, false)] [] [] =
      ([{ unit := 0, units := [bulk 1 1] }], []) := by decide +kernel

theorem witness_headMirrorWrite : headMirrorOk (sOf (eQueue { sq1 with mirrorDue := true })) 0 1 { sq1 with mirrorDue := true } := by
  decide +kernel

/-- A formed completion. -/
def done1 : Completion := { status := 0, sq := 1, index := 0, count := 1, dword2 := 64, tag := 9 }

theorem witness_completionWrite : completionOk (sOf (with0 (fun x => { x with cqs := [(1, { cq1 with queue := [done1] })] }) eng0)) 0 1
    { cq1 with queue := [done1] } done1 [] := by decide +kernel

/-- A CQ with messages that has written a completion without one. -/
def cqMsg (l : List Completion) : Cq := { cq1 with par := { cq1.par with ien := true, modTime := 50 }, sinceMsg := 1, queue := l }

theorem witness_cqModerationTimeout : ∀ l ∈ [[], [done1]],
    moderationOk (sOf (with0 (fun x => { x with cqs := [(1, cqMsg l)] }) eng0)) 0 1 (cqMsg l) := by decide +kernel

theorem witness_msixUnmask : ∀ b : Bool, (((modPfn 0 (fun x => { x with msix := [(3, { pending := b })] }) eng0).pfn 0).vector 3).pending = b ∧
    (modPfn 0 (fun x => { x with msix := [(3, { pending := b })] }) eng0).held 0 = false := by decide +kernel

theorem witness_conditionNoteWrite : noteOk (sOf (with0 (fun x => { x with cqs := [(0, { cq1 with par := { cq1.par with size := 64 } })] })
    (modFn 0 (fun x => { x with note := some false }) { eng0 with pwr := { throttled := true } }))) 0
    { cq1 with par := { cq1.par with size := 64 } } := by decide +kernel

/-- A release word read for a ring of holding 0. -/
def sRelease (r : RingRef) : State :=
  sOf (reading [.release 0 r] (with0 (fun x => { x with cqs := [(1, cq1)], rings := [(2, { par := {} })] }) eng0))

theorem witness_releaseWordReadComplete : releaseOk (sRelease (.cq 1)) 0 (.cq 1) ∧ releaseOf 4095 4096 1 = some { at_ := 4095, phase := false } ∧
    releaseOf 4096 4096 1 = none ∧ releaseOk (sRelease (.sheaf 2)) 0 (.sheaf 2) ∧ releaseOf 65528 65536 8 = some { at_ := 65528, phase := false } := by
  decide +kernel

/-- An item of SQ 1 for endpoint 1 of device 5. -/
def item1 (op : Nat) (ph : ItemPhase) : Item :=
  { newItem 0 1 op sq1 { unit := 0, units := [bulk op 1] } (bulk op 1) 7 0 [(0x5000, 64)] none with phase := ph }

/-- That item, with a read outstanding. -/
def sItem (op : Nat) (ph : ItemPhase) (relayed : Bool) (l : List ReadTag) : State :=
  sOf (reading l { eQueue sq1 with items := [{ item1 op ph with jr := { (item1 op ph).jr with relayed } }] })

theorem witness_contextReadComplete : contextOk (sItem 1 .waitContext false [.context 7]) 7 (item1 1 .waitContext) 0 ∧
    ctxSuits (word 256 [(0, 0, 5), (2, 4, 1), (3, 0, 2), (3, 2, 1), (4, 0, 1024)]) 1 = true ∧ ctxSuits 0 1 = false := by decide +kernel

/-- An item whose OUT data is read, on a controller that does not lead root port 1. -/
def sAway (link : YokeLink) : State :=
  sOf (reading [.outData 7] { eQueue sq1 with
    items := [item1 2 .waitData], yoke := { yoked := true, yokedPorts := 3, link }
    ports := (eQueue sq1).ports.map fun t => { t with leads := false } })

theorem witness_outDataReadComplete : outDataOk (sItem 2 .waitData false [.outData 7]) 7 (item1 2 .waitData) ∧
    (landed (sItem 2 .waitData false [.outData 7]) (.outData 7)).runsDev 5 = true ∧
    outDataOk (sAway .up) 7 (item1 2 .waitData) ∧ (landed (sAway .up) (.outData 7)).runsDev 5 = false ∧
    (landed (sAway .up) (.outData 7)).yoke.link = .up ∧
    outDataOk (sAway .down) 7 (item1 2 .waitData) ∧ (landed (sAway .down) (.outData 7)).runsDev 5 = false ∧
    (landed (sAway .down) (.outData 7)).yoke.link ≠ .up ∧ (landed (sAway .down) (.outData 7)).yoke.partnerLost = false := by
  decide +kernel

/-! ## Witnesses: frame time (R57, R100 to R113, R126, R142) -/

/-- Holding 0 with an unmanaged field map at 8192, on the tree. -/
def eMap : Engine := with0 (fun x => { x with fieldMap := some { addr := 8192 }, ctxEntries := 4096 }) eTree

theorem witness_headland : headlandOk (sOf eMap) ∧ readsSlot eMap 11 0 { addr := 8192 } := by decide +kernel

/-- A slot entry of frame 11 being read. -/
def sSlot : State := sOf (reading [.slot 0 false] (with0 (fun x => { x with slotReads := [(false, 11)] }) eMap))

theorem witness_slotEntryReadComplete : slotOk sSlot 0 false 11 ∧ fldN (2 : Qword) 1 7 ≠ 0 ∧ fldN (0 : Qword) 1 7 = 0 ∧
    bitOf (0 : Qword) 0 = false ∧ fldN (1 : Qword) 1 7 = 0 ∧ bitOf (1 : Qword) 0 = true ∧ sSlot.eng.toSpare = [] := by
  refine ⟨?_, ?_, ?_, ?_, ?_, ?_, ?_⟩ <;> decide +kernel

/-- A walk of plot 0 that reads its table, or row 2's list. -/
def walk0 (table : Option (List (BitVec 128))) : Walk := { frame := 11, table, row := 2 }

/-- The reads of that walk. -/
def sRows (what : Option (Fin 16)) (w : Walk) : State :=
  sOf (reading [.rows 0 false what] (modPlot 0 (fun q => { q with count := 4096, walks := [w] }) eMap))

theorem witness_rowListReadComplete : rowsOk (sRows none (walk0 none)) 0 false none 0 (walk0 none) ∧
    rowsOk (sRows (some 2) (walk0 (some []))) 0 false (some 2) 0 (walk0 (some [])) := by decide +kernel

/-- A staged SOLO-OUT (kind 3) or SOLO-IN (kind 2) of device 5 for row 3 of frame 10. -/
def solo (kind : Nat) (ph : StagePhase) : Staged :=
  { id := 4, holding := 0, plot := 0, port := 1, frame := 10, row := 3, listIndex := 0
    raw := word 256 [(0, 0, kind), (4, 0, 5), (6, 4, 1), (12, 0, 64), (16, 0, 0x6000)], charge := 20, span := 2000, phase := ph }

/-- It, with a read outstanding. -/
def sSolo (t : ReadTag) (d : Staged) : State := sOf (reading [t] { eMap with staged := [d] })

theorem witness_outSlotReadComplete : ∀ k ∈ [1, 2, 3], ∀ n ∈ [1, 2],
    outSlotOk (sSolo (.outSlot 4) (solo 3 (.fetchSlot k n))) 4 (solo 3 (.fetchSlot k n)) k n := by decide +kernel

theorem witness_outSlotValues : leAt 4 2 (leBytes 8 (2 ^ 32)) ≠ 0 ∧ leAt 0 4 (leBytes 4 2) = 2 ∧ leAt 0 4 (leBytes 4 3) ≠ 2 ∧
    dLen (solo 3 .ready).raw = 64 := by decide +kernel

theorem witness_soloContextFetchComplete : ∀ k ∈ [2, 3],
    soloOkay (sSolo (.soloContext 4) (solo k .fetchContext)) 4 (solo k .fetchContext) ∧ dKind (solo k .fetchContext).raw = k ∧
    (sSolo (.soloContext 4) (solo k .fetchContext)).eng.ctxLine 0 0 = none := by decide +kernel

/-- A cache of 4,096 lines of endpoint 1 of device 5, which has an item: none can be given up. -/
def fullCache (e : Engine) : Engine :=
  modPlot 0 (fun q => { q with cache := List.replicate 4096 (9, { raw := word 256 [(0, 0, 5), (2, 4, 1)], dirty := false }) })
    { e with items := [item1 1 .waitContext] }

theorem witness_fullCache : soloOkay (sOf (fullCache (sSolo (.soloContext 4) (solo 2 .fetchContext)).eng)) 4 (solo 2 .fetchContext) ∧
    (fullCache (sSolo (.soloContext 4) (solo 2 .fetchContext)).eng).ctxLine 0 0 = none ∧
    admitCtx 0 0 0 { raw := 0, dirty := false } (landed (sOf (fullCache (sSolo (.soloContext 4) (solo 2 .fetchContext)).eng))
      (.soloContext 4)) = none ∧
    contextOk (sOf (fullCache (sItem 1 .waitContext false [.context 7]).eng)) 7 (item1 1 .waitContext) 0 ∧
    cached (sOf (fullCache (sItem 1 .waitContext false [.context 7]).eng)) 7 (item1 1 .waitContext) 0 0 = none := by
  refine ⟨?_, ?_, ?_, ?_, ?_⟩ <;> decide +kernel

theorem witness_soloContextCached : soloOkay (sOf (modPlot 0 (fun q => { q with cache := [(0, { raw := 0, dirty := false })] })
      (sSolo (.soloContext 4) (solo 2 .fetchContext)).eng)) 4 (solo 2 .fetchContext) ∧
    (modPlot 0 (fun q => { q with cache := [(0, { raw := 0, dirty := false })] })
      (sSolo (.soloContext 4) (solo 2 .fetchContext)).eng).ctxLine 0 0 = some { raw := 0, dirty := false } := by decide +kernel

/-- A staged REAP of list 0 of hub 1 whose image is being read. -/
def reap0 : Staged := { solo 1 .fetchImage with raw := word 256 [(0, 0, 1), (4, 0, 1), (12, 0, 64)], port := 0, toRead := [(1, 0)] }

theorem witness_reapImageReadComplete :
    imageOk (sOf (reading [.reapImage 4] { (sList list1 0).eng with staged := [reap0] })) 4 reap0 1 0 [] ∧
    (sList list1 0).eng.commons.listAt 1 0 10 = some list1 ∧ [] ≠ imageBytes list1 ∧
    imageOk (sOf (reading [.reapImage 4] { eTree with staged := [reap0] })) 4 reap0 1 0 [] ∧
    eTree.commons.listAt 1 0 10 = none := by decide +kernel

/-- The clock changed. -/
def clock (f : Clk → Clk) : State := sOf { eng0 with clk := f eng0.clk }

theorem witness_rowBoundary : rowOk (clock id) ∧ (clock id).eng.clk.started = true ∧ (clock id).eng.clk.row ≠ 15 ∧
    rowOk (clock fun c => { c with row := 15 }) ∧ (clock fun c => { c with row := 15 }).eng.clk.step = none ∧
    rowOk (clock fun c => { c with started := false }) := by decide +kernel

theorem witness_apollMissRunLog : apollOk (sOf (modPort 0 (fun t => { t with apoll := { misses := 16 } }) eng0)) 0 := by decide +kernel

theorem witness_frameRetiredAdvance : retireOk (sOf eng0) ∧ eng0.clk.frame.toNat ≤ ({ eng0.clk with nextRetire := 10 } : Clk).nextRetire.toNat := by
  decide +kernel

/-! ## Witnesses: the bus (R59 to R66, R122, R126, R143) -/

theorem witness_arbiterDecision : arbiterOk (sOf eTree) := by decide +kernel

theorem witness_grantWithdraw : ((modArb 1 (fun a => { a with grant := some (.item 7) }) { eTree with items := [item1 1 .ready] }).port 1).arb.grant
      = some (.item 7) ∧
    (modArb 1 (fun a => { a with grant := some (.item 7) }) { eTree with items := [item1 1 .ready] }).requester (.item 7) = some (some (0, false)) ∧
    (eTree.port 1).arb.grant = none := by
  refine ⟨?_, ?_, ?_⟩ <;> decide +kernel

theorem witness_latestStartPassed : lateOk (clock id |>.eng |> fun e => sOf { e with
      clk := { e.clk with rowNs := 61000 }, staged := [solo 2 .ready] }) 4 (solo 2 .ready) := by decide +kernel

/-- An outstanding transaction of endpoint 1 of device 5 on port 1, sequence 9, or a REAP of list 0 of hub 1 on port 0. -/
def tx0 (kind : TxKind) : Tx :=
  { id := 6, kind, owner := .item 7, holding := 0, dev := if kind = .reap then 1 else 5, ep := if kind = .reap then 0 else 1, seq := 9
    listId := 0, len := 64, start := 0, rowEnd := 62500, span := 2000, place := none }

/-- It is outstanding. -/
def eTx (kind : TxKind) : Engine := modArb (if kind = .reap then 0 else 1) (fun a => { a with outstanding := [tx0 kind] }) eTree

theorem witness_receiveData : packetOk (sOf (eTx .in_)) 1 0x10 (dataFrame 0x10 0 5 1 9 1 [0x55]) (.data 5 1 9 false [0x55]) ∧
    (((eTx .in_).port 1).arb.matches 5 1 9) = some (tx0 .in_) ∧ ((eTree.port 1).arb.matches 5 1 9) = none ∧
    packetOk (sOf eTree) 1 0x10 (dataFrame 0x10 0 5 1 9 1 [0x55]) (.data 5 1 9 false [0x55]) := by
  refine ⟨?_, ?_, ?_, ?_⟩ <;> decide +kernel

theorem witness_receiveHandshakes :
    packetOk (sOf (eTx .out)) 1 0x20 (handshake 0x20 1 5 1 9) (.ack 5 1 9 false true) ∧
    packetOk (sOf (eTx .out)) 1 0x21 (handshake 0x21 0 5 1 9) (.nak 5 1 9 false) ∧
    packetOk (sOf (eTx .out)) 1 0x22 (handshake 0x22 0x81 5 1 9) (.stall 5 1 9 true 1) ∧
    (((eTx .out).port 1).arb.matches 5 1 9) = some (tx0 .out) := by
  refine ⟨?_, ?_, ?_, ?_⟩ <;> decide +kernel

theorem witness_receiveSheaf : packetOk (sOf (eTx .reap)) 0 0x11 (dataFrame 0x11 0 1 0 9 0 []) (.sheaf 0 1 0 9 false []) ∧
    (((eTx .reap).port 0).arb.reapOf 1 0 0 9) = some (tx0 .reap) ∧ ((eTree.port 0).arb.reapOf 1 0 0 9) = none := by
  refine ⟨?_, ?_, ?_⟩ <;> decide +kernel

theorem witness_timeouts : outstanding (sOf (eTx .in_)) 1 6 (tx0 .in_) ∧ outstanding (sOf (eTx .reap)) 0 6 (tx0 .reap) := by
  decide +kernel

theorem witness_nakReoffer : nakOk (sItem 1 .nakWait false []) 7 (item1 1 .nakWait) ∧ (sOf eTree).eng.item? 7 = none := by decide +kernel

/-! ## Witnesses: sheaf rings and alarms (R145, R149 to R151, R158, R159, R163, R165) -/

/-- Sheaf ring 0 of holding 0. -/
def ringS (r : SheafRing) : State := sOf (with0 (fun x => { x with rings := [(0, r)] }) eng0)

/-- A ring of 64 KiB with one formed sheaf of 64 bytes of records, and its release word. -/
def ring1 (release : RingPos) : SheafRing :=
  { par := { base := 0x80000, size := 65536, release := 0x90000 }, write := { at_ := 64, phase := true }, release
    queue := [{ records := List.replicate 32 0 }] }

theorem witness_sheafWrite :
    sheafOk (ringS (ring1 { at_ := 64, phase := true })) 0 0 (ring1 { at_ := 64, phase := true }) { records := List.replicate 32 0 } ∧
    sheafTakes (ring1 { at_ := 64, phase := true }) { records := List.replicate 32 0 }
      ≤ ringFree 65536 { at_ := 64, phase := true } { at_ := 64, phase := true } ∧
    (sheafPlace (ring1 { at_ := 64, phase := true }) 64).1 = 0 ∧ eng0.held 0 = false ∧
    sheafOk (ringS (ring1 { at_ := 64, phase := false })) 0 0 (ring1 { at_ := 64, phase := false }) { records := List.replicate 32 0 } ∧
    ringFree 65536 { at_ := 64, phase := true } { at_ := 64, phase := false }
      < sheafTakes (ring1 { at_ := 64, phase := false }) { records := List.replicate 32 0 } ∧
    sheafOk (ringS { ring1 { at_ := 64, phase := false } with reread := true, fullLogged := some 10 }) 0 0
      { ring1 { at_ := 64, phase := false } with reread := true, fullLogged := some 10 } { records := List.replicate 32 0 } := by
  refine ⟨?_, ?_, ?_, ?_, ?_, ?_, ?_⟩ <;> decide +kernel

/-- The full ring of that state, its release word read again or not, the hold after PE_PERST_N on or not. -/
def sFull (reread : Option Bool) (logged : Option (BitVec 48)) (hold : Bool) : State :=
  sOf (modFn 0 (fun x => { x with perstHold := hold })
    (ringS { ring1 { at_ := 64, phase := false } with reread, fullLogged := logged }).eng)

/-- The hypotheses of the clauses about that ring. -/
abbrev fullOk (reread : Option Bool) (logged : Option (BitVec 48)) (hold : Bool) : Prop :=
  sheafOk (sFull reread logged hold) 0 0 { ring1 { at_ := 64, phase := false } with reread, fullLogged := logged }
    { records := List.replicate 32 0 } ∧ ((sFull reread logged hold).eng.fn 0).perstHold = hold

theorem witness_sheafFull : fullOk none none false ∧ fullOk (some true) (some 10) false ∧ fullOk (some true) (some 9) false ∧
    fullOk none none true ∧ eng0.clk.frame = 10 ∧ (sFull none none false).eng.asked (.release 0 (.sheaf 0)) = false ∧
    (reading [.release 0 (.sheaf 0)] (sFull none none false).eng).asked (.release 0 (.sheaf 0)) = true ∧
    sheafOk (sOf (reading [.release 0 (.sheaf 0)] (sFull none none false).eng)) 0 0 (ring1 { at_ := 64, phase := false })
      { records := List.replicate 32 0 } := by
  refine ⟨?_, ?_, ?_, ?_, ?_, ?_, ?_, ?_⟩ <;> decide +kernel

/-- A commons-control transfer to hub 1. -/
def xfer0 (purpose : Purpose) (result : Option (Byte × Byte)) : Xfer :=
  { id := 3, port := 0, dev := 1, route := 0, depth := 0, setup := 0, out := [], got := [], stage := .setup, attempts := 0
    ping := false, busy := false, nakWait := false, purpose, result }

/-- It, on the tree. -/
def eXfer (x : Xfer) : Engine := { eTree with commons := { eTree.commons with xfers := [x] } }

theorem witness_replantTransferComplete : ∀ st ∈ [0, 6],
    replantOk (sOf (eXfer (xfer0 (.replant 1 0) (some (st, 0))))) 3 (xfer0 (.replant 1 0) (some (st, 0))) 1 0 st 0 := by decide +kernel

/-- Root port 0 has sent an APOLL with a sequence. -/
def ePolled (seq : BitVec 16) : Engine := modPort 0 (fun t => { t with apoll := { sent := true, seq } }) eTree

theorem witness_receiveAlarmSheaf : alarmsOk (sOf (ePolled 9)) 0 (dataFrame 0x12 0 1 0 9 0 []) false false 1 9 [] ∧
    alarmsOk (sOf (ePolled 8)) 0 (dataFrame 0x12 0 1 0 9 0 []) false false 1 9 [] := by
  refine ⟨?_, ?_⟩ <;> decide +kernel

/-- Alarm tracking of device 5. -/
def track0 (muted : Bool) (run quiet : Nat) : Track := { dev := 5, holding := 0, run, muted, quiet, seen := false, code := 7 }

theorem witness_alarmMute :
    tracked (sOf { eTree with commons := { eTree.commons with tracks := [track0 false 4096 0] } }) 5 (track0 false 4096 0) ∧
    tracked (sOf { eTree with commons := { eTree.commons with tracks := [track0 true 4096 16] } }) 5 (track0 true 4096 16) := by
  decide +kernel

/-- Alarm ring of holding 0 of 64 entries with one formed alarm. -/
def alarm0 (release : RingPos) : AlarmRing :=
  { par := { base := 0x80000, size := 64, release := 0x90000 }, write := { at_ := 3, phase := true }, release
    queue := [{ pin := false, matched := false, outputs := 0, first := 0, muted := false, held := false, dev := 5, ep := 0
                port := 1, code := 7, frame := 10, etc := 0, last := true }] }

/-- Its state. -/
def sAlarm (r : AlarmRing) : State := sOf (with0 (fun x => { x with alarmRing := some r }) eng0)

/-- The alarm that waits. -/
def alarmOut0 : AlarmOut := (alarm0 {}).queue.headD { pin := false, matched := false, outputs := 0, first := 0, muted := false
                                                      held := false, dev := 0, ep := 0, port := 0, code := 0, frame := 0
                                                      etc := 0, last := true }

theorem witness_alarmEntryWrite :
    alarmOk (sAlarm (alarm0 { at_ := 3, phase := true })) 0 false (alarm0 { at_ := 3, phase := true }) alarmOut0 ∧
    1 ≤ ringFree 64 { at_ := 3, phase := true } { at_ := 3, phase := true } ∧
    alarmOk (sAlarm (alarm0 { at_ := 3, phase := false })) 0 false (alarm0 { at_ := 3, phase := false }) alarmOut0 ∧
    ringFree 64 { at_ := 3, phase := true } { at_ := 3, phase := false } = 0 ∧
    alarmOk (sAlarm { alarm0 { at_ := 3, phase := false } with reread := true }) 0 false
      { alarm0 { at_ := 3, phase := false } with reread := true } alarmOut0 := by
  refine ⟨?_, ?_, ?_, ?_, ?_⟩ <;> decide +kernel

theorem witness_alarmHold : alarmOk (sOf (modFn 0 (fun x => { x with perstHold := true }) (sAlarm (alarm0 { at_ := 3, phase := true })).eng)) 0 false
      (alarm0 { at_ := 3, phase := true }) alarmOut0 ∧
    ((modFn 0 (fun x => { x with perstHold := true }) (sAlarm (alarm0 { at_ := 3, phase := true })).eng).fn 0).perstHold = true ∧
    (sAlarm (alarm0 { at_ := 3, phase := true })).eng.held 0 = false := by
  refine ⟨?_, ?_, ?_⟩ <;> decide +kernel

theorem witness_almInChange : almOk (sOf eng0) 0 true ∧ eng0.pwr.chip ≠ .dormant ∧
    almOk (sOf { eng0 with pwr := { chip := .dormant } }) 7 true := by decide +kernel

/-! ## Witnesses: the tree's upkeep and the root ports (R36 to R39, R72 to R78, R82) -/

theorem witness_portChangeReadComplete : ∀ p ∈ [Purpose.portState 1 2 false, .hubStatus 1, .clearChange 1 2 1], ∀ st ∈ [0, 6],
    changeOk (sOf (eXfer (xfer0 p (some (st, 0))))) 3 (xfer0 p (some (st, 0))) st 0 := by decide +kernel

theorem witness_wholeXfer : wholeXfer (xfer0 (.hubStatus 1) (some (0, 0))) 0 ∧ ¬ wholeXfer (xfer0 (.hubStatus 1) (some (6, 0))) 6 := by
  decide +kernel

/-- An enumeration below root port 1. -/
def enum0 : Enum :=
  { id := 2, pos := .root 1, root := 1, waiting := false, step := 1, src := none, wanted := 0, number := 0, desc := [] }

theorem witness_enumerationTransferComplete :
    (sOf { eTree with commons := { eTree.commons with enums := [enum0] } }).eng.enum? 2 = some enum0 ∧ eTree.fwRuns = true := by
  decide +kernel

theorem witness_powerOnOrderRelease :
    releaseOrderOk (sOf (modPort 0 (fun t => { t with powerOrders := [(1, 2, none)] }) eTree)) 0 1 2 none [] := by decide +kernel

/-- Root port 1 in a link state. -/
def sLink (f : Link → Link) (g : Rh → Rh) : State := sOf (modPort 1 (fun t => { t with link := f t.link, rh := g t.rh }) eTree)

theorem witness_links : (∀ l ∈ [LinkState.ldown, .ltrain, .lup, .lmend, .lreset, .lquiet, .lwake],
      linkIs (sLink (fun x => { x with state := l }) id) 1 l) ∧ eTree.shared 1 = false ∧ eTree.portIdle 1 = true ∧
    measuredOk (sLink (fun x => { x with state := .ltrain, lock := true }) id) 1 := by decide +kernel

theorem witness_sidebandScan : (sOf eTree).eng.live = true ∧ (sOf eTree).eng.pwr.chip ≠ .dormant := by decide +kernel

theorem witness_holdoff : ((modLink 1 (fun l => { l with holdoff := false }) (sLink (fun x => { x with
      state := .ldown, enable := true, los := false, serdes := true, holdoff := true, txDisable := false }) id).eng).port 1).link.mayTrain = true ∧
    ((modLink 1 (fun l => { l with holdoff := false }) eTree).port 1).link.mayTrain = false := by decide +kernel

theorem witness_portTimes : debounceOk (sLink id (fun r => { r with state := .powered, debounce := true })) 1 ∧
    quarantineOk (sLink id (fun r => { r with bounces := List.replicate 8 0 })) 1 ∧
    (∀ r ∈ [PState.resetting, .resuming, .suspended], ((sLink id (fun x => { x with state := r })).eng.port 1).rh.state = r) := by
  decide +kernel

/-! ## Witnesses: faults and their recovery (R16, R18 to R20, R225, R255 to R257, R403) -/

/-- Plot n changed. -/
def sPlot (n : PlotId) (f : Plot → Plot) : State := sOf (modPlot n f eTree)

theorem witness_plotFaultDetected : faultOk (sPlot 0 id) 0 ∧ ((sPlot 0 id).eng.plot 0).allotted = true ∧
    ((sPlot 0 id).eng.plot 0).clearing = false ∧ faultOk (sPlot 271 id) 271 ∧ ((sPlot 271 id).eng.plot 271).allotted = false ∧
    ((sPlot 271 id).eng.plot 271).clearing = false ∧ faultOk (sPlot 0 fun q => { q with clearing := true }) 0 ∧
    ((sPlot 0 fun q => { q with clearing := true }).eng.plot 0).clearing = true := by decide +kernel

theorem witness_plotFaultClearing : ∀ h ∈ [none, some (2 : Fn)], faultOk (sPlot 0 fun q => { q with clearing := true, clearFor := h }) 0 ∧
    ((sPlot 0 fun q => { q with clearing := true, clearFor := h }).eng.plot 0).clearFor = h := by decide +kernel

/-- Plot 0 waits for SPARE; if `b`, there is neither a spare nor a free plot. -/
def sSpare (b : Bool) : State := sOf { eTree with
  toSpare := [0], plots := if b then Vector.replicate 272 {} else Vector.replicate 272 { spare := true } }

theorem witness_spare : spareOk (sSpare true) 0 [] ∧ (sSpare true).eng.sparePlots ++ (sSpare true).eng.freePlots = [] ∧
    spareOk (sSpare false) 0 [] ∧ (sSpare false).eng.sparePlots ++ (sSpare false).eng.freePlots ≠ [] := by
  refine ⟨?_, ?_, ?_, ?_⟩ <;> decide +kernel

theorem witness_plotClearComplete : ∀ h ∈ [none, some (2 : Fn)],
    ((sPlot 0 fun q => { q with clearing := true, clearFor := h }).eng.plot 0).clearing = true ∧
    ((sPlot 0 fun q => { q with clearing := true, clearFor := h }).eng.plot 0).clearFor = h := by decide +kernel

theorem witness_eccUncorrectable : eccOk (sOf eTree) ∧ executes eTree {} 4 = false ∧
    executes eTree (modCore 4 (fun x => { x with state := .running, regs := { x.regs with pc := 0 } }) {}) 4 = true ∧
    eTree.yoke.yoked = false ∧ eccOk (sOf eYoke) ∧ eYoke.yoke.yoked = true := by decide +kernel

theorem witness_portLaneFault : laneOk (sLink id id) 1 ∧ ((sLink id id).eng.port 1).link.laneFault = none ∧
    laneOk (sLink (fun l => { l with laneFault := some 0 }) id) 1 ∧
    (sLink (fun l => { l with laneFault := some 0 }) id).eng.now < 0 + 1000000000 := by decide +kernel

/-- Root port 1 of a controller that has run for a second, its lane having failed at the start. -/
def sOld : State := sOf { (sLink (fun l => { l with laneFault := some 0 }) id).eng with clk := { eTree.clk with etc := 2000000000 } }

theorem witness_portLaneFaultAgain : laneOk sOld 1 ∧ (sOld.eng.port 1).link.laneFault = some 0 ∧ 0 + 1000000000 ≤ sOld.eng.now ∧
    laneOk (sLink (fun l => { l with state := .lmend, scrub := true }) id) 1 ∧
    ¬ laneOk (sLink (fun l => { l with state := .lquiet }) id) 1 := by decide +kernel

theorem witness_datapathScrubComplete : ∀ b : Bool,
    ((sLink (fun l => { l with state := .lmend, scrub := true, lock := b }) id).eng.port 1).link.scrub = true ∧
    ((sLink (fun l => { l with state := .lmend, scrub := true, lock := b }) id).eng.port 1).link.lock = b ∧
    linkIs (sLink (fun l => { l with state := .lmend, scrub := true, lock := b }) id) 1 .lmend := by decide +kernel

theorem witness_firmwareWatchdogExpiry : watchdogOk (sOf eTree) 0 ∧ (recentFaults (sOf eTree)).length < 3 ∧
    watchdogOk (sOf { eTree with fw := { ready := true, faults := [0, 0, 0] } }) 3 ∧
    3 ≤ (recentFaults (sOf { eTree with fw := { ready := true, faults := [0, 0, 0] } })).length := by decide +kernel

theorem witness_plotStallEnd : ((sPlot 0 fun q => { q with stalled := true }).eng.plot 0).stalled = true ∧
    fldN ((sPlot 0 fun q => { q with stalled := true }).eng.ctl 16).p1 0 9 = 0 ∧
    fldN ((sPlot 0 id).eng.ctl 16).p1 0 9 ≠ (1 : PlotId).val := by decide +kernel

/-! ## Witnesses: reset, boot, clocks, the TAP (R272, R373, R380, R385 to R392, R405) -/

/-- The internal reset is released, the boot ROM runs. -/
def eBoot : Engine := { Engine.reset with pins := { Engine.reset.pins with inReset := false, strapBoot := 0 } }

theorem witness_boot : (sOf Engine.reset).eng.pins.inReset = true ∧ bootOk (sOf eBoot) ∧
    bootOk (sOf { eBoot with pins := { eBoot.pins with strapBoot := 3, strapTestN := false } }) ∧ eBoot.booting = true := by
  decide +kernel

theorem witness_clocks : (∀ p ∈ [Pll.hclk, .pclk, .lclk, .bclk, .cclk, .tclk], lossOk (sOf eTree) p ∧
      lossOk (sOf { eTree with pwr := { chip := .dormant } }) p) ∧ lossOk (sOf { eTree with pwr := { chip := .dormant } }) .aclk ∧
    eTree.pwr.chip ≠ .dormant ∧ eTree.pins.inReset = false ∧ eTree.fw.fenced = false := by decide +kernel

theorem witness_thermal : (if Config.extendedTemp then 120 else 110) ≤ 120 ∧ 109 < (if Config.extendedTemp then 120 else 110) := by
  cases Config.extendedTemp <;> decide

/-- The boot ROM waits under strap 0b11, the test block unlocked; a key is in it or not. -/
def eStrap (k : Option (BitVec 512)) : Engine :=
  { eBoot with pins := { eBoot.pins with strapBoot := 3, strapTestN := false }, test := { byStrap := true }, fw := { otp := k } }

theorem witness_l2Load : loadOk (sOf (eStrap none)) ∧ fldN ((2621436 : Qword)) 0 32 + 4 ≤ 2621440 ∧
    2621440 < fldN ((2621437 : Qword)) 0 32 + 4 ∧ eBoot.unlocked = false ∧ (eStrap none).unlocked = true ∧
    (eStrap none).fw.otp = none ∧ (eStrap (some 1)).fw.otp.isSome = true := by decide +kernel

/-! ## Witnesses: the yoke (R260 to R278, R331, R346) -/

/-- The yoked tree with its yoke changed. -/
def sYoke (f : Yoke → Yoke) : State := sOf (modYoke f eYoke)

/-- The same of the junior. -/
def sJunior (f : Yoke → Yoke) : State := sOf { (sYoke f).eng with pins := { (sYoke f).eng.pins with strapYoke := true } }

theorem witness_heartbeats : beatOk (sYoke id) ∧ (sYoke id).eng.pwr.chip = .active ∧ (sYoke id).eng.yoke.link = .up ∧
    beatOk (sYoke fun y => { y with link := .down }) ∧ (sYoke fun y => { y with link := .down }).eng.yoke.link ≠ .up ∧
    tallyOk (sYoke id) ∧ eYoke.pins.inReset = false ∧ eYoke.fw.fenced = false := by decide +kernel

/-- The yoked tree with reads outstanding and a takeover's progress. -/
def sTally (t : Takeover) : State := sOf (reading [.tally, .settle] (modYoke (fun y => { y with takeover := t }) eYoke))

theorem witness_tallyReadComplete : tallyReadOk (sTally (.firstTally none)) (.firstTally none) ∧
    tallyReadOk (sTally (.secondTally 5)) (.secondTally 5) ∧ (6 : Qword) ≠ 5 ∧
    (sTally (.firstTally (some 5))).eng.yoke.takeover = .firstTally (some 5) ∧
    (sTally .none).eng.reading .settle = true ∧ (landed (sTally .none) .settle).held pf = false := by decide +kernel

theorem witness_probeReadComplete : ∀ r ∈ [RingRef.cq 4097, .sheaf 256, .alarm true],
    probeOk (sOf (reading [.probe 0 r] eYoke)) 0 r := by decide +kernel

theorem witness_yokeRequestReceive : requestOk (sYoke id) 1 ∧ (sYoke id).eng.yoke.handovers = [] ∧ ((sYoke id).eng.port 1).leads = true ∧
    requestOk (sOf (modPort 1 (fun t => { t with leads := false }) eYoke)) 1 ∧
    ((modPort 1 (fun t => { t with leads := false }) eYoke).port 1).leads = false := by decide +kernel

/-- A handover of root port 1. -/
def hand (asking : Bool) (src : Option AdminSrc) : Handover := { pos := .port 1, asking, granted := false, src }

/-- Plot 0 holds a dirty context that an item of it has not settled. -/
def eUnsettled : Engine :=
  modYoke (fun y => { y with handovers := [hand false none] })
    { eYoke with items := [{ item1 2 .waitTurn with wb := .written }] }

theorem witness_handoverDrained : drainOk (sYoke fun y => { y with handovers := [hand false none] }) 1 (hand false none) ∧
    (settleDue (writeBackBelow (.port 1) (sYoke fun y => { y with handovers := [hand false none] }).eng)).settledBelow (.port 1) = true ∧
    drainOk (sOf eUnsettled) 1 (hand false none) ∧
    (settleDue (writeBackBelow (.port 1) (sOf eUnsettled).eng)).settledBelow (.port 1) = false := by
  refine ⟨?_, ?_, ?_, ?_⟩ <;> decide +kernel

theorem witness_yokeGrantReceive : askedOk (sYoke fun y => { y with handovers := [hand true none] }) (.port 1) (hand true none) ∧
    (granted (hand true none) (sYoke fun y => { y with handovers := [hand true none] }).eng).duals (.port 1) = [] ∧
    askedOk (sOf { (sYoke fun y => { y with handovers := [hand true none] }).eng with commons := { eTree.commons with
      devs := [(5, { dev5 with hub := some { tier := 1, ports := 8, dual := true, down := [], leads := true } })] } })
      (.port 1) (hand true none) ∧
    (granted (hand true none) { (sYoke fun y => { y with handovers := [hand true none] }).eng with commons := { eTree.commons with
      devs := [(5, { dev5 with hub := some { tier := 1, ports := 8, dual := true, down := [], leads := true } })] } }).duals
      (.port 1) = [5] := by
  refine ⟨?_, ?_, ?_, ?_⟩ <;> decide +kernel

theorem witness_yokeRequestTimeout : askedOk (sYoke fun y => { y with handovers := [hand true none] }) (.port 1) (hand true none) ∧
    (sYoke fun y => { y with handovers := [hand true none] }).eng.senior = true ∧
    (∀ a ∈ [none, some mb], askedOk (sJunior fun y => { y with handovers := [hand true a] }) (.port 1) (hand true a) ∧
      (sJunior fun y => { y with handovers := [hand true a] }).eng.senior = false ∧ (hand true a).src = a) := by
  decide +kernel

theorem witness_yokeRequestTimeoutUntaken : untakenOk (sOf (modPort 1 (fun t => { t with
    link := { t.link with state := .ldown }, leads := true }) eYoke)) 1 := by decide +kernel

/-- A relayed entry of holding 0. -/
def work1 : RelayedWork := .entry (item1 1 .ready).jr 0 []

/-- The same state without a plot, so without an item record. -/
def sNoPlot : State := sOf { (sYoke id).eng with plots := (sYoke id).eng.plots.map fun x => { x with allotted := false } }

theorem witness_relayedWorkReceive : (arrived (sYoke id) work1).yoke.waitingWork = [work1] ∧
    (arrived (sYoke id) work1).itemRoom (item1 1 .ready).jr.holding = true ∧
    (arrived sNoPlot work1).yoke.waitingWork = [work1] ∧
    (arrived sNoPlot work1).itemRoom (item1 1 .ready).jr.holding = false := by
  refine ⟨?_, ?_, ?_, ?_⟩ <;> decide +kernel

theorem witness_yokeRecords : (sYoke id).eng.linked = true ∧ (sYoke id).eng.live = true ∧ (sYoke id).eng.yoke.takeover = .none ∧
    linkUpOk (sYoke fun y => { y with link := .training }) := by decide +kernel

theorem witness_frameMarkReceive : juniorOk (sJunior id) ∧ 1000 < (-1001 : Int).natAbs ∧ (1000 : Int).natAbs ≤ 1000 ∧
    (sYoke id).eng.senior = true := by decide +kernel

theorem witness_yokeConfigureTimeout : (sYoke fun y => { y with configuring := some (mb, 3, 3) }).eng.yoke.configuring = some (mb, 3, 3) := rfl

/-! ## Witnesses: the power manager (R310, R318, R323 to R342) -/

/-- The controller with its power manager changed, and cores. -/
def sPwr (f : Pwr → Pwr) (k : Cores) : State := { sOf { eTree with pwr := f eTree.pwr } with cores := k }

/-- The mode of core 0 and of the others. -/
def modes (m0 m : BitVec 2) (p : Pwr) : Pwr := { p with mode := #v[m0, m, m, m, m, m] }

/-- Cores 1 to 5 wait; source 0 pends to wake core 0 if `b`. -/
def waiting (b : Bool) : Cores :=
  { ({} : Cores) with
    core := ({} : Cores).core.map (fun x => { x with wfi := true }) |>.set 0 {}
    src := ({} : Cores).src.set 0 { pending := b, masked := false, wake := true, targets := 1 } }

theorem witness_coreWfi : (∀ m ∈ [(0 : BitVec 2), 1, 2, 3], executes (sPwr (modes m 1) (waiting false)).eng (waiting false) 0 = true) ∧
    othersReady (sPwr (modes 2 1) (waiting false)).eng (waiting false) = true ∧
    othersReady (sPwr (modes 2 0) (waiting false)).eng (waiting false) = false ∧
    executes (sPwr (modes 0 0) {}).eng {} 3 = true := by decide +kernel

theorem witness_powerCommit : (∀ b : Bool, wakePends (sPwr (fun p => { p with request := some 2 }) (waiting b)) 2 = b) ∧
    (sPwr (fun p => { p with request := some 2 }) (waiting true)).eng.pwr.request = some 2 := by decide +kernel

/-- The chip in a power state with the entry sequence running and a wake pending or not. -/
def entering (c : Chip) (w : Option WakeSrc) : State := sPwr (fun p => { p with chip := c, entering := true, pendedWake := w }) {}

theorem witness_entrySequenceEnd : ∀ c ∈ [Chip.dormant, .fallow], ∀ w ∈ [none, some WakeSrc.timer],
    (entering c w).eng.pwr.entering = true ∧ (entering c w).eng.pwr.chip = c ∧ (entering c w).eng.pwr.pendedWake = w := by
  decide +kernel

theorem witness_wakeStarts : ∀ b : Bool, ∀ w ∈ [none, some WakeSrc.timer],
    let e := modPfn 0 (fun f => { f with d3 := b }) (sPwr (fun p => { p with chip := .fallow, entering := b, pendedWake := w }) {}).eng
    e.pwr.chip ≠ .active ∧ e.pwr.exiting = false ∧ e.pwr.entering = b ∧ e.pwr.pendedWake = w := by decide +kernel

/-- PM_PME is sent by a wake of FALLOW while the PF is in D3hot (R352). -/
theorem test_pme : (startWake .timer (modPfn 0 (fun f => { f with d3 := true })
    (sPwr (fun p => { p with chip := .fallow }) {}).eng)).out.host.getLast? = some .pme := by decide +kernel

/-- FALLOW with source 0 pending, the timer due and a GO latched. -/
def asleep : State := { sPwr (fun p => { p with chip := .fallow, wakeArm := true }) (waiting true) with
  eng := modMbx 0 (fun m => { m with busy := true }) (sPwr (fun p => { p with chip := .fallow, wakeArm := true }) {}).eng }

theorem witness_wakeEvent : asleep.eng.pwr.chip ≠ .active ∧ asleep.cores.wakes 0 = true ∧
    (allFin 6).any (asleep.cores.eligible (finOf 512 0)) = true ∧ asleep.eng.timerDue = true ∧
    asleep.eng.pwr.chip = .fallow ∧ asleep.eng.pfGo = true ∧ (sOf eTree).eng.timerDue = false := by decide +kernel

theorem witness_wakeExitDone : exitOk (sPwr (fun p => { p with chip := .fallow, exiting := true, leaving := .fallow }) {}) ∧
    exitOk (sPwr (fun p => { p with chip := .dormant, exiting := true, leaving := .dormant }) {}) := by decide +kernel

/-- ACTIVE: all cores sleep in mode 1, source 0 pends for core 0. -/
def allAsleep : State := sPwr (modes 1 1) { waiting true with core := ({} : Cores).core.map (fun x => { x with wfi := true }) }

theorem witness_watcherWakeRequest : (waiting true).wakes 0 = true ∧
    ((allFin 6).filter fun c => (waiting true).eligible (finOf 512 0) c) = [0] ∧ allAsleep.cores.wakes 0 = true ∧
    ((allFin 6).filter fun c => allAsleep.cores.eligible (finOf 512 0) c) = [0] ∧ allAsleep.eng.pwr.chip = .active ∧
    ([(0 : CoreId)]).any (awake allAsleep.eng allAsleep.cores ·) = false ∧ allAsleep.eng.pwr.request = none := by decide +kernel

theorem witness_governorStep : (sPwr id {}).eng.pwr.droop = false ∧ (sPwr id {}).eng.pwr.chip = .active ∧
    (sPwr (fun p => { p with droop := true }) {}).eng.pwr.droop = true := by decide +kernel

theorem witness_throttle : (sPwr id {}).eng.pins.inReset = false ∧ (sPwr id {}).eng.fw.fenced = false ∧
    (sPwr id {}).eng.pwr.throttled = false ∧ alertAt < 101 ∧ (87 : Int) ≤ alertAt - 3 ∧ alertAt - 3 < alertAt ∧
    (∀ b : Bool, (sPwr (fun p => { p with throttled := true, therm := b }) {}).eng.pwr.throttled = true ∧
      (sPwr (fun p => { p with throttled := true, therm := b }) {}).eng.pwr.therm = b) ∧
    (sPwr id {}).eng.pwr.therm = false ∧ (sPwr id {}).eng.pwr.limitLow = false := by
  refine ⟨?_, ?_, ?_, ?_, ?_, ?_, ?_, ?_, ?_⟩
  case refine_4 => unfold alertAt; cases Config.extendedTemp <;> decide
  case refine_5 => unfold alertAt; cases Config.extendedTemp <;> decide
  case refine_6 => omega
  all_goals decide +kernel

theorem witness_pwrWakeHiWrite : executes (sOf eTree).eng {} 0 = true ∧ userCore 0 = false ∧ userCore 4 = true ∧
    executes (sOf eTree).eng (modCore 4 (fun x => { x with state := .running }) {}) 4 = true := by decide +kernel

theorem witness_pmeTurnOff : (sOf { eTree with pcie := { eTree.pcie with link := .l0 } }).eng.pcie.link = .l0 ∧ eTree.pwr.chip ≠ .dormant := by
  decide +kernel

/-- A power state in preparation. -/
def prepared (drain sleep : Bool) (k : Cores) : State := sPwr (fun p => { p with prep := some (mb, 1, 0), prepDrain := drain, sleep }) k

theorem witness_preparation : drainWaits (prepared true false {}) ∧
    ((prepared true false {}).eng.items.all fun i => i.jr.status.isSome) = true ∧
    ((({ (prepared true false {}).eng with items := [item1 1 .ready] } : Engine)).items.all fun i => i.jr.status.isSome) = false ∧
    sleepWaits (prepared false true {}) ∧ usersAsleep (prepared false true {}).eng {} = true ∧
    usersAsleep (prepared false true {}).eng (modCore 4 (fun x => { x with state := .running }) {}) = false := by decide +kernel

/-! ## Witnesses: the interrupt controller (R303 to R321) -/

/-- A state of the tree and cores. -/
def sK (k : Cores) : State := { sOf eTree with cores := k }

/-- One source changed. -/
def sSrc (n : SrcId) (f : CicSrc → CicSrc) : State := sK (modSrc n f {})

theorem witness_cicEvents :
    (sOf { eTree with pulses := [100] }).eng.pulses.contains 100 = true ∧ isReserved 100 = false ∧
    ¬ held (sOf { eTree with pulses := [100] }) 100 ∧
    held (sOf { eTree with pwr := { chip := .fallow }, pulses := [7] }) 7 ∧ isReserved 7 = false ∧
    riseOk (sOf { eTree with pwr := { eTree.pwr with therm := true } }) 10 ∧ ¬ held (sOf eTree) 10 ∧
    ((sSrc 10 fun x => { x with pending := true }).cores.s 10).pending = true ∧
    fallOk (sSrc 10 fun x => { x with level := true }) 10 ∧ ¬ held (sSrc 10 fun x => { x with level := true }) 10 ∧
    held { sSrc 10 (fun x => { x with level := true }) with eng := { eTree with pwr := { chip := .fallow } } } 10 := by
  decide +kernel

/-- Core 0 has claimed source 5, and source 100 can be delivered to it. -/
def claiming : State :=
  sK (modCore 0 (fun x => { x with stack := [] }) (modSrc 100 (fun x => { x with pending := true, masked := false, targets := 1 }) {}))

theorem witness_cicLevels : riseOk { sOf { eTree with pwr := { eTree.pwr with therm := true, chip := .fallow } } with cores := {} } 10 ∧
    held { sOf { eTree with pwr := { eTree.pwr with therm := true, chip := .fallow } } with cores := {} } 10 ∧
    isLevel 100 = false ∧ isLevel 7 = false ∧
    fallOk { sSrc 10 (fun x => { x with level := true }) with eng := { eTree with pwr := { chip := .fallow } } } 10 := by
  refine ⟨?_, ?_, ?_, ?_, ?_⟩ <;> decide +kernel

theorem witness_cicClaim : runs claiming 0 ∧ bestSource claiming.eng claiming.cores 0 = some 100 ∧
    bestSource (sK {}).eng (sK {}).cores 0 = none ∧ runs (sK {}) 0 ∧ (1 : CoreId) ≠ 0 := by
  refine ⟨?_, ?_, ?_, ?_, ?_⟩ <;> decide +kernel

theorem witness_cicEoi : ((sK (modCore 0 (fun x => { x with stack := [(16, 100)] }) {})).cores.at 0).stack = [(16, 100)] ∧
    fldN (100 : Dword) 0 10 = 100 ∧ fldN (101 : Dword) 0 10 ≠ 100 ∧ fldN (101 : Dword) 0 10 ≠ 1023 ∧ fldN (1023 : Dword) 0 10 = 1023 ∧
    runs (sK (modCore 0 (fun x => { x with stack := [(16, 100)] }) {})) 0 := by decide +kernel

theorem witness_cicRegisters : ((sSrc 5 fun x => { x with quar := true }).cores.s 5).quar = true ∧ seesSrc 0 384 = true ∧
    seesSrc 4 384 = false ∧ 384 ≤ (384 : SrcId).val ∧ (383 : SrcId).val < 384 ∧
    ((sSrc 5 fun x => { x with hot := true, masked := false }).cores.s 5).hot = true ∧
    ((sSrc 5 fun x => { x with hot := true, masked := false }).cores.s 5).masked = false := by decide +kernel

/-! ## Witnesses: the dispatcher (R296 to R302) -/

/-- User core 4 runs thread 192 of an image with a host window and ring 0 in slot 0, in user mode. -/
def userK : Cores :=
  modThread 192 (fun x => { x with state := .running, core := 4, affinity := 0x10 })
    (modCore 4 (fun x => { x with
      state := .running, run := some 192, regs := { lockPmp 4 x.regs with machine := false }, enable := true
      image := some { entry := 0, tripGrant := 1, tcmLen := 0, l2Off := 0, l2Len := 0, winBase := 0x100000, winSize := 4096
                      slots := [0], alarmSlot := false } }) {})

theorem witness_threads : mayWrite (sK {}) 0 0 ∧ mayWrite (sK userK) 4 192 ∧ runs (sK userK) 4 ∧
    (userCore 4 && decide ((191 : ThreadId).val < 192)) = true ∧ (({} : Cores).at 0).run ≠ some 0 ∧
    (({} : Cores).th 0).state = .dormant ∧ (userK.th 192).state ≠ .dormant := by decide +kernel

/-- Core 0 in INTERRUPT mode that dispatches; thread 1 is READY for it. -/
def dispatchK (f : Core → Core) : Cores :=
  modThread 1 (fun x => { x with state := .ready, affinity := 1 }) (modCore 0 (fun x => f { x with enable := true }) {})

theorem witness_dspRun : dispatches (sK (dispatchK id)) 0 ∧ fldN (1 : Dword) 0 9 = (1 : ThreadId).val ∧
    ((dispatchK id).th 1).state = .ready ∧ bitOf ((dispatchK id).th 1).affinity 0 = true ∧ ((dispatchK id).at 0).enable = true ∧
    fldN (2 : Dword) 0 9 = (2 : ThreadId).val ∧ ((dispatchK id).th 2).state ≠ .ready ∧
    runs (sK (dispatchK fun x => { x with run := some 1 })) 0 ∧ ((dispatchK fun x => { x with run := some 1 }).at 0).run = some 1 ∧
    ((dispatchK fun x => { x with run := some 1 }).at 0).preempt = false ∧ fldN (0x1FF : Dword) 0 9 = 0x1FF ∧
    runs (sK (dispatchK fun x => { x with preempt := true })) 0 ∧ ((dispatchK fun x => { x with preempt := true }).at 0).preempt = true := by
  decide +kernel

theorem witness_dspMode : (userCore 0 && !userCore 4) = false ∧ (userCore 4 && !userCore 3) = true ∧ runs (sK {}) 0 ∧
    runs (sK userK) 4 := by decide +kernel

theorem witness_dispatchSwitch : maySwitch eTree (dispatchK fun x => { x with preempt := true, regs := { x.regs with machine := false } }) 0 = true ∧
    maySwitch eTree (dispatchK id) 0 = false := by decide +kernel

theorem witness_dspTimerFire : timerOk (sK (modCore 0 (fun x => { x with tmrArm := true }) {})) 0 ∧
    (sPwr (fun p => { p with chip := .dormant }) {}).eng.pwr.chip = .dormant := by decide +kernel

/-! ## Witnesses: Skelku (R289, R293, R294) -/

theorem witness_skelku : calls (sK userK) 4 192 ∧ userThread 192 = some 192 ∧ userThread 255 = some 255 ∧ userThread 191 = none ∧
    userThread 256 = none ∧ (31 : Dword).toNat < 32 ∧ 32 ≤ (32 : Dword).toNat ∧ startsOk (sK userK) 4 193 0x1000 193 ∧
    isUser 0 = true ∧ isUser 8 = false := by decide +kernel

/-- What the wait of thread 192 leaves. -/
def waitK (flags : Dword) : Cores :=
  waitThread 4 192 1 (modThread 192 (fun x => { x with all := (0 : Dword) == 1, call := .wait })
    (back 4 0 (past (sK (modThread 192 (fun x => { x with flags }) userK)) 4)))

theorem witness_skelkuWait : calls (sK (modThread 192 (fun x => { x with flags := 1 }) userK)) 4 192 ∧
    ((waitK 1).th 192).state ≠ .waiting ∧ ((waitK 0).th 192).state = .waiting := by decide +kernel

theorem witness_skelkuHostCopy : ∃ i, copyOk (sK userK) 4 i .load 4092 (BitVec.ofNat 32 (tcmBase 4)) 4 ∧
    copyOk (sK userK) 4 i .store 4092 (BitVec.ofNat 32 (tcmBase 4)) 4 ∧
    (userK.at 4).image = some i ∧ i.winSize < (4093 : Dword).toNat + (4 : Dword).toNat :=
  ⟨(userK.at 4).image.getD { entry := 0, tripGrant := 0, tcmLen := 0, l2Off := 0, l2Len := 0, winBase := 0, winSize := 0
                             slots := [], alarmSlot := false }, by decide +kernel⟩

/-- Thread 192 waits for a copy. -/
def sCopy (toHost : Bool) : State :=
  { sOf (reading [.hostCopy 192] eTree) with
    cores := modThread 192 (fun x => { x with state := .waiting, copy := some { toHost, addr := 0x10100000, len := 4 } }) userK }

theorem witness_hostCopyComplete : (∀ b : Bool, copying (sCopy b) 192 { toHost := b, addr := 0x10100000, len := 4 }) ∧
    (sCopy false).eng.reading (.hostCopy 192) = true ∧ (landed (sCopy false) (.hostCopy 192)).held pf = false := by decide +kernel

theorem witness_windowLoad : ∃ i, windowOk { ringS (ring1 {}) with cores := userK } 4 0x5000FFFC i 0 (ring1 {}) ∧
    fldN (0x5000FFFC : Dword) 0 25 + 4 ≤ (ring1 {}).par.size ∧
    windowOk { ringS (ring1 {}) with cores := userK } 4 0x5000FFFD i 0 (ring1 {}) ∧
    (ring1 {}).par.size < fldN (0x5000FFFD : Dword) 0 25 + 4 :=
  ⟨(userK.at 4).image.getD { entry := 0, tripGrant := 0, tcmLen := 0, l2Off := 0, l2Len := 0, winBase := 0, winSize := 0
                             slots := [], alarmSlot := false }, by decide +kernel⟩

/-! ## Witnesses: registers and PCIe (R234, R246, R286, R290, R339, R351 to R358, R396, R402) -/

/-- The tree with functions that can be reached, the test block unlocked or not, and the power manager changed. -/
def eHost (unlocked : Bool) : Engine := { eTree with test := { byKey := unlocked, keyHalf := unlocked } }

theorem witness_hosts : (∀ off ∈ [0x104, 0x110, 0x1080, 0x2000, 0x30000, 0x30100, 0x30220, 0x70000], hostOk (sOf (eHost false)) pf off ∧
      hostOk (sOf (eHost true)) pf off) ∧ hostOk (sOf (eHost false)) 63 0x104 ∧ (sOf Engine.reset).eng.reachable pf = false := by
  decide +kernel

/-- FALLOW: the cluster's registers have no power. -/
def eFallow : Engine := { eTree with pwr := { chip := .fallow } }

theorem witness_offBlocks : eFallow.reachable pf = true ∧ (offId eFallow {} (bar0Block 0x40000)).isSome = true ∧
    (offId { eTree with pwr := { chip := .dormant } } {} (bar0Block 0x104)).isSome = true ∧
    ({ eTree with pwr := { chip := .dormant } } : Engine).reachable pf = true := by decide +kernel

theorem witness_arbiterSetDword0Read : ∃ n, hostOk (sOf (eHost false)) 0 0x2100 ∧
    setAt 0 (finOf 64 (eHost false).test.cntSel.toNat) 0x2100 = some (n, 0) :=
  ⟨((setAt 0 (finOf 64 (eHost false).test.cntSel.toNat) 0x2100).map (·.1)).getD 0, by decide +kernel⟩

theorem witness_testBlock : (eHost true).test.keyHalf = true ∧ (eHost false).test.keyHalf = false ∧ (eHost true).test.byStrap = false ∧
    (eHost true).unlocked = true ∧ (eHost false).unlocked = false ∧ bitOf (1 : BitVec 4) 0 = true ∧ bitOf (14 : BitVec 4) 0 = false := by
  decide +kernel

theorem witness_tripSoft : ∃ i, (userK.at 4).image = some i ∧ i.tripGrant = 1 ∧ runs (sK userK) 4 ∧
    userCore 4 = true ∧ runs (sK {}) 3 ∧ userCore 3 = false ∧
    runs (sK (modCore 4 (fun x => { x with state := .running }) {})) 4 ∧
    ((modCore 4 (fun x => { x with state := .running }) {}).at 4).image = none :=
  ⟨(userK.at 4).image.getD { entry := 0, tripGrant := 0, tcmLen := 0, l2Off := 0, l2Len := 0, winBase := 0, winSize := 0
                             slots := [], alarmSlot := false }, by decide +kernel⟩

theorem witness_registerWrite : hostOk (sOf (eHost false)) 63 0x100 ∧ storeOk (sK {}) 0 0x20000000 ∧ isMemory 0x20000000 4 = true ∧
    storeOk (sK {}) 0 0x40020000 ∧ runs (sK userK) 4 ∧ (userK.at 4).may 4 .store 0x20000000 4 = false ∧
    runs { sK {} with eng := { eTree with clk := { eTree.clk with bclk := false } } } 0 ∧
    (({} : Cores).at 0).may 0 .store 0x40020000 4 = true := by
  refine ⟨?_, ?_, ?_, ?_, ?_, ?_, ?_, ?_⟩ <;> decide +kernel

theorem witness_pcie : (sOf { eTree with pcie := { eTree.pcie with link := .down, perst := true } }).eng.pcie.perst = true ∧
    eTree.jtag.holds = false ∧ eTree.pins.inReset = false ∧ eTree.fw.fenced = false ∧
    ({ eTree with pins := { eTree.pins with inReset := true } } : Engine).pins.inReset = true ∧ eTree.pcie.perst = false ∧ (∀ f ∈ [(0 : Fn), 1, 63], fnOk (sOf eTree) f) ∧ ((sOf eTree).eng.pfn pf).crs = false ∧
    eTree.pcie.vfEnable = true ∧ ({ eTree with pcie := { eTree.pcie with vfEnable := false } } : Engine).pcie.vfEnable = false := by
  decide +kernel

theorem witness_holdingResetAbandon : ((modFn 2 (fun x => { x with reset := some { kind := .flr, src := none, destroy := false } }) eTree).fn 2).reset =
    some { kind := .flr, src := none, destroy := false } := by decide +kernel

theorem witness_readCompletionTimeout : ∀ t ∈ [ReadTag.poll 0 1, .fetch 0 1, .context 7, .slot 0 false],
    ((sOf (reading [t] eTree)).eng.read? t).isSome = true ∧ (sOf eTree).eng.read? t = none := by decide +kernel

/-! ## Witnesses: the general statements -/

theorem witness_queueFront : ({ State.reset with pending := [.idcode, .bypass 5] } : State).pending = [.idcode, .bypass 5] ∧
    State.reset.pending = [] := by decide +kernel

theorem witness_inv : Inv (sK userK) := by
  constructor
  · decide +kernel
  · decide +kernel
  · intro n; simp [sK, userK, modThread, modCore, Cores.s]
  · decide +kernel

theorem witness_stepFromReset : step { State.reset with pending := [.idcode] } = exec .idcode State.reset := rfl

theorem witness_loadStoresFour : Memory.wf (sOf (eStrap none)).cores.mem = true ∧ (eStrap none).pins.strapBoot = 3 ∧
    ({ eStrap none with jtag := { (eStrap none).jtag with holds := false } } : Engine).booting = true := by decide +kernel

theorem witness_commandsKeepTheRest : actsOnCores (.aliveToggle) = false ∧ actsOnCoresOnly (.cicQuar 0 0 1) = true ∧
    (∃ t, exec (.cicQuar 0 0 1) State.reset = .next t) := ⟨by decide, by decide, _, rfl⟩

theorem witness_packets : (255 : Nat) < 256 ∧ ([0x55] : List Byte).length < 1024 ∧
    leAt 0 1 ([0x01, 0, 0, 0, 0, 0, 0, 0] : List Byte) ∉ [0x10, 0x11, 0x12, 0x20, 0x21, 0x22] ∧
    ((handshake 0x20 0 5 1 9).take 7 ++ [0xAA]).drop 6 ≠ wordBytes (crc16 (((handshake 0x20 0 5 1 9).take 7 ++ [0xAA]).take 6)) := by
  decide +kernel

theorem witness_image : list1.listId < 256 ∧ list1.entries.length < 65536 ∧ list1.deadline < 65536 := by decide +kernel

theorem witness_apoll : apollSum 0 2 230 1 ≤ 2000 ∧ apollSum 44 2 230 63 ≤ 2000 ∧ ¬ apollSum 44 2 230 64 ≤ 2000 := by decide

theorem witness_onceTag : OnceTag (once 0x1B [(4, 0, 0x201)]) 0x201 ∧ (eng0.fn 0).once (once 0x1B [(4, 0, 0x201)]) = none ∧
    OnceTag (once 0x1B [(4, 0, 0x202)]) 0x202 := by
  refine ⟨⟨?_, ?_, ?_⟩, ?_, ⟨?_, ?_, ?_⟩⟩ <;> decide +kernel

theorem witness_small : ((Engine.reset.fn 0).log.length ≤ attnCapacity 0) ∧ (({} : Account).kept.length ≤ 65536) ∧
    (1 : Fn) ≠ (AdminSrc.mailbox 0).fn ∧ (0 : Nat) < 160 ∧ ({ at_ := 63, phase := true } : RingPos).at_ < 64 := by decide +kernel

/-! ## WellFormed: for each check a term that it refuses -/

theorem test_queueNumberRefused : WellFormed.wf (.pollDue 0 8192) = false ∧ WellFormed.wf (.pollDue 0 8191) = true := by decide

theorem test_unitRefused : WellFormed.wf (.identify (.queue 0 1048576)) = false ∧ WellFormed.wf (.identify (.queue 0 1048575)) = true := by
  decide

theorem test_ringRefused : WellFormed.wf (.sheafWrite 0 512) = false ∧ WellFormed.wf (.probeReadComplete 0 (.cq 8192) none) = false ∧
    WellFormed.wf (.sheafWrite 0 511) = true := by decide

theorem test_fetchRefused : WellFormed.wf (.fetchReadComplete 0 1 (some (List.replicate 17 0))) = false ∧
    WellFormed.wf (.fetchReadComplete 0 1 (some (List.replicate 16 0))) = true := by decide

theorem test_packetRefused : WellFormed.wf (.receiveData 0 true (List.replicate 16397 0)) = false ∧
    WellFormed.wf (.receiveData 0 true (List.replicate 16396 0)) = true := by decide +kernel

theorem test_offsetRefused : WellFormed.wf (.registerWrite (.bar0 0) 1048576 0 15) = false ∧
    WellFormed.wf (.registerWrite (.core 0) 0x40000002 0 15) = false ∧ WellFormed.wf (.registerWrite (.bar0 0) 0x104 0 15) = true := by
  decide

theorem test_rowListRefused : WellFormed.wf (.rowListReadComplete 0 false none (some (List.replicate 4097 0))) = false ∧
    WellFormed.wf (.rowListReadComplete 0 false none (some (List.replicate 4096 0))) = true := by decide +kernel

/-! ## Values that the spec prints -/

/-- The token of the example of R54 and its route string. -/
theorem test_tokenOfR54 : routeBelow (routeBelow (routeBelow 0 0 17) 1 5) 2 22 = 0x060058B1#32 ∧
    (({ type := 3, route := 0x060058B1#32, dev := 0x12345, ep := 3, tag := 2, seq := 0x41, len := 256 } : Token).bytes.take 14) =
      [0x03, 0x00, 0xB1, 0x58, 0x00, 0x06, 0x45, 0x23, 0x31, 0x02, 0x41, 0x00, 0x00, 0x01] := by decide +kernel

/-- Its span (R58), charge (the row example of R127's chapter) and response timeout (R65). -/
theorem test_spanOfR58 : spanOf [(2, 230), (2, 150), (8, 120), (40, 60)] 18 270 1000 = 19536 ∧ chargeOf 2 18 270 = 61 ∧
    timeoutOf [(2, 230), (2, 150), (8, 120), (40, 60)] 8 2 18 270 = 28400 := by decide

/-- The completions of R10's and R227's examples. -/
theorem test_completionDword0 :
    ({ status := 0x21, sq := 3, index := 0, count := 1, dword2 := 0, tag := 0 } : Completion).dword0 true 0 false = 0x00032101 ∧
    ({ status := 0x80, sq := 0, index := 34, count := 1, dword2 := 0, tag := 0x201 } : Completion).dword0 true 0 false = 0x00008001 := by
  decide

/-- The slices of R233's example: 155 plots take two blocks, 5 take one. -/
theorem test_slicesOfR233 : (((List.range 160).filter fun k => (sliceOf k 160 1290240).2 == 8192).length) = 155 ∧
    (((List.range 160).filter fun k => (sliceOf k 160 1290240).2 == 4096).length) = 5 := by decide +kernel

/-- The arbiter set of R396's example, and its offset in the window of function 2. -/
theorem test_arbiterSetOfR396 : ({ grants := 3200000, wait := 1600000000, longest := 30000 } : ArbSet).bits =
      0x7530#32 ++ 0x00005F5E#32 ++ 0x10000000#32 ++ 0x0030D400#32 ∧
    setAt 2 0 0x2170 = some (setKey 2 3 1, 0) := by decide +kernel

/-- The trip rule of R161's example matches the alarm of its cell. -/
theorem test_tripRuleOfR161 : ruleHits (0x00000001#32 ++ 0x01FF0100#32 ++ 0#32 ++ 0xA0000000#32)
      { pin := false, port := 9, dev := 0x12345, ep := 0, code := 0x0142 } = true ∧
    ruleHits (0x00000001#32 ++ 0x01FF0100#32 ++ 0#32 ++ 0xA0000000#32)
      { pin := false, port := 9, dev := 0x12345, ep := 0, code := 0x0200 } = false := by decide +kernel

/-- No row of the opcode table gives bits. -/
theorem test_noTableWord : decodeTableWord 512 1 = none ∧ State.reset.withFetchWord 512 1 = State.reset := ⟨rfl, rfl⟩

/-! ## Witnesses: journal records, read tags, configuration headers (R25, R261, R349, R353) -/

/-- A decided item record at the ends of its fields' ranges. -/
def record1 : ItemRec :=
  { (item1 1 .ready).jr with
    sq := 4095, unit := 2 ^ 20 - 1, units := 16, opcode := 255, bytes := 2 ^ 32 - 1, length := 2 ^ 32 - 1, cq := 4095
    status := some 0x23, outstanding := false }

theorem witness_journalsReadBack :
    posOk { kind := .sheafRing, holding := 63, num := 4095, issued := { at_ := 2 ^ 31 - 1, phase := true }, settled := { at_ := 0 }
            sequence := 0xFFFFFFFF } ∧
    periodicOk { holding := 63, ring := 255, listId := 255, dev := 0xFFFFF, ep := 15, row := 15, kind := 3, frame := 0xFFFFFFFF
                 serial := 0xFFFF, replied := true } ∧
    itemOk record1 ∧ itemOk { record1 with status := none, outstanding := true } := by decide +kernel

/-- The bytes of an item record that R261's table gives: kind 5 in state 3, holding 0, the SQ, the unit in dword 1. -/
theorem test_itemBytes : (itemBytes { record1 with unit := 2, units := 3 }).take 8 = [0x35, 0, 0xFF, 0x0F, 2, 0, 0x20, 0] := by
  decide +kernel

theorem witness_tagsWithinPool : TagsInPool eng0 ∧
    eng0.tagsHeld .queues ≠ eng0.pcie.pool.tags .queues ∧
    ({ (reading [.poll 0 1, .fetch 0 1] eng0) with
        reads := [{ tag := .fetch 0 1, who := .queues, tags := 8 }, { tag := .poll 0 1, who := .queues, sent := false }] } : Engine).tagsHeld
      .queues = eng0.pcie.pool.tags .queues := by
  refine ⟨⟨fun w => ?_, nofun⟩, ?_, ?_⟩
  · cases w <;> decide +kernel
  all_goals decide +kernel

theorem witness_headersIdentify : eng0.fnEnabled 0 = true ∧ eng0.fnEnabled 63 = true ∧ eng0.pcie.perst = false ∧
    (eng0.pfn 63).crs = false ∧ ((modPfn 63 (fun x => { x with crs := true }) eng0).pfn 63).crs = true := by decide +kernel

end Sys2Proof.Tests
end

section
/-! The state after POR_N: what each table of the engine and of the core cluster holds (R13, R115, R162, R229, R308, R366),
and the invariant of the core cluster there. -/

namespace Sys2Proof.Machine

open Sys2Proof.Safety

/-- R13: plots 0 to 255 are in service, 256 to 271 are the spare pool. -/
theorem Plot.sea_at (p : PlotId) : Plot.sea[p.val] = if p.val < 256 then {} else Plot.fresh := by
  have split : Plot.sea[p.val] =
      (Vector.replicate 256 ({} : Plot) ++ Vector.replicate 16 Plot.fresh)[p.val]'p.isLt := rfl
  rw [split, Vector.getElem_append]
  simp only [Vector.getElem_replicate, dite_eq_ite]

/-- R366: holding 0 alone exists. -/
theorem Holding.table_at (h : Fn) : Holding.table[h.val] = if h = 0 then Holding.zero else {} := by
  rw [Holding.table, Vector.getElem_set]
  simp only [Vector.getElem_replicate, Fin.ext_iff, Fin.val_zero, eq_comm]

@[simp] theorem reset_plot (p : PlotId) : State.reset.eng.plot p = if p.val < 256 then {} else Plot.fresh :=
  Plot.sea_at p

@[simp] theorem reset_hold (h : Fn) : State.reset.eng.hold h = if h = 0 then Holding.zero else {} :=
  Holding.table_at h

@[simp] theorem reset_fn (h : Fn) : State.reset.eng.fn h = {} := Vector.getElem_replicate _

@[simp] theorem reset_port (p : PortId) : State.reset.eng.port p = {} := Vector.getElem_replicate _

/-- R308: every interrupt source is masked and not pending. -/
@[simp] theorem reset_src (n : SrcId) : State.reset.cores.s n = {} := Vector.getElem_replicate _

@[simp] theorem reset_core (c : CoreId) : State.reset.cores.at c = {} := Vector.getElem_replicate _

@[simp] theorem reset_thread (t : ThreadId) : State.reset.cores.th t = {} := Vector.getElem_replicate _

/-- No source has a route and no thread an affinity at reset, so none leads to a core of the other kind. -/
theorem reset_coresOk : CoresOk State.reset.cores where
  mem := rfl
  zero c := by rw [reset_core]; exact Vector.getElem_replicate _
  routes n := by rw [reset_src]; exact BitVec.zero_and
  threads t := by rw [reset_thread]; exact BitVec.zero_and

/-- R13, R229: of the spare pool and of holding 0's plots. -/
theorem reset_plot_owner (p : PlotId) : (State.reset.eng.plot p).spare = decide (256 ≤ p.val)
    ∧ (State.reset.eng.plot p).allotted = decide (p.val < 256) := by
  rw [reset_plot]
  by_cases inService : p.val < 256
  · exact ⟨by simp [inService], by simp [inService]⟩
  · exact ⟨by simp [inService, Plot.fresh]; omega, by simp [inService, Plot.fresh]⟩

/-- R366: no holding has a queue or a ring, and no function a log entry or an apply-once record. -/
theorem reset_hold_empty (h : Fn) : (State.reset.eng.hold h).sqs = [] ∧ (State.reset.eng.hold h).cqs = []
    ∧ (State.reset.eng.hold h).rings = [] ∧ (State.reset.eng.fn h).log = [] ∧ (State.reset.eng.fn h).applied = [] := by
  rw [reset_hold, reset_fn]
  by_cases zero : h = 0 <;> simp [zero, Holding.zero]

end Sys2Proof.Machine

namespace Sys2Proof

open Sys2Proof.Machine

/-- Settles O3: each table of the reset state is uniform but for holding 0 and the spare strip. -/
theorem resetStateIsAsGiven : Obligations.ResetStateIsAsGiven := by
  refine ⟨reset_coresOk, reset_plot_owner, ?exists0, ?others, ?region, ?ports, reset_hold_empty, ?links, rfl, rfl, rfl,
    ?sources, rfl⟩
  case exists0 => simp [Holding.zero]
  case others => intro h other; simp [other]
  case region => intro p; simp [Holding.zero]
  case ports => simp [Holding.zero]
  case links => intro p; simp
  case sources => intro n; simp

end Sys2Proof
end

section
/-! Plot faults, SPARE, clears and stalls (R16 to R20, R258, R403): what each shared operation does in each of its cases, and
the commands in these terms. -/

namespace Sys2Proof.Machine

/-! ## A plot fault by what the plot was doing (R16, R19) -/

/-- R19: a plot that serves a holding is isolated. -/
theorem plotFault_of_serving {p : PlotId} {e : Engine} (clear : (e.plot p).clearing = false)
    (serves : (e.plot p).allotted = true) : plotFault p e = isolatePlot p (pulse (64 + p.val / 16) e) := by
  simp [plotFault, clear, serves]

/-- A spare or free plot is retired at once, with kind 0x0031 to the PF (log entry 18). -/
theorem plotFault_of_unallotted {p : PlotId} {e : Engine} (clear : (e.plot p).clearing = false)
    (idle : (e.plot p).allotted = false) : plotFault p e =
      attn pf 0x31 0 0 (BitVec.ofNat 32 p.val) 0 false (retirePlot p (pulse (64 + p.val / 16) e)) := by
  simp [plotFault, clear, idle]

/-- R16: the fault ends a clear that makes the plot free. -/
theorem plotFault_of_clearing_none {p : PlotId} {e : Engine} (clear : (e.plot p).clearing = true)
    (taker : (e.plot p).clearFor = none) : plotFault p e =
      sweepPlots (e.plot p).holding (attn pf 0x31 0 0 (BitVec.ofNat 32 p.val) (BitVec.ofNat 32 (e.plot p).holding.val) false
        (retirePlot p (pulse (64 + p.val / 16) e))) := by
  simp [plotFault, clear, taker]

/-- R16: the fault ends a clear for a holding, and the next free plot is taken in its place. -/
theorem plotFault_of_clearing_some {p : PlotId} {e : Engine} {g : Fn} (clear : (e.plot p).clearing = true)
    (taker : (e.plot p).clearFor = some g) : plotFault p e =
      sweepPlots (e.plot p).holding (replaceClearing g (attn pf 0x31 0 0 (BitVec.ofNat 32 p.val)
        (BitVec.ofNat 32 (e.plot p).holding.val) false (retirePlot p (pulse (64 + p.val / 16) e)))) := by
  simp [plotFault, clear, taker]

/-! ## SPARE by what is left to take (R20) -/

theorem sparePlot_of_some {p n : PlotId} {more : List PlotId} {e : Engine} (owned : (e.plot p).allotted = true)
    (pool : e.sparePlots ++ e.freePlots = n :: more) : sparePlot p e = spareTo p n e := by
  simp [sparePlot, owned, pool]

theorem sparePlot_of_none {p : PlotId} {e : Engine} (owned : (e.plot p).allotted = true)
    (pool : e.sparePlots ++ e.freePlots = []) : sparePlot p e = spareNone p e := by
  simp [sparePlot, owned, pool]

/-! ## The commands -/

open Sys2Proof.Claim (faultOk)

/-- The fault of a plot in service that no test control forced (R18, R403) is `plotFault` alone. -/
theorem exec_plotFaultDetected {s : State} {p : PlotId} (fault : PlotFault) (ok : faultOk s p) :
    exec (.plotFaultDetected p fault) s = .next { s with eng := noted s.eng (plotFault p s.eng) } := by
  obtain ⟨live, powered, inService, notIsolated, unforced⟩ := ok
  show execPlotFaultDetected p fault s = _
  simp only [execPlotFaultDetected, onEng_eq, unforced, whenE_false]
  simp [live, powered, inService, notIsolated]

/-- R20: SPARE takes the plot that was found first. -/
theorem exec_spare {s : State} {p : PlotId} {rest : List PlotId} (first : s.eng.toSpare = p :: rest)
    (live : s.eng.live = true) :
    exec .spare s = .next { s with eng := noted s.eng (sparePlot p { s.eng with toSpare := rest }) } := by
  show execSpare s = _
  simp [execSpare, first, live]

/-- R403: the plot goes on, and control 16 clears when it names the plot. -/
theorem exec_plotStallEnd (s : State) (p : PlotId) : exec (.plotStallEnd p) s =
    .next { s with eng := noted s.eng (whenE (fldN (s.eng.ctl 16).p1 0 9 == p.val) (ctlOff 16)
      (modPlot p (fun q => { q with stalled := false }) s.eng)) } := rfl

/-! ## The claims -/

theorem plotFaultDetected_holds : Claim.plotFaultDetected := by
  intro s p fault ok
  rw [exec_plotFaultDetected fault ok]
  refine ⟨fun clear serves => ?_, fun clear idle => ?_, fun clear taker => ?_, fun g clear taker => ?_⟩
  · rw [plotFault_of_serving clear serves]
  · rw [plotFault_of_unallotted clear idle]
  · rw [plotFault_of_clearing_none clear taker]
  · rw [plotFault_of_clearing_some clear taker]

theorem spare_holds : Claim.spare := by
  rintro s p rest ⟨first, live, owned⟩
  rw [exec_spare first live]
  refine ⟨fun n more pool => ?_, fun pool => ?_⟩
  · rw [sparePlot_of_some (e := { s.eng with toSpare := rest }) owned pool]
  · rw [sparePlot_of_none (e := { s.eng with toSpare := rest }) owned pool]

theorem plotClearComplete_holds : Claim.plotClearComplete := by
  intro s p clear
  refine ⟨fun h taker => ?_, fun taker => ?_⟩
  · show execPlotClearComplete p s = _
    simp [execPlotClearComplete, clear, taker]
  · show execPlotClearComplete p s = _
    simp [execPlotClearComplete, clear, taker]

theorem plotStallEnd_holds : Claim.plotStallEnd := by
  intro s p
  rw [exec_plotStallEnd]
  refine ⟨fun own => ?_, fun other => ?_⟩
  · rw [beq_iff_eq.mpr own, whenE_true]
  · rw [beq_eq_false_iff_ne.mpr other, whenE_false]

end Sys2Proof.Machine

namespace Sys2Proof

open Sys2Proof.Machine

/-- Settles O44: each command is its operation, and the operation is split by what its plot was doing. -/
theorem plotEventsComplete : Obligations.PlotEventsComplete :=
  ⟨plotFaultDetected_holds, spare_holds, plotClearComplete_holds, plotStallEnd_holds⟩

end Sys2Proof
end


section
/-! Packets as bytes (R7, R41, R44, R50 to R53): what little-endian fields read as, which bytes `parsePacket` takes for
each type, and where the fields of packets and tokens stand. -/

namespace Sys2Proof

/-! ## Little-endian fields (R7) -/

@[simp] theorem length_leBytes (n x : Nat) : (leBytes n x).length = n := by
  induction n generalizing x with
  | zero => rfl
  | succ n ih => simp [leBytes, ih]

@[simp] theorem length_wordBytes {w : Nat} (x : BitVec w) : (wordBytes x).length = w / 8 := length_leBytes ..

/-- The low `n` bytes of a number spell it modulo 256^n. -/
theorem leNat_leBytes (n x : Nat) : leNat (leBytes n x) = x % 256 ^ n := by
  induction n generalizing x with
  | zero => simp [leBytes, leNat, Nat.mod_one]
  | succ n ih =>
    rw [leBytes, leNat, ih, BitVec.toNat_ofNat, pow_succ' 256]
    exact Nat.mod_mul.symm

/-- A field that stands at the front. -/
theorem leAt_front (n x : Nat) (l : List Byte) : leAt 0 n (leBytes n x ++ l) = x % 256 ^ n := by
  simp [leAt, slice, leNat_leBytes]

theorem leAt_all (n x : Nat) : leAt 0 n (leBytes n x) = x % 256 ^ n := by
  simpa using leAt_front n x []

/-- A field behind other bytes. -/
theorem leAt_behind {off : Nat} (n : Nat) {a : List Byte} (b : List Byte) (past : a.length ≤ off) :
    leAt off n (a ++ b) = leAt (off - a.length) n b := by
  simp [leAt, slice, List.drop_append, List.drop_eq_nil_of_le past]

end Sys2Proof

namespace Sys2Proof.Machine

open Sys2Proof.Claim

/-! ## The packets that a root port takes (R41) -/

/-- R41's two checks of a packet with a data part of `n` bytes: its byte count, its CRC-32. -/
def dataOk (n : Nat) (bs : List Byte) : Bool :=
  decide (bs.length = n + 12) && crcOk 4 bs fun b => wordBytes (crc32 b)

/-- R41's two checks of a handshake: its byte count, its CRC-16. -/
def handshakeOk (bs : List Byte) : Bool := decide (bs.length = 8) && crcOk 2 bs fun b => wordBytes (crc16 b)

/-- The device that a received packet names (R44). -/
def devOf (bs : List Byte) : DevNum := BitVec.ofNat 20 (leAt 2 3 bs)

/-- Its endpoint. -/
def epOf (bs : List Byte) : EpNum := BitVec.ofNat 4 (leAt 2 3 bs / 2 ^ 20)

/-- Its sequence. -/
def seqOf (bs : List Byte) : Byte := BitVec.ofNat 8 (leAt 5 1 bs)

section Types

variable {bs : List Byte}

theorem parsePacket_data (type : leAt 0 1 bs = 0x10) : parsePacket bs =
    if dataOk (leAt 6 2 bs % 2048) bs then
      some (.data (devOf bs) (epOf bs) (seqOf bs) (decide (128 ≤ leAt 1 1 bs)) (slice 8 (leAt 6 2 bs % 2048) bs))
    else none := by
  simp [parsePacket, type, dataOk, devOf, epOf, seqOf]

theorem parsePacket_sheaf (type : leAt 0 1 bs = 0x11) : parsePacket bs =
    if dataOk (leAt 6 2 bs % 32768) bs then
      some (.sheaf (leAt 1 1 bs) (devOf bs) (epOf bs) (seqOf bs) (decide (32768 ≤ leAt 6 2 bs))
        (slice 8 (leAt 6 2 bs % 32768) bs))
    else none := by
  simp [parsePacket, type, dataOk, devOf, epOf, seqOf]

theorem parsePacket_alarms (type : leAt 0 1 bs = 0x12) : parsePacket bs =
    if dataOk (leAt 6 2 bs % 1024) bs then
      some (.alarms (decide (leAt 1 1 bs % 2 = 1)) (decide (128 ≤ leAt 1 1 bs)) (devOf bs) (seqOf bs)
        (slice 8 (leAt 6 2 bs % 1024) bs))
    else none := by
  simp [parsePacket, type, dataOk, devOf, seqOf]

theorem parsePacket_ack (type : leAt 0 1 bs = 0x20) : parsePacket bs =
    if handshakeOk bs then
      some (.ack (devOf bs) (epOf bs) (seqOf bs) (decide (128 ≤ leAt 1 1 bs)) (decide (leAt 1 1 bs % 2 = 1)))
    else none := by
  simp [parsePacket, type, handshakeOk, devOf, epOf, seqOf]

theorem parsePacket_nak (type : leAt 0 1 bs = 0x21) : parsePacket bs =
    if handshakeOk bs then some (.nak (devOf bs) (epOf bs) (seqOf bs) (decide (128 ≤ leAt 1 1 bs))) else none := by
  simp [parsePacket, type, handshakeOk, devOf, epOf, seqOf]

theorem parsePacket_stall (type : leAt 0 1 bs = 0x22) : parsePacket bs =
    if handshakeOk bs then
      some (.stall (devOf bs) (epOf bs) (seqOf bs) (decide (128 ≤ leAt 1 1 bs)) (BitVec.ofNat 8 (leAt 1 1 bs % 64)))
    else none := by
  simp [parsePacket, type, handshakeOk, devOf, epOf, seqOf]

theorem parsePacket_unlisted (type : leAt 0 1 bs ∉ [0x10, 0x11, 0x12, 0x20, 0x21, 0x22]) : parsePacket bs = none := by
  simp only [List.mem_cons, List.not_mem_nil, or_false, not_or] at type
  obtain ⟨notData, notSheaf, notAlarms, notAck, notNak, notStall⟩ := type
  simp [parsePacket, notData, notSheaf, notAlarms, notAck, notNak, notStall]

/-- A wrong byte count or a wrong CRC-32. -/
theorem dataOk_false {n : Nat}
    (bad : bs.length ≠ n + 12 ∨ bs.drop (bs.length - 4) ≠ wordBytes (crc32 (bs.take (bs.length - 4)))) :
    dataOk n bs = false := by
  rcases bad with count | sum
  · simp [dataOk, count]
  · simp [dataOk, crcOk, sum]

/-- A wrong byte count or a wrong CRC-16. -/
theorem handshakeOk_false (bad : bs.length ≠ 8 ∨ bs.drop 6 ≠ wordBytes (crc16 (bs.take 6))) : handshakeOk bs = false := by
  by_cases count : bs.length = 8
  · have sum := bad.resolve_left (not_not_intro count)
    simp [handshakeOk, crcOk, count, sum]
  · simp [handshakeOk, count]

end Types

/-! ## The fields of a packet as a device sends it -/

section Head

variable {type flags : Nat} {dev : DevNum} {ep : EpNum} {seq : Byte} (rest : List Byte)

@[simp] theorem length_targetBytes : (targetBytes dev ep).length = 3 := length_leBytes ..

@[simp] theorem length_handshakeHead : (handshakeHead type flags dev ep seq).length = 6 := by simp [handshakeHead]

/-- Device and endpoint fill the three bytes of a target. -/
theorem target_lt : dev.toNat + 2 ^ 20 * ep.toNat < 256 ^ 3 := by
  have := dev.isLt; have := ep.isLt; omega

theorem type_of_head (range : type < 256) : leAt 0 1 (handshakeHead type flags dev ep seq ++ rest) = type := by
  simp only [handshakeHead, List.append_assoc, leAt_front]
  omega

theorem flags_of_head (range : flags < 256) : leAt 1 1 (handshakeHead type flags dev ep seq ++ rest) = flags := by
  simp only [handshakeHead, List.append_assoc]
  rw [leAt_behind 1 _ (by simp), length_leBytes, leAt_front]
  omega

theorem target_of_head : leAt 2 3 (handshakeHead type flags dev ep seq ++ rest) = dev.toNat + 2 ^ 20 * ep.toNat := by
  simp only [handshakeHead, List.append_assoc]
  rw [leAt_behind 3 _ (by simp), leAt_behind 3 _ (by simp)]
  simp only [length_leBytes, targetBytes, Nat.reduceSub, leAt_front]
  exact Nat.mod_eq_of_lt target_lt

theorem devOf_head : devOf (handshakeHead type flags dev ep seq ++ rest) = dev := by
  rw [devOf, target_of_head]
  apply BitVec.eq_of_toNat_eq
  have := dev.isLt
  simp only [BitVec.toNat_ofNat]; omega

theorem epOf_head : epOf (handshakeHead type flags dev ep seq ++ rest) = ep := by
  rw [epOf, target_of_head]
  apply BitVec.eq_of_toNat_eq
  have := dev.isLt; have := ep.isLt
  simp only [BitVec.toNat_ofNat]; omega

theorem seqOf_head : seqOf (handshakeHead type flags dev ep seq ++ rest) = seq := by
  simp only [seqOf, handshakeHead, List.append_assoc]
  rw [leAt_behind 1 _ (by simp), leAt_behind 1 _ (by simp), leAt_behind 1 _ (by simp)]
  simp only [length_leBytes, length_targetBytes, Nat.reduceSub, leAt_front]
  apply BitVec.eq_of_toNat_eq
  have := seq.isLt
  simp only [BitVec.toNat_ofNat]; omega

end Head

/-! ## Whole packets -/

/-- Bytes with their CRC-16 behind them pass its check. -/
theorem crcOk_16 (b : List Byte) : crcOk 2 (b ++ wordBytes (crc16 b)) (fun b => wordBytes (crc16 b)) = true := by
  simp [crcOk]

theorem crcOk_32 (b : List Byte) : crcOk 4 (b ++ wordBytes (crc32 b)) (fun b => wordBytes (crc32 b)) = true := by
  simp [crcOk]

section Whole

variable {type flags : Nat} {dev : DevNum} {ep : EpNum} {seq : Byte}

theorem handshakeOk_handshake : handshakeOk (handshake type flags dev ep seq) = true := by
  simp [handshakeOk, handshake, crcOk_16]

/-- What follows the head of a data packet. -/
def dataRest (type flags : Nat) (dev : DevNum) (ep : EpNum) (seq : Byte) (length : Nat) (payload : List Byte) : List Byte :=
  leBytes 2 length ++ (payload ++
    wordBytes (crc32 (handshakeHead type flags dev ep seq ++ leBytes 2 length ++ payload)))

theorem dataFrame_eq {length : Nat} {payload : List Byte} : dataFrame type flags dev ep seq length payload =
    handshakeHead type flags dev ep seq ++ dataRest type flags dev ep seq length payload := by
  simp [dataFrame, handshakeHead, dataRest]

theorem dataOk_dataFrame {length : Nat} {payload : List Byte} :
    dataOk payload.length (dataFrame type flags dev ep seq length payload) = true := by
  simp only [dataOk, dataFrame, crcOk_32]
  simp
  omega

theorem length_of_dataFrame {length : Nat} {payload : List Byte} (range : length < 65536) :
    leAt 6 2 (dataFrame type flags dev ep seq length payload) = length := by
  rw [dataFrame_eq, leAt_behind 2 _ (by simp), dataRest]
  simp only [length_handshakeHead, Nat.sub_self, leAt_front]
  omega

theorem payload_of_dataFrame {length : Nat} {payload : List Byte} :
    slice 8 payload.length (dataFrame type flags dev ep seq length payload) = payload := by
  simp [dataFrame_eq, dataRest, slice, List.drop_append, List.drop_eq_nil_of_le]

/-- The head of a data packet. -/
theorem head_of_dataFrame {length : Nat} {payload : List Byte} (rType : type < 256) (rFlags : flags < 256) :
    let bs := dataFrame type flags dev ep seq length payload
    leAt 0 1 bs = type ∧ leAt 1 1 bs = flags ∧ devOf bs = dev ∧ epOf bs = ep ∧ seqOf bs = seq := by
  rw [dataFrame_eq]
  exact ⟨type_of_head _ rType, flags_of_head _ rFlags, devOf_head _, epOf_head _, seqOf_head _⟩

/-- The head of a handshake. -/
theorem head_of_handshake (rType : type < 256) (rFlags : flags < 256) :
    let bs := handshake type flags dev ep seq
    leAt 0 1 bs = type ∧ leAt 1 1 bs = flags ∧ devOf bs = dev ∧ epOf bs = ep ∧ seqOf bs = seq :=
  ⟨type_of_head _ rType, flags_of_head _ rFlags, devOf_head _, epOf_head _, seqOf_head _⟩

end Whole

/-! ## The claims -/

/-- Bit 15 of a SHEAF's length field is its ATTN, below it stands the length (R51). -/
theorem sheafLength (n : Nat) (attn : Bool) (short : n < 32768) : n + 32768 * b2n attn < 65536
    ∧ (n + 32768 * b2n attn) % 32768 = n ∧ decide (32768 ≤ n + 32768 * b2n attn) = attn := by
  cases attn
  · simp [b2n]; omega
  · simp [b2n]; omega

theorem packetsReadBack_holds : Claim.packetsReadBack := by
  intro dev ep seq flags payload range
  refine ⟨fun short => ?data, fun short attn => ?sheaf, fun short => ?alarms, ?ack, ?nak, ?stall⟩
  case data =>
    obtain ⟨type, flag, hdev, hep, hseq⟩ := head_of_dataFrame (type := 0x10) (dev := dev) (ep := ep) (seq := seq)
      (length := payload.length) (payload := payload) (by decide) range
    rw [parsePacket_data type, length_of_dataFrame (by omega), Nat.mod_eq_of_lt short, dataOk_dataFrame,
      payload_of_dataFrame, flag, hdev, hep, hseq, if_pos rfl]
  case sheaf =>
    obtain ⟨fits, low, high⟩ := sheafLength payload.length attn short
    obtain ⟨type, flag, hdev, hep, hseq⟩ := head_of_dataFrame (type := 0x11) (dev := dev) (ep := ep) (seq := seq)
      (length := payload.length + 32768 * b2n attn) (payload := payload) (by decide) range
    rw [parsePacket_sheaf type, length_of_dataFrame fits, low, high, dataOk_dataFrame, payload_of_dataFrame, flag,
      hdev, hep, hseq, if_pos rfl]
  case alarms =>
    obtain ⟨type, flag, hdev, hep, hseq⟩ := head_of_dataFrame (type := 0x12) (dev := dev) (ep := ep) (seq := seq)
      (length := payload.length) (payload := payload) (by decide) range
    rw [parsePacket_alarms type, length_of_dataFrame (by omega), Nat.mod_eq_of_lt short, dataOk_dataFrame,
      payload_of_dataFrame, flag, hdev, hseq, if_pos rfl]
  case ack =>
    obtain ⟨type, flag, hdev, hep, hseq⟩ := head_of_handshake (dev := dev) (ep := ep) (seq := seq)
      (show 0x20 < 256 by decide) range
    rw [parsePacket_ack type, handshakeOk_handshake, flag, hdev, hep, hseq, if_pos rfl]
  case nak =>
    obtain ⟨type, flag, hdev, hep, hseq⟩ := head_of_handshake (dev := dev) (ep := ep) (seq := seq)
      (show 0x21 < 256 by decide) range
    rw [parsePacket_nak type, handshakeOk_handshake, flag, hdev, hep, hseq, if_pos rfl]
  case stall =>
    obtain ⟨type, flag, hdev, hep, hseq⟩ := head_of_handshake (dev := dev) (ep := ep) (seq := seq)
      (show 0x22 < 256 by decide) range
    rw [parsePacket_stall type, handshakeOk_handshake, flag, hdev, hep, hseq, if_pos rfl]

theorem badPacketsDiscarded_holds : Claim.badPacketsDiscarded := by
  intro bs
  refine ⟨parsePacket_unlisted, fun handshake bad => ?_, fun kind listed type bad => ?_⟩
  · have fails := handshakeOk_false bad
    simp only [List.mem_cons, List.not_mem_nil, or_false] at handshake
    rcases handshake with ack | nak | stall
    · simp [parsePacket_ack ack, fails]
    · simp [parsePacket_nak nak, fails]
    · simp [parsePacket_stall stall, fails]
  · have fails := dataOk_false bad
    simp only [List.mem_cons, List.not_mem_nil, or_false] at listed
    rcases listed with rfl | rfl | rfl
    · simp [parsePacket_data type, fails]
    · simp [parsePacket_sheaf type, fails]
    · simp [parsePacket_alarms type, fails]

/-! ## Tokens (R44) -/

/-- The 14 bytes of a token before its CRC. -/
def tokenHead (t : Token) : List Byte :=
  leBytes 1 t.type ++ leBytes 1 t.flags ++ wordBytes t.route ++ targetBytes t.dev t.ep ++ leBytes 1 t.tag
    ++ wordBytes t.seq ++ leBytes 2 t.len

theorem token_bytes (t : Token) : t.bytes = tokenHead t ++ wordBytes (crc16 (tokenHead t)) := rfl

@[simp] theorem length_tokenHead (t : Token) : (tokenHead t).length = 14 := by simp [tokenHead]

theorem take_token (t : Token) : t.bytes.take 14 = tokenHead t := by
  simp [token_bytes]

theorem token_fields (t : Token) (rest : List Byte) : let bs := tokenHead t ++ rest
    leAt 0 1 bs = t.type % 256 ∧ leAt 1 1 bs = t.flags % 256 ∧ leAt 2 4 bs = t.route.toNat
      ∧ leAt 6 3 bs = t.dev.toNat + 2 ^ 20 * t.ep.toNat ∧ leAt 9 1 bs = t.tag % 256 ∧ leAt 10 2 bs = t.seq.toNat
      ∧ leAt 12 2 bs = t.len % 65536 := by
  refine ⟨?type, ?flags, ?route, ?target, ?tag, ?seq, ?len⟩
  all_goals simp [tokenHead, wordBytes, targetBytes, leAt_behind, leAt_front]
  case route => exact t.route.isLt
  case target => exact target_lt
  case seq => exact t.seq.isLt

theorem tokensReadBack_holds : Claim.tokensReadBack := by
  intro t rType rFlags rTag rLen
  rw [take_token, token_bytes]
  obtain ⟨type, flags, route, target, tag, seq, len⟩ := token_fields t (wordBytes (crc16 (tokenHead t)))
  rw [Nat.mod_eq_of_lt rType] at type
  rw [Nat.mod_eq_of_lt rFlags] at flags
  rw [Nat.mod_eq_of_lt rTag] at tag
  rw [Nat.mod_eq_of_lt rLen] at len
  refine ⟨by simp, type, flags, route, target, tag, seq, len, ?crc⟩
  rw [leAt_behind 2 _ (by simp), length_tokenHead, wordBytes, leAt_all]
  exact Nat.mod_eq_of_lt (crc16 (tokenHead t)).isLt

end Sys2Proof.Machine

namespace Sys2Proof

open Sys2Proof.Machine

/-- Settles O8: the head of a packet and its length field are read by place, its checks hold of what was built. -/
theorem packetsReadBack : Obligations.PacketsReadBack :=
  ⟨packetsReadBack_holds, badPacketsDiscarded_holds, tokensReadBack_holds⟩

end Sys2Proof
end


section
/-! The reflected CRC of packets as the CRC that R42 writes, and where it stands in them. -/

namespace Sys2Proof.Machine

open Sys2Proof.Claim

/-! ## The reflected CRC (R42) -/

/-- One step of a reflected CRC: the bit enters at the low end, and the register moves down. -/
def reflectedStep {w : Nat} (poly c : BitVec w) (bit : Bool) : BitVec w :=
  (c >>> 1) ^^^ (if c.getLsbD 0 != bit then poly else 0)

/-- It is the step that takes the polynomial most significant bit first, seen in the reversed register. -/
theorem reverse_reflectedStep {w : Nat} (poly c : BitVec w) (bit : Bool) :
    (reflectedStep poly c bit).reverse = crcStep poly.reverse c.reverse bit := by
  unfold reflectedStep crcStep
  rw [BitVec.msb_reverse]
  ext i inside
  rw [BitVec.getElem_reverse]
  cases c.getLsbD 0 != bit <;> cases i <;>
    simp [BitVec.getMsbD_ushiftRight, BitVec.getElem_shiftLeft, BitVec.getElem_reverse, inside]

/-- The low `n` bits of a word enter first, the rest stand where they were moved to. -/
theorem crcBits_xor {w : Nat} (poly c x : BitVec w) (n : Nat) :
    crcBits poly (c ^^^ x) n = ((List.range n).map (bitOf x)).foldl (reflectedStep poly) c ^^^ (x >>> n) := by
  induction n generalizing c x with
  | zero => simp [crcBits]
  | succ n ih =>
    have enters : (if (c ^^^ x).getLsbD 0 then ((c ^^^ x) >>> 1) ^^^ poly else (c ^^^ x) >>> 1)
        = reflectedStep poly c (bitOf x 0) ^^^ (x >>> 1) := by
      rw [BitVec.getLsbD_xor, BitVec.ushiftRight_xor_distrib, reflectedStep, BitVec.xor_assoc, BitVec.xor_assoc,
        BitVec.xor_comm (x >>> 1)]
      cases c.getLsbD 0 <;> cases bit : x.getLsbD 0 <;> simp [bit]
    have later : (List.range n).map (bitOf (x >>> 1)) = (List.range n).map (bitOf x ∘ Nat.succ) := by
      simp [Nat.add_comm 1]
    rw [crcBits, enters, ih, later, List.range_succ_eq_map, List.map_cons, List.map_map, List.foldl_cons,
      ← BitVec.shiftRight_add, Nat.add_comm 1 n]

/-- The eight bits of a byte in a register that holds at least a byte. -/
theorem crcBits_byte {w : Nat} (wide : 8 ≤ w) (poly c : BitVec w) (b : Byte) :
    crcBits poly (c ^^^ b.setWidth w) 8 = ((List.range 8).map (bitOf b)).foldl (reflectedStep poly) c := by
  have gone : (b.setWidth w) >>> 8 = 0#w := by
    ext i inside
    simp
  have bits : (List.range 8).map (bitOf (b.setWidth w)) = (List.range 8).map (bitOf b) := by
    refine List.map_congr_left fun i low => ?_
    have low := List.mem_range.mp low
    simp [bitOf, Nat.lt_of_lt_of_le low wide]
  rw [crcBits_xor, gone, bits, BitVec.xor_zero]

/-- The bits of bytes in the order in which they enter. -/
def bitsOf (bs : List Byte) : List Bool := bs.flatMap fun b => (List.range 8).map (bitOf b)

theorem foldl_reflectedStep_reverse {w : Nat} (poly c : BitVec w) (bits : List Bool) :
    (bits.foldl (reflectedStep poly) c).reverse = bits.foldl (crcStep poly.reverse) c.reverse := by
  induction bits generalizing c with
  | nil => rfl
  | cons b bits ih => rw [List.foldl_cons, List.foldl_cons, ih, reverse_reflectedStep]

/-- The reflected CRC over a reversed polynomial is the CRC as R42 writes it. -/
theorem crc_eq_crcOf {w : Nat} (wide : 8 ≤ w) (poly : BitVec w) (bs : List Byte) :
    crc poly bs = crcOf poly.reverse bs := by
  have bytes : ∀ c, bs.foldl (fun c b => crcBits poly (c ^^^ b.setWidth w) 8) c
      = (bitsOf bs).foldl (reflectedStep poly) c := by
    intro c
    simp only [crcBits_byte wide, bitsOf, List.foldl_flatMap]
  have ones : (BitVec.allOnes w).reverse = BitVec.allOnes w := by
    ext i inside
    simp [BitVec.getElem_reverse, inside]
  have turned : crcOf poly.reverse bs =
      ((bitsOf bs).foldl (crcStep poly.reverse) (BitVec.allOnes w).reverse).reverse ^^^ BitVec.allOnes w := by
    rw [ones]; rfl
  rw [turned, ← foldl_reflectedStep_reverse, BitVec.reverse_reverse_eq, BitVec.xor_allOnes, crc, bytes]

theorem crc16_eq_crcOf (bs : List Byte) : crc16 bs = crcOf 0x1021#16 bs := by
  rw [crc16, crc_eq_crcOf (by decide), show (0x8408#16).reverse = 0x1021#16 by decide]

theorem crc32_eq_crcOf (bs : List Byte) : crc32 bs = crcOf 0x04C11DB7#32 bs := by
  rw [crc32, crc_eq_crcOf (by decide), show (0xEDB88320#32).reverse = 0x04C11DB7#32 by decide +kernel]

/-! ## Where the CRCs stand (R42) -/

/-- A DATA packet without its CRC. -/
theorem take_dataPacket (dev : DevNum) (ep : EpNum) (seq : BitVec 16) (payload : List Byte) :
    ∃ b, (dataPacket dev ep seq payload).take (8 + payload.length) = b
      ∧ dataPacket dev ep seq payload = b ++ wordBytes (crc32 b) := by
  refine ⟨_, rfl, ?_⟩
  have whole : (leBytes 1 0x10 ++ leBytes 1 0 ++ targetBytes dev ep ++ leBytes 1 seq.toNat ++ leBytes 2 payload.length
      ++ payload).length = 8 + payload.length := by simp; omega
  rw [dataPacket, ← whole, List.take_left]

theorem crcsAreR42_holds : Claim.crcsAreR42 := by
  refine ⟨crc16_eq_crcOf, crc32_eq_crcOf, by decide +kernel, by decide +kernel, fun t => ?_, fun dev ep seq payload => ?_⟩
  · rw [take_token]; exact token_bytes t
  · obtain ⟨b, taken, whole⟩ := take_dataPacket dev ep seq payload
    rw [taken]; exact whole

end Sys2Proof.Machine

namespace Sys2Proof

open Sys2Proof.Machine

/-- Settles O7: bit by bit the reflected register is the reverse of the one that R42 describes. -/
theorem crcsAreAsWritten : Obligations.CrcsAreAsWritten := crcsAreR42_holds

end Sys2Proof
end


section
/-! Serials (R45, R60): with at most 64 transactions outstanding one of 65 serials in a row is free in its low byte. -/

namespace Sys2Proof.Machine

/-- Some transaction outstanding on the hub's endpoint 0 carries the low byte of a serial. -/
def carried (l : List Tx) (hub : DevNum) (s : BitVec 16) : Bool :=
  l.any fun t => t.dev == hub && t.ep == 0 && t.seq.setWidth 8 == (s.setWidth 8 : Byte)

theorem carried_iff {l : List Tx} {hub : DevNum} {s : BitVec 16} : carried l hub s = true ↔
    ∃ t ∈ l, t.dev = hub ∧ t.ep = 0 ∧ t.seq.setWidth 8 = (s.setWidth 8 : Byte) := by
  simp [carried, and_assoc]

/-- The low bytes of 256 serials in a row differ. -/
theorem lowByte_inj {s : BitVec 16} {j k : Nat} (hj : j < 256) (hk : k < 256)
    (same : ((s + BitVec.ofNat 16 j).setWidth 8 : Byte) = (s + BitVec.ofNat 16 k).setWidth 8) : j = k := by
  have same := congrArg BitVec.toNat same
  simp only [BitVec.toNat_setWidth, BitVec.toNat_add, BitVec.toNat_ofNat] at same
  omega

/-- Of 65 serials in a row one is free: 64 transactions carry at most 64 low bytes. -/
theorem exists_not_carried (l : List Tx) (hub : DevNum) (s : BitVec 16) (few : l.length ≤ 64) :
    ∃ k ≤ 64, carried l hub (s + BitVec.ofNat 16 k) = false := by
  by_contra all
  push Not at all
  let low (k : Nat) : Byte := (s + BitVec.ofNat 16 k).setWidth 8
  have maps : ∀ k ∈ Finset.range 65, low k ∈ (l.map fun t => (t.seq.setWidth 8 : Byte)).toFinset := by
    intro k inside
    have is := all k (by have := Finset.mem_range.mp inside; omega)
    obtain ⟨t, mem, -, -, same⟩ := carried_iff.mp (by simpa using is)
    exact List.mem_toFinset.mpr (List.mem_map.mpr ⟨t, mem, same⟩)
  have card : (l.map fun t => (t.seq.setWidth 8 : Byte)).toFinset.card < (Finset.range 65).card := by
    have := List.toFinset_card_le (l.map fun t => (t.seq.setWidth 8 : Byte))
    simp only [List.length_map] at this
    simp only [Finset.card_range]; omega
  obtain ⟨j, hj, k, hk, ne, same⟩ := Finset.exists_ne_map_eq_of_card_lt_of_maps_to card maps
  exact ne (lowByte_inj (by have := Finset.mem_range.mp hj; omega) (by have := Finset.mem_range.mp hk; omega) same)

theorem nextSerial_succ (l : List Tx) (hub : DevNum) (n : Nat) (s : BitVec 16) :
    nextSerial l hub (n + 1) s = if carried l hub s then nextSerial l hub n (s + 1) else s := rfl

/-- The search stops at the first serial that nothing carries. -/
theorem nextSerial_first {l : List Tx} {hub : DevNum} {n k : Nat} {s : BitVec 16} (fuel : k < n)
    (before : ∀ j < k, carried l hub (s + BitVec.ofNat 16 j) = true)
    (free : carried l hub (s + BitVec.ofNat 16 k) = false) : nextSerial l hub n s = s + BitVec.ofNat 16 k := by
  induction k generalizing n s with
  | zero =>
    obtain ⟨n, rfl⟩ := Nat.exists_eq_add_one_of_ne_zero (by omega : n ≠ 0)
    simp only [BitVec.add_zero] at free ⊢
    simp [nextSerial_succ, free]
  | succ k ih =>
    obtain ⟨n, rfl⟩ := Nat.exists_eq_add_one_of_ne_zero (by omega : n ≠ 0)
    have shift : ∀ j, s + 1 + BitVec.ofNat 16 j = s + BitVec.ofNat 16 (j + 1) := by
      intro j
      rw [BitVec.ofNat_add, BitVec.add_assoc, BitVec.add_comm (1 : BitVec 16)]; rfl
    have here : carried l hub s = true := by simpa using before 0 (by omega)
    rw [nextSerial_succ, here, if_pos rfl, ← shift]
    refine ih (by omega) (fun j less => ?_) ?_
    · rw [shift]; exact before (j + 1) (by omega)
    · rw [shift]; exact free

theorem serialsDistinct_holds : Claim.serialsDistinct := by
  intro l hub s few
  have found := exists_not_carried l hub s few
  have free := (Nat.find_spec found).2
  have before : ∀ j < Nat.find found, carried l hub (s + BitVec.ofNat 16 j) = true := by
    intro j less
    have least := Nat.find_min found less
    have bound := (Nat.find_spec found).1
    simpa [show j ≤ 64 by omega] using least
  refine ⟨Nat.find found, (Nat.find_spec found).1, ?_, ?_, ?_⟩
  · exact nextSerial_first (by have := (Nat.find_spec found).1; omega) before free
  · intro t mem dev ep same
    have is := carried_iff.mpr ⟨t, mem, dev, ep, same⟩
    simp [free] at is
  · exact fun j less => carried_iff.mp (before j less)

end Sys2Proof.Machine

namespace Sys2Proof

open Sys2Proof.Machine

/-- Settles O10: the search reaches the first free serial, and 65 in a row hold a free one. -/
theorem serialsStayDistinct : Obligations.SerialsStayDistinct := serialsDistinct_holds

end Sys2Proof
end


section
/-! APOLL (R56): the alarm count is the largest that fits, and the deadline the time that it leaves. -/

namespace Sys2Proof.Machine

open Sys2Proof.Claim

/-- The counts from 1 to 64 whose sum is within 2,000 ns. -/
def fittingCounts (a tau rtt : Nat) : List Nat :=
  (List.range 65).filter fun n => decide (1 ≤ n) && decide (apollSum a tau rtt n ≤ 2000)

theorem mem_fittingCounts {a tau rtt n : Nat} :
    n ∈ fittingCounts a tau rtt ↔ 1 ≤ n ∧ n ≤ 64 ∧ apollSum a tau rtt n ≤ 2000 := by
  simp only [fittingCounts, List.mem_filter, List.mem_range, Bool.and_eq_true, decide_eq_true_eq]
  omega

/-- The greatest of 1 and the counts that fit. -/
def greatestCount (a tau rtt : Nat) : Nat := (fittingCounts a tau rtt).foldl max 1

theorem apollArith_eq (a tau rtt : Nat) : apollArith a tau rtt = (greatestCount a tau rtt,
    (2000 - a - 18 * tau - rtt - (14 + 8 * greatestCount a tau rtt) * tau - 40) / 10) := rfl

theorem greatestCount_spec (a tau rtt : Nat) : greatestCount a tau rtt ∈ 1 :: fittingCounts a tau rtt
    ∧ ∀ n ∈ 1 :: fittingCounts a tau rtt, n ≤ greatestCount a tau rtt :=
  List.max?_eq_some_iff.mp List.max?_cons'

/-- The deadline in terms of the sum. -/
theorem apollArith_deadline (a tau rtt : Nat) :
    (apollArith a tau rtt).2 = (2600 - apollSum a tau rtt (greatestCount a tau rtt)) / 10 := by
  rw [apollArith_eq]
  generalize greatestCount a tau rtt = n
  rw [show 2000 - a - 18 * tau - rtt - (14 + 8 * n) * tau - 40 = 2600 - apollSum a tau rtt n by unfold apollSum; omega]

theorem apollCountsLargest_holds : Claim.apollCountsLargest := by
  refine ⟨fun a tau rtt one => ?_, fun frame row n d => ⟨rfl, rfl⟩, by decide +kernel, by decide +kernel⟩
  rw [show (apollArith a tau rtt).1 = greatestCount a tau rtt from rfl]
  obtain ⟨mem, greatest⟩ := greatestCount_spec a tau rtt
  have fits : greatestCount a tau rtt ∈ fittingCounts a tau rtt := by
    rcases List.mem_cons.mp mem with is | fits
    · rw [is]; exact mem_fittingCounts.mpr ⟨le_rfl, by decide, one⟩
    · exact fits
  obtain ⟨low, high, sum⟩ := mem_fittingCounts.mp fits
  refine ⟨low, high, sum, fun n small sum => ?_, apollArith_deadline a tau rtt, ?_⟩
  · by_cases zero : n = 0
    · omega
    · exact greatest n (List.mem_cons_of_mem _ (mem_fittingCounts.mpr ⟨by omega, small, sum⟩))
  · rw [apollArith_deadline]; omega

end Sys2Proof.Machine

namespace Sys2Proof

open Sys2Proof.Machine

/-- Settles O11: the count is the maximum of those that fit, and the deadline is what they leave of 2,600 ns. -/
theorem apollCountIsTheLargest : Obligations.ApollCountIsTheLargest := apollCountsLargest_holds

end Sys2Proof
end


section
/-! The commands of the bus in two shapes: what they make of the engine, and a step with the tree's upkeep after it. -/

namespace Sys2Proof.Machine

/-- The upkeep sees what was done, not how. -/
theorem treeWork_congr {f g : Engine → Engine} {e : Engine} (same : f e = g e) : treeWork f e = treeWork g e := by
  rw [treeWork, treeWork, same]

/-- A command by what it makes of the engine. -/
theorem onEng_of {s : State} {f : Engine → Engine} {e : Engine} (makes : f s.eng = e) :
    onEng s f = .next { s with eng := noted s.eng e } := by
  rw [onEng_eq, makes]

/-- A command by a step that does the same at this engine, the tree's upkeep after it. -/
theorem onEng_treeWork {s : State} {f g : Engine → Engine} (same : f s.eng = g s.eng) :
    onEng s (treeWork f) = .next { s with eng := noted s.eng (treeWork g s.eng) } :=
  onEng_of (treeWork_congr same)

end Sys2Proof.Machine
end


section
/-! Root links (R32, R36 to R40, R407): each command of the link layer by the link's state. -/

namespace Sys2Proof.Machine

open Sys2Proof.Claim

/-! ## What a failed REAP of a lost lock leaves -/

/-- The yoke and which ports this controller leads. -/
def leadership (e : Engine) : Yoke × (PortId → Bool) := (e.yoke, fun p => (e.port p).leads)

theorem leadership_of_rest {e e' : Engine} (same : e.rest = e'.rest) : leadership e = leadership e' := by
  have yoke : e.yoke = e'.yoke := congrArg Rest.yoke same
  have ports : e.ports = e'.ports := congrArg Rest.ports same
  simp [leadership, Engine.port, yoke, ports]

/-- An update of a port that keeps its leads bit. -/
theorem leadership_modPort {p : PortId} {f : Port → Port} (keeps : ∀ t, (f t).leads = t.leads) (e : Engine) :
    leadership (modPort p f e) = leadership e := by
  have leads : ∀ q, ((modPort p f e).port q).leads = (e.port q).leads := by
    intro q
    rw [Engine.port, modPort_at]
    split
    · exact keeps _
    · rfl
  simp [leadership, leads]

theorem leadership_modLink (p : PortId) (f : Link → Link) (e : Engine) : leadership (modLink p f e) = leadership e :=
  leadership_modPort (f := fun t => { t with link := f t.link }) (fun _ => rfl) e

theorem leadership_modArb (p : PortId) (f : PortArb → PortArb) (e : Engine) : leadership (modArb p f e) = leadership e :=
  leadership_modPort (f := fun t => { t with arb := f t.arb }) (fun _ => rfl) e

theorem dropResult_rest (d : Staged) (x : SheafOut) (e : Engine) : (dropResult d x e).rest = e.rest := by
  have counted : (forAll (List.range x.count) (fun _ => countH d.holding 3) e).rest = e.rest :=
    forAll_keeps Engine.rest _ _ e fun _ e => countH_rest ..
  unfold dropResult
  dsimp only
  split
  · exact counted
  · exact counted

theorem putSheaf_rest (h : Fn) (n : Nat) (x : SheafOut) (e : Engine) : (putSheaf h n x e).rest = e.rest := by
  unfold putSheaf
  split
  · exact countH_rest ..
  · split
    · rfl
    · exact countH_rest ..

theorem deliver_rest (d : Staged) (x : SheafOut) (cause : Nat) (e : Engine) : (deliver d x cause e).rest = e.rest := by
  unfold deliver
  split
  · exact dropResult_rest ..
  · split
    · rfl
    · split
      · exact toPartner_rest ..
      · exact putSheaf_rest ..

theorem reapFailure_rest (d : Staged) (cause : Nat) (e : Engine) : (reapFailure d cause e).rest = e.rest :=
  whenE_keeps Engine.rest _ _ e fun _ => attn_rest ..

theorem failReap_rest (d : Staged) (status cause serial : Nat) (e : Engine) :
    (failReap d status cause serial e).rest = e.rest := by
  unfold failReap
  dsimp only
  rw [whenE_keeps Engine.rest _ _ _ (reapFailure_rest d cause), deliver_rest]

/-- What a change of one frame's log keeps. -/
theorem modFrameLog_keeps {γ : Sort _} (p : Engine → γ) (logs : ∀ e l, p { e with frameLogs := l } = p e) (h : Fn)
    (f : BitVec 48) (g : FrameLog → FrameLog) (e : Engine) : p (modFrameLog h f g e) = p e := by
  unfold modFrameLog
  split
  · exact logs ..
  · exact logs ..

/-- What the log entries of a frame keep. -/
theorem settleFrame_keeps {γ : Sort _} (p : Engine → γ) (logs : ∀ e l, p { e with frameLogs := l } = p e)
    (fns : ∀ h f e, p (modFn h f e) = p e) (h : Fn) (f : BitVec 48) (e : Engine) : p (settleFrame h f e) = p e := by
  unfold settleFrame
  split
  · rfl
  · dsimp only
    cases firstOf (e.frameLog h f).invalid <;> cases firstOf (e.frameLog h f).overrun <;> dsimp only <;> split_ifs
    all_goals simp only [logs, fns, attn, modFrameLog_keeps p logs]

theorem doneStaged_leadership (d : Staged) (e : Engine) : leadership (doneStaged d e) = leadership e := by
  unfold doneStaged
  rw [leadership_of_rest (sweepAssign_rest _),
    settleFrame_keeps leadership (fun _ _ => rfl) (fun _ _ _ => rfl)]
  rfl

theorem failReaps_leadership (p : PortId) (e : Engine) : leadership (failReaps p e) = leadership e := by
  refine forAll_keeps leadership _ _ e fun d e => ?_
  dsimp only
  rw [doneStaged_leadership, leadership_of_rest (failReap_rest ..)]
  exact forAll_keeps leadership _ _ e fun q e => leadership_modArb q _ e

/-! ## The claims -/

theorem sidebandScan_holds : Claim.sidebandScan := by
  intro s los live awake
  show execSidebandScan los s = _
  exact onEng_treeWork (by simp [live, awake])

theorem symbolLockAcquired_holds : Claim.symbolLockAcquired := by
  intro s p
  refine ⟨fun mends whole => ?mend, fun state => ?notes, fun state => ?ignores⟩
  case mend =>
    show execSymbolLockAcquired p s = _
    exact onEng_of (by simp [show (s.eng.port p).link.state = .lmend from mends, whole])
  case notes =>
    rcases state with trains | wakes
    · show execSymbolLockAcquired p s = _
      exact onEng_of (by simp [show (s.eng.port p).link.state = .ltrain from trains])
    · show execSymbolLockAcquired p s = _
      exact onEng_of (by simp [show (s.eng.port p).link.state = .lwake from wakes])
  case ignores =>
    rcases state with down | quiet
    · show execSymbolLockAcquired p s = _
      exact onEng_of (by simp [show (s.eng.port p).link.state = .ldown from down])
    · show execSymbolLockAcquired p s = _
      exact onEng_of (by simp [show (s.eng.port p).link.state = .lquiet from quiet])

/-- What a link that leaves LUP with its lock does before its partner is asked (R36, R39, R145). -/
def lostLock (p : PortId) (e : Engine) : Engine :=
  failReaps p (modArb p (fun a => { a with grant := none }) (modLink p (fun l => { l with lock := false, state := .lmend }) e))

/-- It leaves open neither what the pair shares nor who leads. -/
theorem lostLock_leads (p : PortId) (e : Engine) :
    ((lostLock p e).shared p && ((lostLock p e).port p).leads) = (e.shared p && (e.port p).leads) := by
  have same : leadership (lostLock p e) = leadership e := by
    rw [lostLock, failReaps_leadership, leadership_modArb, leadership_modLink]
  have yoke : (lostLock p e).yoke = e.yoke := congrArg Prod.fst same
  have leads : ((lostLock p e).port p).leads = (e.port p).leads := congrFun (congrArg Prod.snd same) p
  rw [Engine.shared, Engine.shared, yoke, leads]

theorem exec_lossOfLock_up {s : State} {p : PortId} (up : linkIs s p .lup) : exec (.lossOfLock p) s =
    .next { s with eng := noted s.eng (treeWork (fun e =>
      whenE (s.eng.shared p && (s.eng.port p).leads) (toPartner (.handOver (.port p))) (lostLock p e)) s.eng) } := by
  show execLossOfLock p s = _
  refine onEng_treeWork ?_
  simp only [show (s.eng.port p).link.state = .lup from up, beq_self_eq_true, if_true, Bool.not_true, Bool.false_eq_true,
    if_false]
  rw [← lostLock_leads p s.eng]
  rfl

theorem lossOfLock_holds : Claim.lossOfLock := by
  intro s p
  refine ⟨fun up alone => ?alone, fun up shared => ?shared, fun notUp => ?other⟩
  case alone => rw [exec_lossOfLock_up up, alone]; rfl
  case shared => rw [exec_lossOfLock_up up, shared]; rfl
  case other =>
    have state : (s.eng.port p).link.state ≠ .lup := notUp
    show execLossOfLock p s = _
    exact onEng_treeWork (by simp [state])

theorem trainingMeasured_holds : Claim.trainingMeasured := by
  rintro s p rtt ⟨trains, lock⟩
  have state : (s.eng.port p).link.state = .ltrain := trains
  refine ⟨fun near => ?_, fun far => ?_⟩
  · show execTrainingMeasured p rtt s = _
    exact onEng_treeWork (by simp [state, lock, near])
  · show execTrainingMeasured p rtt s = _
    exact onEng_treeWork (by simp [state, lock, Nat.not_le.mpr far])

theorem trainingTrialTimeout_holds : Claim.trainingTrialTimeout := by
  intro s p trains
  have state : (s.eng.port p).link.state = .ltrain := trains
  refine ⟨fun high => ?_, fun low => ?_⟩
  · show execTrainingTrialTimeout p s = _
    exact onEng_of (by simp [state, high])
  · show execTrainingTrialTimeout p s = _
    exact onEng_of (by simp [state, low])

theorem lmendTimeout_holds : Claim.lmendTimeout := by
  intro s p mends whole
  show execLmendTimeout p s = _
  exact onEng_treeWork (by simp [show (s.eng.port p).link.state = .lmend from mends, whole])

theorem retryHoldoffExpiry_holds : Claim.retryHoldoffExpiry := by
  intro s p
  refine ⟨fun may => ?_, fun mayNot => ?_⟩
  · show execRetryHoldoffExpiry p s = _
    exact onEng_of (by simp [may])
  · show execRetryHoldoffExpiry p s = _
    exact onEng_of (by simp [mayNot])

end Sys2Proof.Machine

namespace Sys2Proof

open Sys2Proof.Machine

/-- Settles O42: each command by the link's state; a lock lost in LUP leaves who leads the port as it was. -/
theorem trainingCompletes : Obligations.TrainingCompletes :=
  ⟨sidebandScan_holds, symbolLockAcquired_holds, lossOfLock_holds, trainingMeasured_holds, trainingTrialTimeout_holds,
    lmendTimeout_holds, retryHoldoffExpiry_holds⟩

end Sys2Proof
end


section
/-! Root ports (R39, R72, R73): resets, resumes, suspends, debounces and quarantines by the states of port and link. -/

namespace Sys2Proof.Machine

open Sys2Proof.Claim

theorem linkResetElapsed_holds : Claim.linkResetElapsed := by
  intro s p resets
  show execLinkResetElapsed p s = _
  exact onEng_of (by simp [show (s.eng.port p).link.state = .lreset from resets])

theorem resumeReceived_holds : Claim.resumeReceived := by
  intro s p quiet _
  show execResumeReceived p s = _
  exact onEng_of (by simp [show (s.eng.port p).link.state = .lquiet from quiet])

/-- R39: the link of a resume is up before the port's state is looked at. -/
theorem rh_modLink (p : PortId) (f : Link → Link) (e : Engine) : ((modLink p f e).port p).rh = (e.port p).rh := by
  rw [Engine.port, modLink, modPort_same]

theorem resumeDone_holds : Claim.resumeDone := by
  intro s p wakes lock
  have state : (s.eng.port p).link.state = .lwake := wakes
  refine ⟨fun resumes => ?_, fun other => ?_⟩
  · show execResumeDone p s = _
    exact onEng_treeWork (by simp [state, lock, rh_modLink, resumes])
  · show execResumeDone p s = _
    exact onEng_treeWork (by simp [state, lock, rh_modLink, other])

theorem lwakeTimeout_holds : Claim.lwakeTimeout := by
  intro s p wakes
  show execLwakeTimeout p s = _
  exact onEng_treeWork (by simp [show (s.eng.port p).link.state = .lwake from wakes])

theorem suspendDrained_holds : Claim.suspendDrained := by
  intro s p up waits enabled idle
  show execSuspendDrained p s = _
  exact onEng_of (by simp [show (s.eng.port p).link.state = .lup from up, waits, enabled, idle])

theorem debounceExpiry_holds : Claim.debounceExpiry := by
  rintro s p ⟨powered, debounce, up, own⟩
  show execDebounceExpiry p s = _
  exact onEng_treeWork (by simp [powered, debounce, show (s.eng.port p).link.state = .lup from up, own])

theorem resettingTimeout_holds : Claim.resettingTimeout := by
  intro s p resetting notUp notReset
  have up : (s.eng.port p).link.state ≠ .lup := notUp
  have reset : (s.eng.port p).link.state ≠ .lreset := notReset
  show execResettingTimeout p s = _
  exact onEng_treeWork (by simp [resetting, up, reset])

theorem resumingTimeout_holds : Claim.resumingTimeout := by
  intro s p resuming notUp
  have up : (s.eng.port p).link.state ≠ .lup := notUp
  show execResumingTimeout p s = _
  exact onEng_treeWork (by simp [resuming, up])

theorem portQuarantine_holds : Claim.portQuarantine := by
  rintro s p ⟨there, free, bounces⟩
  show execPortQuarantine p s = _
  refine onEng_treeWork ?_
  simp only [free, bounces, decide_true, Bool.not_false, Bool.and_true]
  rcases there with state | state | state | state <;> simp [state]

end Sys2Proof.Machine

namespace Sys2Proof

open Sys2Proof.Machine

/-- Settles O43: each command by the states of the port and its link. -/
theorem portEventsComplete : Obligations.PortEventsComplete :=
  ⟨linkResetElapsed_holds, resumeReceived_holds, resumeDone_holds, lwakeTimeout_holds, suspendDrained_holds,
    debounceExpiry_holds, resettingTimeout_holds, resumingTimeout_holds, portQuarantine_holds⟩

end Sys2Proof
end


section
/-! Frame time (R29, R31, R57, R100): row boundaries, runs of missed APOLLs, the retirement of frames. -/

namespace Sys2Proof.Machine

open Sys2Proof.Claim

/-- The clocks' counts do not decide whether the bus engine runs. -/
theorem live_clk (e : Engine) (c : Clk) : ({ e with clk := c } : Engine).live = e.live := rfl

theorem rowBoundary_holds : Claim.rowBoundary := by
  rintro s ⟨timer, live⟩
  refine ⟨fun started inside => ?within, fun started last noStep => ?next, fun first noStep => ?first⟩
  case within =>
    show execRowBoundary s = _
    exact onEng_of (by simp [live_clk, timer, live, started, inside])
  case next =>
    show execRowBoundary s = _
    exact onEng_of (by simp [live_clk, timer, live, started, last, noStep, Engine.nextFrame])
  case first =>
    show execRowBoundary s = _
    exact onEng_of (by simp [live_clk, timer, live, first, noStep, Engine.nextFrame])

theorem apollMissRunLog_holds : Claim.apollMissRunLog := by
  rintro s p ⟨run, unlogged⟩
  show execApollMissRunLog p s = _
  exact onEng_of (by simp [Nat.not_lt.mpr run, unlogged])

theorem frameRetiredAdvance_holds : Claim.frameRetiredAdvance := by
  refine ⟨fun s ok => ?retires, fun s running => ?stays⟩
  case retires =>
    obtain ⟨live, started, ended, idle⟩ := ok
    show execFrameRetiredAdvance s = _
    exact onEng_of (by simp [live, started, Nat.not_le.mpr ended, idle] <;> rfl)
  case stays =>
    show execFrameRetiredAdvance s = _
    exact onEng_of (by simp [running])

end Sys2Proof.Machine

namespace Sys2Proof

open Sys2Proof.Machine

/-- Settles O37: a boundary by whether the row is the frame's last, or the timer's first. -/
theorem rowBoundariesComplete : Obligations.RowBoundariesComplete :=
  ⟨rowBoundary_holds, apollMissRunLog_holds, frameRetiredAdvance_holds⟩

end Sys2Proof
end


section
/-! Replies, timeouts and re-offers (R41, R59, R60, R64, R65, R143): what a port that hears a packet takes it for. -/

namespace Sys2Proof.Machine

open Sys2Proof.Claim

/-! ## Receiving a packet (R41, R403) -/

/-- A control that is off for the port leaves the packet and the count. -/
theorem testEvery_off {k : Nat} {p : PortId} {e : Engine} (type : Nat)
    (off : (e.test.ctls[(finOf 19 k).val].on && bitOf e.test.ctls[(finOf 19 k).val].p2 p.val) = false) :
    testEvery k p type e = (false, e) := by
  have away : (!e.test.ctls[(finOf 19 k).val].on || !bitOf e.test.ctls[(finOf 19 k).val].p2 p.val) = true := by
    rw [← Bool.not_and, off]; rfl
  simp only [testEvery, away, Bool.true_or, if_true]

/-- On a port that hears, R41's checks alone decide. -/
theorem receivePacket_hears {s : State} {p : PortId} (h : hears s p) (type : Nat) (valid : Bool) (bs : List Byte) :
    receivePacket p type valid bs s.eng = (if !valid || leAt 0 1 bs != type then none else parsePacket bs).elim
      (none, discardPacket p s.eng) fun k => (some k, s.eng) := by
  obtain ⟨live, up, whole, noDrop, noCorrupt⟩ := h
  simp only [receivePacket, live, up, whole, testEvery_off (k := 12) _ noDrop, testEvery_off (k := 14) _ noCorrupt,
    beq_self_eq_true, bne, Bool.not_true, Bool.or_false, Bool.false_eq_true, if_false, whenE_false]
  cases if !valid || !(leAt 0 1 bs == type) then none else parsePacket bs <;> rfl

theorem receivePacket_taken {s : State} {p : PortId} {type : Nat} {bytes : List Byte} {k : Packet}
    (ok : packetOk s p type bytes k) : receivePacket p type true bytes s.eng = (some k, s.eng) := by
  obtain ⟨h, right, parsed⟩ := ok
  simp [receivePacket_hears h, right, parsed]

theorem receivePacket_discarded {s : State} {p : PortId} {type : Nat} {valid : Bool} {bytes : List Byte} (h : hears s p)
    (bad : valid = false ∨ leAt 0 1 bytes ≠ type ∨ parsePacket bytes = none) :
    receivePacket p type valid bytes s.eng = (none, discardPacket p s.eng) := by
  rw [receivePacket_hears h]
  rcases bad with invalid | other | unread
  · simp [invalid]
  · simp [other]
  · simp [unread]

/-! ## DATA and the handshakes -/

/-- A matched reply goes to its transaction, after its ATTN. -/
theorem handleReply_matched {p : PortId} {dev : DevNum} {ep : EpNum} {seq : Byte} {at_ : Bool} {out : TxEnd} {e : Engine}
    {t : Tx} (matched : (((whenE at_ (sawAttn dev)) e).port p).arb.matches dev ep seq = some t) :
    handleReply p dev ep seq at_ out e = reply_ p t out (whenE at_ (sawAttn dev) e) := by
  simp [handleReply, matched]

/-- An orphan is counted. -/
theorem handleReply_orphan {p : PortId} {dev : DevNum} {ep : EpNum} {seq : Byte} {at_ : Bool} {out : TxEnd} {e : Engine}
    (orphan : (((whenE at_ (sawAttn dev)) e).port p).arb.matches dev ep seq = none) :
    handleReply p dev ep seq at_ out e = countPort p 1 (whenE at_ (sawAttn dev) e) := by
  simp [handleReply, orphan]

/-- A command that hands the packets of its type to `handleReply` and does nothing for what R41 discards. -/
theorem replies_of {α : Type} {type : Nat} {form : DevNum → EpNum → Byte → Bool → α → Packet} {out : α → TxEnd}
    {cmd : PortId → Bool → List Byte → Instr} {step : PortId → Bool → List Byte → Engine → Engine}
    (does : ∀ s p valid bytes, exec (cmd p valid bytes) s = onEng s (treeWork (step p valid bytes)))
    (takes : ∀ p bytes e dev ep seq at_ x, receivePacket p type true bytes e = (some (form dev ep seq at_ x), e) →
      step p true bytes e = handleReply p dev ep seq at_ (out x) e)
    (discards : ∀ p valid bytes e e', receivePacket p type valid bytes e = (none, e') → step p valid bytes e = e') :
    replies type form out cmd := by
  refine ⟨fun s p bytes dev ep seq at_ x ok => ⟨fun t matched => ?_, fun orphan => ?_⟩, fun s p valid bytes h bad => ?_⟩
  · rw [does]
    exact onEng_treeWork ((takes _ _ _ _ _ _ _ _ (receivePacket_taken ok)).trans (handleReply_matched matched))
  · rw [does]
    exact onEng_treeWork ((takes _ _ _ _ _ _ _ _ (receivePacket_taken ok)).trans (handleReply_orphan orphan))
  · rw [does]
    exact onEng_treeWork (discards _ _ _ _ _ (receivePacket_discarded h bad))

theorem receiveData_holds : Claim.receiveData :=
  replies_of (fun _ _ _ _ => rfl) (fun _ _ _ _ _ _ _ _ took => by simp only [took])
    (fun _ _ _ _ _ lost => by simp only [lost])

theorem receiveAck_holds : Claim.receiveAck :=
  replies_of (fun _ _ _ _ => rfl) (fun _ _ _ _ _ _ _ _ took => by simp only [took])
    (fun _ _ _ _ _ lost => by simp only [lost])

theorem receiveNak_holds : Claim.receiveNak :=
  replies_of (fun _ _ _ _ => rfl) (fun _ _ _ _ _ _ _ _ took => by simp only [took])
    (fun _ _ _ _ _ lost => by simp only [lost])

theorem receiveStall_holds : Claim.receiveStall :=
  replies_of (fun _ _ _ _ => rfl) (fun _ _ _ _ _ _ _ _ took => by simp only [took])
    (fun _ _ _ _ _ lost => by simp only [lost])

/-! ## SHEAF, timeouts, re-offers -/

theorem receiveSheaf_holds : Claim.receiveSheaf := by
  intro s p bytes li hub ep serial at_ x ok
  have took := receivePacket_taken ok
  refine ⟨fun t matched => ?_, fun orphan => ?_⟩
  · show execReceiveSheaf p true bytes s = _
    exact onEng_treeWork (by simp only [took, matched])
  · show execReceiveSheaf p true bytes s = _
    exact onEng_treeWork (by simp only [took, orphan])

theorem transactionTimeout_holds : Claim.transactionTimeout := by
  intro s p tx t found other
  show execTransactionTimeout p tx s = _
  exact onEng_treeWork (by simp [show List.find? _ _ = _ from found, other])

theorem reapTimeout_holds : Claim.reapTimeout := by
  intro s p tx t found reap
  show execReapTimeout p tx s = _
  exact onEng_treeWork (by simp [show List.find? _ _ = _ from found, reap])

theorem nakReoffer_holds : Claim.nakReoffer := by
  refine ⟨fun s item i ok => ?_, fun s item none_ => ?_⟩
  · obtain ⟨found, active, waits⟩ := ok
    show execNakReoffer item s = _
    exact onEng_of (by simp [found, active, waits])
  · show execNakReoffer item s = _
    exact onEng_of (by simp [none_])

end Sys2Proof.Machine

namespace Sys2Proof

open Sys2Proof.Machine

/-- Settles O39: R41's checks first, then the match. -/
theorem repliesComplete : Obligations.RepliesComplete :=
  ⟨receiveData_holds, receiveAck_holds, receiveNak_holds, receiveStall_holds, receiveSheaf_holds, transactionTimeout_holds,
    reapTimeout_holds, nakReoffer_holds⟩

end Sys2Proof
end


section
/-! The reads of the work queues (R177 to R184, R191, R196, R212, R266): polls, fetches, the head mirror, contexts and OUT
data, by what came back. -/

namespace Sys2Proof.Machine

open Sys2Proof.Claim

/-! ## A read that comes back (R234, R351) -/

/-- A read that is outstanding and wanted is taken off the list. -/
theorem takeRead_reading {t : ReadTag} {e : Engine} (reading : e.reading t = true) : takeRead t e = some (landRead t e) := by
  simp [takeRead, reading]

/-- A function that is not held gets what the read brought. -/
theorem brought_free {α : Type} {e : Engine} {h : Fn} (free : e.held h = false) (d : Option α) : brought e h d = d := by
  simp [brought, free]

@[simp] theorem modSq_held (f : Fn) (n : Nat) (g : Sq → Sq) (e : Engine) (h : Fn) :
    (modSq f n g e).held h = e.held h := rfl

/-! ## Polls -/

theorem pollDue_holds : Claim.pollDue := by
  rintro s f sq q ⟨found, enabled, on, room⟩
  refine ⟨fun slot => ?_, fun c full cq => ?_⟩
  · show execPollDue f sq s = _
    exact onEng_of (by simp [found, enabled, on, Nat.not_le.mpr room, slot])
  · show execPollDue f sq s = _
    exact onEng_of (by simp [found, enabled, on, Nat.not_le.mpr room, full, cq])

theorem pollReadComplete_holds : Claim.pollReadComplete := by
  rintro s f sq q pos more ⟨reading, found, enabled, oldest, free⟩
  have took := takeRead_reading reading
  refine ⟨fun u phase next => ?next, fun u phase passed => ?passed, fun u phase => ?other, ?failed⟩
  case next =>
    show execPollReadComplete f sq (some u) s = _
    exact onEng_of (by simp [took, found, enabled, oldest, brought_free, free, phase, next])
  case passed =>
    show execPollReadComplete f sq (some u) s = _
    exact onEng_of (by simp [took, found, enabled, oldest, brought_free, free, phase, passed])
  case other =>
    show execPollReadComplete f sq (some u) s = _
    exact onEng_of (by simp [took, found, enabled, oldest, brought_free, free, phase])
  case failed =>
    show execPollReadComplete f sq none s = _
    exact onEng_of (by simp [took, found, enabled, oldest, brought_free, free])

/-! ## Fetches and the head mirror -/

theorem fetchReadComplete_holds : Claim.fetchReadComplete := by
  rintro s f sq q start len ⟨reading, found, noRefetch, fetching, free⟩
  have took := takeRead_reading reading
  refine ⟨?failed, fun us cq units seen room notAdmin walked => ?brings⟩
  case failed =>
    show execFetchReadComplete f sq none s = _
    exact onEng_of (by simp [took, found, noRefetch, fetching, brought_free, free])
  case brings =>
    show execFetchReadComplete f sq (some us) s = _
    exact onEng_of (by simp [took, found, noRefetch, fetching, brought_free, free, room, walked, notAdmin])

theorem headMirrorWrite_holds : Claim.headMirrorWrite := by
  rintro s f sq q ⟨found, due⟩
  show execHeadMirrorWrite f sq s = _
  exact onEng_of (by simp [found, due, writeMirror] <;> rfl)

/-! ## Contexts and OUT data -/

section Context

variable {s : State} {item : Nat} {i : Item} {x : Nat} {c : BitVec 256}

/-- An item whose context has been cached goes on where the context suits it and is its endpoint's, else it ends (R212). -/
theorem itemContext_of_cached {e : Engine} (has : cached s item i x c = some e) :
    itemContext i x c (landed s (.context item)) =
      if ctxSuits (brings s item i c) i.jr.opcode && ctxDev (brings s item i c) == i.jr.dev
          && ctxEp (brings s item i c) == i.jr.ep then
        turns i.jr.holding i.jr.dev i.jr.ep (armItem i.id (modItem i.id (fun j => { j with
          jr := { j.jr with seq := ctxE (brings s item i c) } }) (modItem i.id (fun j => { j with spared := false }) e)))
      else endItem i.id 0x33 (modItem i.id (fun j => { j with spared := false }) e) := by
  cases plot : (landed s (.context item)).plotOf i.jr.holding x with
  | none =>
    simp only [cached, plot, Option.some.injEq] at has
    subst has
    simp only [itemContext, plot]
  | some p =>
    simp only [cached, plot] at has
    simp only [itemContext, plot, has]

/-- While the cache has no line for the context it is read again (R28). -/
theorem itemContext_of_full (full : cached s item i x c = none) : itemContext i x c (landed s (.context item)) =
    hostRead i.jr.holding (((landed s (.context item)).hold i.jr.holding).ctxAddr x) 32 (.context i.id)
      (landed s (.context item)) := by
  cases plot : (landed s (.context item)).plotOf i.jr.holding x with
  | none => simp only [cached, plot, reduceCtorEq] at full
  | some p =>
    simp only [cached, plot] at full
    simp only [itemContext, plot, full]

/-- The context of an item that waits for it goes to `itemContext`. -/
theorem exec_contextReadComplete (ok : contextOk s item i x) : exec (.contextReadComplete item (some c)) s =
    .next { s with eng := noted s.eng (itemContext i x c (landed s (.context item))) } := by
  obtain ⟨reading, found, same, undecided, waits, free, index⟩ := ok
  have active : i.active = true := by simp [Item.active, undecided]
  show execContextReadComplete item (some c) s = _
  exact onEng_of (by simp [takeRead_reading reading, found, active, waits, brought_free, free, index])

end Context

theorem contextReadComplete_holds : Claim.contextReadComplete := by
  intro s item i x ok
  have ⟨_, _, same, _⟩ := ok
  refine ⟨fun c e has suits dev ep => ?goes, fun c e has unsuited => ?ends, fun c full => ?again, ?failed⟩
  case goes => simp [exec_contextReadComplete ok, itemContext_of_cached has, same, suits, dev, ep]
  case ends => simp [exec_contextReadComplete ok, itemContext_of_cached has, same, unsuited]
  case again => simp [exec_contextReadComplete ok, itemContext_of_full full, same]
  case failed =>
    obtain ⟨reading, found, -, undecided, waits, free, -⟩ := ok
    have active : i.active = true := by simp [Item.active, undecided]
    show execContextReadComplete item none s = _
    exact onEng_of (by simp [takeRead_reading reading, found, active, waits, brought_free, free])

theorem outDataReadComplete_holds : Claim.outDataReadComplete := by
  rintro s item i ⟨reading, found, undecided, waits, free⟩
  have took := takeRead_reading reading
  have active : i.active = true := by simp [Item.active, undecided]
  refine ⟨fun d runs => ?here, fun d away reached => ?relayed, fun d away down lost => ?unreached, ?failed⟩
  case here =>
    show execOutDataReadComplete item (some d) s = _
    exact onEng_of (by simp [took, found, active, waits, brought_free, free, runs])
  case relayed =>
    have reachable : ((landed s (.outData item)).yoke.link != .up && !(landed s (.outData item)).yoke.partnerLost) = false := by
      rcases reached with up | lost
      · simp [up]
      · simp [lost]
    show execOutDataReadComplete item (some d) s = _
    exact onEng_of (by simp only [took, found, active, waits, brought_free free, away, reachable] <;> rfl)
  case unreached =>
    show execOutDataReadComplete item (some d) s = _
    exact onEng_of (by simp [took, found, active, waits, brought_free, free, away, down, lost])
  case failed =>
    show execOutDataReadComplete item none s = _
    exact onEng_of (by simp [took, found, active, waits, brought_free, free])

end Sys2Proof.Machine

namespace Sys2Proof

open Sys2Proof.Machine

/-- Settles O34: each read by what it brought, and by what its queue or item then does. -/
theorem queueReadsComplete : Obligations.QueueReadsComplete :=
  ⟨pollDue_holds, pollReadComplete_holds, fetchReadComplete_holds, headMirrorWrite_holds, contextReadComplete_holds,
    outDataReadComplete_holds⟩

end Sys2Proof
end


section
/-! What the ring writers put into host memory, in order (R26, R149 to R151, R165, R349). -/

namespace Sys2Proof.Machine

open Sys2Proof.Claim

/-! ## The host stream -/

/-- The engine with requests appended to the host stream. -/
def hostAppend (l : List HostOut) (e : Engine) : Engine := { e with out := { e.out with host := e.out.host ++ l } }

theorem hostAppend_append (l m : List HostOut) (e : Engine) : hostAppend m (hostAppend l e) = hostAppend (l ++ m) e := by
  simp [hostAppend]

/-- A repeated request appends its requests in order. -/
theorem forAll_emitHost {α : Type} (o : α → HostOut) (l : List α) (e : Engine) :
    forAll l (fun x => emitHost (o x)) e = hostAppend (l.map o) e := by
  induction l generalizing e with
  | nil => simp [forAll, hostAppend]
  | cons x l ih =>
    have first : emitHost (o x) e = hostAppend [o x] e := rfl
    show forAll l (fun x => emitHost (o x)) (emitHost (o x) e) = _
    rw [ih, first, hostAppend_append]
    rfl

/-- A write of a function that is neither held nor fenced is its requests (R349). -/
theorem hostWrite_open {h : Fn} {s : State} {e : Engine} (free : e.held h = false) (unfenced : e.fw.fenced = false)
    (same : e.pcie = s.eng.pcie) (a : Qword) (d : List Byte) :
    hostWrite h a d false e = hostAppend (writes s h a d) e := by
  simp only [hostWrite, free, unfenced, Bool.false_eq_true, if_false, forAll_emitHost, writes, Engine.pfn, same]

/-- A header and what follows it: dword0 last (R26, R150). -/
theorem writeSheafAt_open {h : Fn} {s : State} (free : s.eng.held h = false) (unfenced : s.eng.fw.fenced = false)
    (a : Qword) (bs : List Byte) : writeSheafAt h a bs s.eng =
      hostAppend (writes s h (a + 4) (bs.drop 4) ++ writes s h a (bs.take 4)) s.eng := by
  have later : (hostAppend (writes s h (a + 4) (bs.drop 4)) s.eng).held h = false := free
  rw [writeSheafAt, hostWrite_open free unfenced rfl, hostWrite_open later unfenced rfl, hostAppend_append]

/-- Steps each of which only appends to the host stream. -/
theorem host_prefix_forAll {α : Type} {f : α → Engine → Engine} (l : List α) (e : Engine)
    (step : ∀ x e, e.out.host <+: (f x e).out.host) : e.out.host <+: (forAll l f e).out.host := by
  induction l generalizing e with
  | nil => exact List.prefix_rfl
  | cons x l ih => exact (step x e).trans (ih (f x e))

theorem host_prefix_sendRead (k : Nat) (e : Engine) : e.out.host <+: (sendRead k e).out.host := by
  unfold sendRead
  split
  · exact List.prefix_rfl
  · dsimp only
    split
    · exact List.prefix_rfl
    · split
      · exact List.prefix_rfl
      · rw [forAll_emitHost]
        exact List.prefix_append ..

/-- Handing reads over and issuing them only appends. -/
theorem host_prefix_pumpReads {e e' : Engine} (handed : e'.out = e.out) : e.out.host <+: (pumpReads e').out.host :=
  handed ▸ host_prefix_forAll _ e' host_prefix_sendRead

theorem host_prefix_readRelease (h : Fn) (r : RingRef) (a : Qword) (e : Engine) :
    e.out.host <+: (readRelease h r a e).out.host := by
  unfold readRelease
  split
  · exact List.prefix_rfl
  · unfold hostRead readParts
    exact host_prefix_pumpReads rfl

theorem host_prefix_msix (h : Fn) (v : Nat) (e : Engine) : e.out.host <+: (msix h v e).out.host := by
  unfold msix
  split
  · exact List.prefix_rfl
  · split
    · exact List.prefix_rfl
    · exact List.prefix_append ..

theorem toPartner_host (o : YokeOut) (e : Engine) : (toPartner o e).out.host = e.out.host :=
  whenE_keeps (·.out.host) _ _ e fun _ => rfl

/-! ## What follows the write of a ring's entry -/

/-- The position's record for the partner, the message that is due, the ring's source, and the release word where the ring
is low (R151, R165, R260, R303). -/
def announce (h : Fn) (record : JournalRecord) (source : Nat) (send : Bool) (vector : Nat) (low : Prop) [Decidable low]
    (ref : RingRef) (release : Qword) (e : Engine) : Engine :=
  let e := pulse source (whenE send (msix h vector) (journal record e))
  if low then readRelease h ref release e else e

section Announce

variable (h : Fn) (record : JournalRecord) (source : Nat) (send : Bool) (vector : Nat) (low : Prop) [Decidable low]
  (ref : RingRef) (release : Qword) (e : Engine)

theorem announce_host : e.out.host <+: (announce h record source send vector low ref release e).out.host := by
  have told : (journal record e).out.host = e.out.host := toPartner_host ..
  have sent : e.out.host <+: (pulse source (whenE send (msix h vector) (journal record e))).out.host := by
    rw [pulse_out, ← told]
    cases send
    · exact List.prefix_rfl
    · exact host_prefix_msix ..
  unfold announce
  dsimp only
  split
  · exact sent.trans (host_prefix_readRelease ..)
  · exact sent

theorem announce_holdings : (announce h record source send vector low ref release e).holdings = e.holdings := by
  have message : ∀ e, (msix h vector e).holdings = e.holdings := by
    intro e
    unfold msix
    split
    · rfl
    · split <;> rfl
  have told : (journal record e).holdings = e.holdings := whenE_keeps (·.holdings) _ _ e fun _ => rfl
  have sent : (pulse source (whenE send (msix h vector) (journal record e))).holdings = e.holdings := by
    rw [pulse_holdings, whenE_keeps (·.holdings) _ _ _ message, told]
  unfold announce
  dsimp only
  split
  · unfold readRelease
    split
    · exact sent
    · exact (pumpReads_keeps (·.holdings) (fun _ _ => rfl) (fun _ _ => rfl) _).trans sent
  · exact sent

end Announce

/-! ## Sheaves and alarms (R149, R150, R165) -/

/-- The ring once the sheaf at its front has been written up to a position. -/
def SheafRing.wrote (r : SheafRing) (x : SheafOut) (jw : Settle) (next : RingPos) : SheafRing :=
  { r with
    queue := r.queue.drop 1, write := next, sequence := r.sequence + 1, lost := 0, reread := none
    sinceMsg := if r.sinceMsg + 1 == r.par.threshold then 0 else r.sinceMsg + 1
    settled := if jw == .settled then next else r.settled
    unsettled := if jw == .settled then r.unsettled else r.unsettled ++ [(x.dev, x.frame, x.row, false)] }

/-- A sheaf that needs no PAD is written at the write position. -/
theorem putSheafOut_unpadded {h : Fn} {n : Nat} {r : SheafRing} {x : SheafOut} {e : Engine}
    (unpadded : (sheafPlace r (sheafLen x)).1 = 0) :
    let r' := r.wrote x e.justWritten (ringAdv r.write (sheafLen x + (sheafPlace r (sheafLen x)).2) r.par.size)
    putSheafOut h n r x e = announce h
      (.position { kind := .sheafRing, holding := h, num := n, issued := r'.write, settled := r'.settled
                   sequence := r'.sequence }) (160 + h.val) (r.sinceMsg + 1 == r.par.threshold) r.par.vector
      (2 * ringFree r.par.size r'.write r'.release < r.par.size) (.sheaf n) r.par.release
      (modRing h n (fun _ => r') (writeSheafAt h (r.par.base + BitVec.ofNat 64 r.write.at_)
        (x.header r.write.phase false r.sequence (sheafLen x) r.lost ++ x.records) e)) := by
  unfold putSheafOut
  simp only [unpadded, if_true]
  rfl

/-- The alarm ring once the entry at its front has been written. -/
def AlarmRing.wroteEntry (r : AlarmRing) (x : AlarmOut) (jw : Settle) : AlarmRing :=
  { r with
    queue := r.queue.drop 1, write := ringAdv r.write 1 r.par.size, lost := false, wrote := !x.last, reread := none
    settled := if jw == .settled then ringAdv r.write 1 r.par.size else r.settled }

theorem putAlarmOut_eq (h : Fn) (a : Bool) (r : AlarmRing) (x : AlarmOut) (e : Engine) :
    let r' := r.wroteEntry x e.justWritten
    putAlarmOut h a r x e = announce h
      (.position { kind := .alarmRing, holding := h, num := 0, issued := r'.write, settled := r'.settled, sequence := 0 })
      (96 + h.val) x.last r.par.vector (2 * ringFree r.par.size r'.write r.release < r.par.size) (.alarm a) r.par.release
      (modAlarm h a (fun _ => r') (writeSheafAt h (r.par.base + BitVec.ofNat 64 (16 * r.write.at_))
        (x.bytes r.write.phase r.lost) e)) := rfl

end Sys2Proof.Machine
end


section
/-! The sheaf and alarm writers, ALARM-SHEAFs, mutes and ALM_IN (R57, R151, R158, R159, R163, R165, R367). -/

namespace Sys2Proof.Machine

open Sys2Proof.Claim

/-! ## SHEAF WRITE (R151, R367) -/

section SheafWrite

variable {s : State} {f : Fn} {n : Nat} {r : SheafRing} {x : SheafOut}

/-- What the writer does with the sheaf at the front: in the hold after PE_PERST_N it is dropped; else it is written where it
fits, or waits for the release word to be read once more, and is then dropped. -/
def serveSheaf (f : Fn) (n : Nat) (r : SheafRing) (x : SheafOut) (e : Engine) : Engine :=
  if (e.fn f).perstHold then dropHeld f n x e
  else if sheafTakes r x ≤ ringFree r.par.size r.write r.release then putSheafOut f n r x e
  else if r.reread == some true then dropSheaf f n r e
  else rereadFor f (.sheaf n) r.par.release (modRing f n fun r => { r with reread := some false }) e

theorem exec_sheafWrite (ok : sheafOk s f n r x) :
    exec (.sheafWrite f n) s = .next { s with eng := noted s.eng (serveSheaf f n r x s.eng) } := by
  obtain ⟨found, front, known, unfenced⟩ := ok
  obtain ⟨rest, queue⟩ := List.head?_eq_some_iff.mp front
  show execSheafWrite f n s = _
  exact onEng_of (by simp only [found, queue, known, unfenced, Bool.or_false, Bool.false_eq_true, if_false] <;> rfl)

/-- What a sheaf that fits without a PAD leaves in its ring and in the host stream (R149, R150). -/
theorem putSheafOut_leaves (found : mget (s.eng.hold f).rings n = some r)
    (unpadded : (sheafPlace r (sheafLen x)).1 = 0) (free : s.eng.held f = false) (unfenced : s.eng.fw.fenced = false) :
    mget ((putSheafOut f n r x s.eng).hold f).rings n = some (r.wrote x s.eng.justWritten
        (ringAdv r.write (sheafLen x + (sheafPlace r (sheafLen x)).2) r.par.size))
      ∧ (s.eng.out.host ++
          (writes s f (r.par.base + BitVec.ofNat 64 r.write.at_ + 4)
            ((x.header r.write.phase false r.sequence (sheafLen x) r.lost ++ x.records).drop 4) ++
          writes s f (r.par.base + BitVec.ofNat 64 r.write.at_)
            ((x.header r.write.phase false r.sequence (sheafLen x) r.lost ++ x.records).take 4)))
          <+: (putSheafOut f n r x s.eng).out.host := by
  rw [putSheafOut_unpadded unpadded, writeSheafAt_open free unfenced]
  refine ⟨?ring, ?host⟩
  case ring =>
    rw [Engine.hold, announce_holdings, modRing, modHold_same, mget_mmod_same]
    exact congrArg (Option.map _) found
  case host => exact announce_host (e := modRing f n _ (hostAppend _ s.eng)) ..

end SheafWrite

theorem sheafWrite_holds : Claim.sheafWrite := by
  intro s f n r x ok
  have ⟨found, _, _, unfenced⟩ := ok
  rw [exec_sheafWrite ok, serveSheaf]
  refine ⟨fun live fits unpadded free => ?written, fun live fits => ?put, fun live full fresh unasked => ?reads,
    fun live full fresh asked => ?waits, fun live full fresh logged => ?drops, fun live full fresh unlogged => ?logs,
    fun hold => ?held⟩
  case written =>
    obtain ⟨ring, host⟩ := putSheafOut_leaves found unpadded free unfenced
    refine ⟨_, _, by rw [live, if_neg Bool.false_ne_true, if_pos fits], ring, rfl, rfl, rfl, rfl, rfl, ?_⟩
    rw [List.append_assoc]
    exact host
  case put => rw [live, if_neg Bool.false_ne_true, if_pos fits]
  case reads => simp [live, Nat.not_le.mpr full, fresh, rereadFor, unasked]
  case waits => simp [live, Nat.not_le.mpr full, fresh, rereadFor, asked]
  case drops => simp [live, Nat.not_le.mpr full, fresh, dropSheaf, logged]
  case logs => simp [live, Nat.not_le.mpr full, fresh, dropSheaf, unlogged, attn]
  case held => rw [hold, if_pos rfl]; rfl

/-! ## ALARM ENTRY WRITE (R165, R367) -/

/-- What the writer does with the alarm at the front: dropped in the hold after PE_PERST_N, written into a free entry, else
dropped once the release word has been read again. -/
def serveAlarm (f : Fn) (a : Bool) (r : AlarmRing) (x : AlarmOut) (e : Engine) : Engine :=
  if (e.fn f).perstHold then
    countH f 8 (modAlarm f a (fun r => { r with
      queue := r.queue.drop 1, lost := true, wrote := r.wrote && !x.last, reread := none }) e)
  else if 1 ≤ ringFree r.par.size r.write r.release then putAlarmOut f a r x e
  else if r.reread == some true then dropAlarm f a r x e
  else rereadFor f (.alarm a) r.par.release (modAlarm f a fun r => { r with reread := some false }) e

theorem exec_alarmEntryWrite {s : State} {f : Fn} {a : Bool} {r : AlarmRing} {x : AlarmOut} (ok : alarmOk s f a r x) :
    exec (.alarmEntryWrite f a) s = .next { s with eng := noted s.eng (serveAlarm f a r x s.eng) } := by
  obtain ⟨found, front, known, unfenced⟩ := ok
  obtain ⟨rest, queue⟩ := List.head?_eq_some_iff.mp front
  show execAlarmEntryWrite f a s = _
  exact onEng_of (by simp only [found, queue, known, unfenced, Bool.or_false, Bool.false_eq_true, if_false] <;> rfl)

theorem alarmEntryWrite_holds : Claim.alarmEntryWrite := by
  intro s f a r x ok
  have ⟨_, _, _, unfenced⟩ := ok
  rw [exec_alarmEntryWrite ok, serveAlarm]
  refine ⟨fun live room free => ?written, fun live full fresh => ?reads, fun live full fresh => ?drops, fun hold => ?held⟩
  case written =>
    refine ⟨_, by rw [live, if_neg Bool.false_ne_true, if_pos room], rfl, ?_⟩
    rw [putAlarmOut_eq, writeSheafAt_open free unfenced, List.append_assoc]
    exact announce_host (e := modAlarm f a _ (hostAppend _ s.eng)) ..
  case reads => simp [live, full, fresh]
  case drops => simp [live, full, fresh]
  case held => rw [hold, if_pos rfl]

/-! ## ALARM-SHEAFs, mutes, ALM_IN -/

theorem receiveAlarmSheaf_holds : Claim.receiveAlarmSheaf := by
  intro s p bytes c at_ dev seq x ok
  have took := receivePacket_taken ok
  refine ⟨fun sent first answers => ?_, fun stale => ?_⟩
  · show execReceiveAlarmSheaf p true bytes s = _
    exact onEng_treeWork (by simp [took, sent, first, answers])
  · show execReceiveAlarmSheaf p true bytes s = _
    refine onEng_treeWork ?_
    rcases stale with unsent | accepted | other
    · simp [took, unsent]
    · simp [took, accepted]
    · simp [took, other]

theorem alarmMute_holds : Claim.alarmMute := by
  intro s dev t found live run
  show execAlarmMute dev s = _
  exact onEng_of (by simp [show List.find? _ _ = _ from found, live, Nat.not_lt.mpr run])

theorem alarmUnmute_holds : Claim.alarmUnmute := by
  intro s dev t found muted quiet
  show execAlarmUnmute dev s = _
  exact onEng_of (by simp [show List.find? _ _ = _ from found, muted, Nat.not_lt.mpr quiet])

theorem almInChange_holds : Claim.almInChange := by
  rintro s n level ⟨changed, out, unfenced, unheld⟩
  have other := beq_eq_false_iff_ne.mpr changed
  refine ⟨fun awake => ?_, fun dormant => ?_⟩
  · have awake := beq_eq_false_iff_ne.mpr awake
    show execAlmInChange n level s = _
    exact onEng_of (by
      simp only [almLevel, other, out, unfenced, unheld, awake, Bool.or_self, Bool.false_eq_true, if_false])
  · show execAlmInChange n level s = _
    exact onEng_of (by
      simp only [other, out, unfenced, unheld, dormant, Bool.or_self, Bool.false_eq_true, beq_self_eq_true,
        if_false, if_true])

end Sys2Proof.Machine

namespace Sys2Proof

open Sys2Proof.Machine

/-- Settles O40: each writer by whether its ring has room, and what goes to the host stream in order. -/
theorem ringsAndAlarmsComplete : Obligations.RingsAndAlarmsComplete :=
  ⟨sheafWrite_holds, alarmEntryWrite_holds, receiveAlarmSheaf_holds, alarmMute_holds, alarmUnmute_holds, almInChange_holds⟩

end Sys2Proof
end


section
/-! Admin commands with the tree's upkeep after them (R201, R214, R218): what their effect on the taken command leaves. -/

namespace Sys2Proof.Machine

open Sys2Proof.Claim Sys2Proof.Safety

/-- The state with a step of an admin command concluded, after firmware's upkeep of the tree. -/
def concludedUp (s : State) (src : AdminSrc) (c : BitVec 512) (step : AdminStep) : State :=
  { s with eng := noted s.eng (treeWork (fun _ => concludeAdmin src c step) s.eng) }

@[simp] theorem concludedUp_ok (s : State) (src : AdminSrc) (c : BitVec 512) (e : Engine) (dword2 : Dword)
    (data : List Byte) : concludedUp s src c (.ok e dword2 data) = answeredUp s src c 0x80 dword2 data e := rfl

@[simp] theorem concludedUp_wait (s : State) (src : AdminSrc) (c : BitVec 512) (e : Engine) (w : Defer) :
    concludedUp s src c (.wait e w) = waitingUp s src c w e := rfl

/-- A tree command that firmware takes and whose own checks pass has its effect, and the tree's upkeep follows. -/
theorem taken_concludesUp {r : AdminRow} {s : State} {src : AdminSrc} {c : BitVec 512} {op : Nat} {target : Bool}
    {fields : Fields} {checks : Fn → BitVec 512 → Engine → List Check} {effect : Fn → BitVec 512 → Engine → AdminStep}
    (taken : Taken s src c op target fields) (idle : Idle s src) (pfOnly : r.pfOnly = true → FromPf src)
    (opcode : r.op = op) (names : r.target = target) (used : r.used c = fields) (reads : r.reads = fun _ _ e => e)
    (own : ∀ k ∈ checks src.fn c (after s src), k.bad = false) :
    onEng s (treeWork (runAdmin r src checks effect)) = .next (concludedUp s src c (effect src.fn c (after s src))) :=
  onEng_treeWork (taken_runs taken opcode pfOnly names used (fun _ => idle) reads own)

@[simp] theorem after_ids (s : State) (src : AdminSrc) : (after s src).ids = s.eng.ids :=
  takeCommand_keeps _ src (fun _ _ => rfl) (fun _ _ => rfl) (fun _ _ => rfl) (fun _ _ => rfl) (fun _ _ => rfl) s.eng

/-! ## ENUMERATE (R82, R214, R409) -/

theorem enumerate_holds : Claim.enumerate := by
  refine ⟨fun s src c ok => ?list, fun s src c ok => ?mode, fun s src c ok => ?port⟩
  case list =>
    obtain ⟨taken, idle, form⟩ := ok
    refine ⟨_, rfl, ?_⟩
    show execEnumerate src s = _
    refine (taken_concludesUp taken idle (by nofun) rfl rfl (by simp only [form]) rfl (by simp [form])).trans ?_
    simp only [form, concludedUp_ok] <;> rfl
  case mode =>
    obtain ⟨taken, idle, fromPf, form⟩ := ok
    show execEnumerate src s = _
    refine (taken_concludesUp taken idle (by nofun) rfl rfl (by simp only [form]) rfl (by simp [form, fromPf])).trans ?_
    simp only [form, concludedUp_ok]
  case port =>
    obtain ⟨taken, idle, fromPf, form, known, rootPort, numbered, free, unbegun⟩ := ok
    show execEnumerate src s = _
    refine (taken_concludesUp taken idle (by nofun) rfl rfl (by simp only [form]) rfl ?_).trans ?_
    · by_cases named : cf c 44 0 20 = 0
      · simpa [form, fromPf, known, unbegun, named] using rootPort
      · obtain ⟨unbound, unassigned⟩ := free named
        cases holder : mget (after s src).commons.devs (cf c 44 0 20) with
        | none => simpa [form, fromPf, known, numbered, unassigned, unbegun, holder] using rootPort
        | some v => simpa [form, fromPf, known, numbered, unassigned, unbegun, holder, unbound v holder] using rootPort
    · simp only [form, concludedUp_wait, after_ids]

/-! ## ASSIGN DEVICE (R235, R236) -/

/-- What an ownership change of some devices leaves outstanding (R236): the items of theirs that are active before and
after it, and the REAPs and SOLO transactions that had started. -/
def assignLeft (ds : List DevNum) (e e' : Engine) : List Nat × List Nat :=
  let hit (o : Fn) (d : DevNum) : Bool :=
    ds.contains d && (match e.dev? d with | some v => v.owner == o | none => false)
  let olds := ds.filterMap fun d => (e.dev? d).map (·.owner)
  (((e.items.filter fun i => i.active && hit i.jr.holding i.jr.dev).map (·.id)).filter fun id =>
      match e'.item? id with | some i => i.active | none => false,
    (e.staged.filter fun d =>
      d.phase == .started && olds.contains d.holding && (dKind d.raw == 1 || hit d.holding (dDev d.raw))).map (·.id))

/-- No device changes owner, and nothing is outstanding. -/
theorem assignLeft_nil (e e' : Engine) : assignLeft [] e e' = ([], []) := by
  simp [assignLeft]

/-- How the command goes on with what is left outstanding. -/
def assignStep (dev : Option DevNum) (left : List Nat × List Nat) (e : Engine) : AdminStep :=
  if left.1.isEmpty && left.2.isEmpty then .ok e ((dev.getD 0).setWidth 32) [] else .wait e (.assign dev left.1 left.2)

theorem exec_assignDevice {s : State} {src : AdminSrc} {c : BitVec 512} {p : PortId} (ok : assignOk s src c p) :
    exec (.assignDevice src) s = .next (concludedUp s src c (assignStep
      (((reassigned s src c).deviceAt (cPosition c 32 36)).map fun x => BitVec.ofNat 20 x.1)
      (assignLeft ((after s src).changing (cPosition c 32 36) (finOf 64 (cf c 37 0 8))) (after s src) (reassigned s src c))
      (reassigned s src c))) := by
  obtain ⟨taken, idle, fromPf, known, rootPort, range, created, under, mine, thawed⟩ := ok
  show execAssignDevice src s = _
  refine taken_concludesUp taken idle (fun _ => fromPf) rfl rfl rfl rfl ?_
  simp only [List.forall_mem_cons]
  refine ⟨by simpa [known] using rootPort, by simp [range, created], ?_, nofun⟩
  simp only [under, mine]
  exact thawed

theorem assignDevice_holds : Claim.assignDevice := by
  intro s src c p ok
  rw [exec_assignDevice ok]
  refine ⟨?either, fun unchanged => ?atOnce⟩
  case either =>
    rw [assignStep]
    split
    · exact .inl rfl
    · exact .inr ⟨_, rfl⟩
  case atOnce => rw [unchanged, assignLeft_nil]; rfl

/-! ## PORT CONTROL (R72, R74, R78, R214) -/

/-- What PORT CONTROL does on a root port: an answer with the record after the action, or a wait for the order's end. -/
def rootControlStep (p : PortId) (c : BitVec 512) (e : Engine) : AdminStep :=
  let a := cf c 38 0 8
  let done (e : Engine) : AdminStep := .ok e 0 (recordData (e.rootRecord p))
  if a = 0 then done e
  else if a = 8 then done (modPort p (fun t => { t with tbase := cf c 40 0 8, ttier := cf c 41 0 8 }) e)
  else if a = 9 then done (modPort p (fun t => { t with stagger := cf c 42 0 8 }) e)
  else
    match orderRoot p a (cf c 39 0 8) e with
    | none => .fail e 0x87 0
    | some e' =>
      let e' := whenE (a == 3) (attnPorts (1#32 <<< p.val) 1 0) e'
      if a = 3 then .wait e' (.portOrder (.root p) true)
      else if a = 6 && (e.port p).rh.state != .enabled then .wait e' (.portOrder (.root p) false)
      else done e'

/-- What PORT CONTROL does on a hub's port: the read or the order goes to the hub, and the command waits for its end. -/
def hubControlStep (hub : DevNum) (port : Nat) (src : AdminSrc) (c : BitVec 512) (e : Engine) : AdminStep :=
  let a := cf c 38 0 8
  let pos : Position := .hubPort hub port
  if a = 0 then
    .wait (addXferTo hub (setupPacket 0x0101 port 2 true 0 16) [] (.portRead hub port src) e) (.portRecord pos)
  else if a = 1 then
    match e.rootOf hub with
    | none => .fail e 0x87 0
    | some p => .wait (modPort p (fun t => { t with powerOrders := t.powerOrders ++ [(hub, port, some src)] }) e)
        (.portRecord pos)
  else
    .wait (orderHubPort hub port a (cf c 39 0 8) (.portOrder hub port a (some src)) e)
      (if a = 3 then .portOrder pos true else if a = 6 then .portOrder pos false else .portRecord pos)

theorem exec_portControl_root {s : State} {src : AdminSrc} {c : BitVec 512} {p : PortId} (ok : rootControlOk s src c p) :
    exec (.portControl src) s = .next (concludedUp s src c (rootControlStep p c (after s src))) := by
  obtain ⟨taken, idle, fromPf, root, zero, rfl, action, times, stagger⟩ := ok
  have position : cPosition c 32 36 = .root (finOf 32 (cf c 32 20 5)) := if_pos root
  show execPortControl src s = _
  refine (taken_concludesUp taken idle (fun _ => fromPf) rfl rfl rfl rfl ?_).trans ?_
  · simp [position, Engine.positionOk, root, zero, action]
    omega
  · simp only [position]
    rfl

theorem exec_portControl_hub {s : State} {src : AdminSrc} {c : BitVec 512} (ok : hubControlOk s src c) :
    exec (.portControl src) s =
      .next (concludedUp s src c (hubControlStep (fld c 256 20) (cf c 36 0 8) src c (after s src))) := by
  obtain ⟨taken, idle, fromPf, below, known, action⟩ := ok
  have position : cPosition c 32 36 = .hubPort (fld c 256 20) (cf c 36 0 8) := if_neg below
  show execPortControl src s = _
  refine (taken_concludesUp taken idle (fun _ => fromPf) rfl rfl rfl rfl ?_).trans ?_
  · simp [known, below]
    omega
  · simp only [position]
    rfl

theorem portControl_holds : Claim.portControl := by
  refine ⟨fun s src c p ok => ?root, fun s src c ok => ?hub⟩
  case root =>
    rw [exec_portControl_root ok]
    refine ⟨fun reads => ?_, fun times => ⟨_, ?_, rfl⟩, fun stagger => ⟨_, ?_, rfl⟩⟩
    · simp [rootControlStep, reads]
    · simp [rootControlStep, times]
    · simp [rootControlStep, stagger]
  case hub =>
    rw [exec_portControl_hub ok]
    refine ⟨fun reads => ?_, fun p powers tree => ?_⟩
    · simp [hubControlStep, reads]
    · simp [hubControlStep, powers, tree]

theorem rootOrders_holds : Claim.rootOrders := by
  rintro s src c p e ⟨ok, first, last, ordered⟩
  have record : cf c 38 0 8 ≠ 0 := by omega
  have times : cf c 38 0 8 ≠ 8 := by omega
  have stagger : cf c 38 0 8 ≠ 9 := by omega
  rw [exec_portControl_root ok]
  simp only [rootControlStep, record, times, stagger, if_false, ordered]
  refine ⟨fun reset => ?_, fun resume asleep => ?_, fun noReset noResume => ?_⟩
  · simp [reset]
  · simp [resume, asleep]
  · simp [beq_eq_false_iff_ne.mpr noReset, noReset, noResume]

/-! ## DEVICE RESET (R72, R95) -/

/-- What DEVICE RESET does to a device: the port above it is reset, and the command waits for the device. -/
def deviceResetStep (src : AdminSrc) (d : DevNum) (v : Dev) (e : Engine) : AdminStep :=
  match v.pos with
  | .root p =>
    match orderRoot p 3 0 e with
    | none => .fail e 0x87 0
    | some e => .wait e (.devReset d v.pos)
  | .hubPort hub port => .wait (orderHubPort hub port 3 0 (.portOrder hub port 3 (some src)) e) (.devReset d v.pos)

theorem exec_deviceReset {s : State} {src : AdminSrc} {c : BitVec 512} {v : Dev} (ok : deviceResetOk s src c v) :
    exec (.deviceReset src) s = .next (concludedUp s src c (deviceResetStep src (cDev c) v (after s src))) := by
  obtain ⟨taken, idle, bound, ep, mine, thawed⟩ := ok
  show execDeviceReset src s = _
  refine (taken_concludesUp taken idle (by nofun) rfl rfl rfl rfl ?_).trans ?_
  · simpa [bound, ep, thawed] using mine
  · simp only [bound]
    rfl

theorem deviceReset_holds : Claim.deviceReset := by
  intro s src c v ok
  rw [exec_deviceReset ok]
  refine ⟨fun p e pos ordered => ?root, fun hub port pos => ?hub⟩
  case root => simp [deviceResetStep, pos, ordered]
  case hub => simp [deviceResetStep, pos]

end Sys2Proof.Machine

namespace Sys2Proof

open Sys2Proof.Machine

/-- Settles O27: each command passes its checks, and its effect is split by its form, its action or what it leaves
outstanding. -/
theorem treeCommandsComplete : Obligations.TreeCommandsComplete :=
  ⟨enumerate_holds, assignDevice_holds, portControl_holds, rootOrders_holds, deviceReset_holds⟩

end Sys2Proof
end


section
/-! The tree's upkeep (R77, R78, R82, R145): each transfer that has ended by its purpose and status. -/

namespace Sys2Proof.Machine

open Sys2Proof.Claim

theorem replantTransferComplete_holds : Claim.replantTransferComplete := by
  rintro s id x hub li st fl ⟨found, purpose, result⟩
  show execReplantTransferComplete id s = _
  exact onEng_of (by simp [found, purpose, result])

/-- What the end of a read or clear of a hub's changes does, by whether it brought all that it asked for (R77, R93). -/
def changeEnded (id : Nat) (x : Xfer) (whole : Bool) (e : Engine) : Engine :=
  match x.purpose with
  | .portState hub port fresh => if whole then portStateRead x hub port fresh e else wakePort hub port false (dropXfer id e)
  | .hubStatus hub => if whole then hubStatusRead x hub e else wakePorts hub [] (dropXfer id e)
  | .clearChange hub port bits => if whole then changeCleared x hub port bits e else dropXfer id e
  | _ => e

theorem exec_portChangeReadComplete {s : State} {id : Nat} {x : Xfer} {st fl : Byte} {whole : Bool}
    (ok : changeOk s id x st fl) (brought : whole = true ↔ wholeXfer x st) :
    exec (.portChangeReadComplete id) s = onEng s (treeWork (changeEnded id x whole)) := by
  obtain ⟨runs, found, result⟩ := ok
  have test : whole = ((st == 0 || st == 1) && decide (setupLen x.setup ≤ x.got.length || !setupIn x.setup)) := by
    rw [Bool.eq_iff_iff, brought]; simp
  show execPortChangeReadComplete id s = _
  refine onEng_treeWork ?_
  simp only [runs, found, result, ← test, Bool.not_true, Bool.false_eq_true, if_false]
  rfl

theorem portChangeReadComplete_holds : Claim.portChangeReadComplete := by
  intro s id x st fl ok
  have good (whole : wholeXfer x st) := exec_portChangeReadComplete ok (iff_of_true rfl whole)
  have bad (short : ¬ wholeXfer x st) := exec_portChangeReadComplete ok (iff_of_false Bool.false_ne_true short)
  refine ⟨fun hub port fresh purpose whole => ?stateRead, fun hub purpose whole => ?statusRead,
    fun hub port bits purpose whole => ?cleared, fun hub port fresh purpose short => ?stateFailed,
    fun hub purpose short => ?statusFailed, fun hub port bits purpose short => ?clearFailed⟩
  case stateRead => rw [good whole]; exact onEng_treeWork (by simp [changeEnded, purpose])
  case statusRead => rw [good whole]; exact onEng_treeWork (by simp [changeEnded, purpose])
  case cleared => rw [good whole]; exact onEng_treeWork (by simp [changeEnded, purpose])
  case stateFailed => rw [bad short]; exact onEng_treeWork (by simp [changeEnded, purpose])
  case statusFailed => rw [bad short]; exact onEng_treeWork (by simp [changeEnded, purpose])
  case clearFailed => rw [bad short]; exact onEng_treeWork (by simp [changeEnded, purpose])

theorem enumerationTransferComplete_holds : Claim.enumerationTransferComplete := by
  intro s id n found runs
  show execEnumerationTransferComplete id s = _
  exact onEng_treeWork (by simp [found, runs])

theorem powerOnOrderRelease_holds : Claim.powerOnOrderRelease := by
  rintro s p hub port src rest ⟨orders, live, steady, room, bound⟩
  obtain ⟨v, dev⟩ := Option.isSome_iff_exists.mp bound
  have still : (modPort p (fun t => { t with powerOrders := rest }) s.eng).dev? hub = some v := dev
  show execPowerOnOrderRelease p s = _
  exact onEng_of (by simp [orders, live, steady, Nat.not_le.mpr room, still])

end Sys2Proof.Machine

namespace Sys2Proof

open Sys2Proof.Machine

/-- Settles O41: each transfer by its purpose and by whether it brought all that it asked for. -/
theorem treeTransfersComplete : Obligations.TreeTransfersComplete :=
  ⟨replantTransferComplete_holds, portChangeReadComplete_holds, enumerationTransferComplete_holds,
    powerOnOrderRelease_holds⟩

end Sys2Proof
end


section
/-! What requests toward the host, messages to the partner and cleared lists leave alone (R234, R265, R349). -/

namespace Sys2Proof.Machine

/-- What handing a read to the memory port keeps: everything but the reads and the host stream. -/
theorem hostRead_keeps {γ : Sort _} (p : Engine → γ) (hr : ∀ e l, p { e with reads := l } = p e)
    (ho : ∀ o e, p (emitHost o e) = p e) (h : Fn) (a : Qword) (n : Nat) (t : ReadTag) (e : Engine) :
    p (hostRead h a n t e) = p e := by
  unfold hostRead readParts
  rw [pumpReads_keeps p hr ho, hr]

@[simp] theorem readNow_reset (h : Fn) (a : Qword) (n : Nat) (t : ReadTag) (e : Engine) (g : Fn) :
    ((readNow h a n t e).fn g).reset = (e.fn g).reset :=
  readNow_keeps (fun e => (e.fn g).reset) (fun _ _ => rfl) h a n t e

@[simp] theorem toPartner_holdings (o : YokeOut) (e : Engine) : (toPartner o e).holdings = e.holdings :=
  whenE_keeps (·.holdings) _ _ e fun _ => rfl

@[simp] theorem shadow_holdings (r : ShadowRecord) (e : Engine) : (shadow r e).holdings = e.holdings :=
  toPartner_holdings _ e

@[simp] theorem hostWrite_holdings (h : Fn) (a : Qword) (d : List Byte) (r : Bool) (e : Engine) :
    (hostWrite h a d r e).holdings = e.holdings := by
  unfold hostWrite
  split
  · rfl
  · split
    · rfl
    · exact forAll_keeps (·.holdings) _ _ e fun _ _ => rfl

@[simp] theorem clearXfer_holdings (hub : DevNum) (v : Nat) (e : Engine) : (clearXfer hub v e).holdings = e.holdings := by
  unfold clearXfer addXferTo
  split <;> rfl

@[simp] theorem clearLists_holdings (q : PlantedList → Bool) (g : BitVec 48) (e : Engine) :
    (clearLists q g e).holdings = e.holdings := by
  unfold clearLists
  exact forAll_keeps (·.holdings) _ _ _ fun l e => by rw [shadow_holdings, clearXfer_holdings]

end Sys2Proof.Machine
end


section
/-! Admission of a row (R117 to R119): the order of the candidates, and what a port's region takes of them. -/

namespace Sys2Proof

/-! ## Sorting by a key -/

section Sorting

variable {α : Type} {key : α → Nat}

theorem insertBy_perm (x : α) (l : List α) : (insertBy key x l).Perm (x :: l) := by
  induction l with
  | nil => rfl
  | cons y ys ih =>
    rw [insertBy]
    split
    · rfl
    · exact (ih.cons y).trans (.swap x y ys)

theorem insertBy_pairwise (x : α) {l : List α} (sorted : l.Pairwise fun a b => key a ≤ key b) :
    (insertBy key x l).Pairwise fun a b => key a ≤ key b := by
  induction l with
  | nil => exact List.pairwise_singleton ..
  | cons y ys ih =>
    obtain ⟨head, tail⟩ := List.pairwise_cons.mp sorted
    rw [insertBy]
    split
    case isTrue less =>
      refine sorted.cons fun b mem => ?_
      rcases List.mem_cons.mp mem with rfl | mem
      · exact less.le
      · exact less.le.trans (head b mem)
    case isFalse notLess =>
      refine (ih tail).cons fun b mem => ?_
      rcases List.mem_cons.mp ((insertBy_perm x ys).mem_iff.mp mem) with rfl | mem
      · exact Nat.not_lt.mp notLess
      · exact head b mem

/-- An element goes behind those of an ordered list that it is alike to. -/
theorem filter_insertBy {p : α → Bool} (alike : ∀ a b, p a = true → p b = true → key a = key b) (x : α) {l : List α}
    (sorted : l.Pairwise fun a b => key a ≤ key b) : (insertBy key x l).filter p = l.filter p ++ [x].filter p := by
  induction l with
  | nil => rfl
  | cons y ys ih =>
    obtain ⟨head, tail⟩ := List.pairwise_cons.mp sorted
    rw [insertBy]
    split
    case isTrue less =>
      cases hx : p x with
      | false => simp [hx]
      | true =>
        have later : ∀ b ∈ y :: ys, ¬ p b = true := by
          intro b mem hb
          have same := alike x b hx hb
          rcases List.mem_cons.mp mem with rfl | mem
          · omega
          · have := head b mem; omega
        rw [List.filter_cons_of_pos hx, List.filter_eq_nil_iff.mpr later]
        simp [hx]
    case isFalse => rw [List.filter_cons, List.filter_cons, ih tail]; split <;> rfl

theorem sortBy_concat (l : List α) (x : α) : sortBy key (l ++ [x]) = insertBy key x (sortBy key l) := by
  simp [sortBy]

theorem sortBy_perm (l : List α) : (sortBy key l).Perm l := by
  induction l using List.reverseRecOn with
  | nil => rfl
  | append_singleton l x ih =>
    rw [sortBy_concat]
    exact (insertBy_perm x _).trans ((ih.cons x).trans (List.perm_append_singleton x l).symm)

theorem sortBy_pairwise (l : List α) : (sortBy key l).Pairwise fun a b => key a ≤ key b := by
  induction l using List.reverseRecOn with
  | nil => exact .nil
  | append_singleton l x ih => rw [sortBy_concat]; exact insertBy_pairwise x ih

/-- Elements that are alike keep their order. -/
theorem filter_sortBy {p : α → Bool} (alike : ∀ a b, p a = true → p b = true → key a = key b) (l : List α) :
    (sortBy key l).filter p = l.filter p := by
  induction l using List.reverseRecOn with
  | nil => rfl
  | append_singleton l x ih => rw [sortBy_concat, filter_insertBy alike x (sortBy_pairwise l), ih, List.filter_append]

end Sorting

end Sys2Proof

namespace Sys2Proof.Machine

open Sys2Proof.Claim

theorem ordersByLatestStart_holds : Claim.ordersByLatestStart := by
  intro l short
  have perm : (orderCands l).Perm l := sortBy_perm l
  refine ⟨perm, ?_, fun n => filter_sortBy (fun a b ha hb => ?_) l⟩
  · refine (sortBy_pairwise l).imp_of_mem fun {a b} ha hb earlier => ?_
    have := short a (perm.mem_iff.mp ha)
    have := short b (perm.mem_iff.mp hb)
    omega
  · rw [beq_iff_eq.mp ha, beq_iff_eq.mp hb]

/-! ## Admission -/

/-- The test of R119 on a candidate, with the charges admitted on its port so far. -/
abbrev hasRoom (reg : PortId → Nat × Nat) (used : PortId → Nat) (c : Cand) : Prop :=
  used c.port + c.charge ≤ (reg c.port).2 ∧ c.span ≤ 60500 ∧ 10 * (reg c.port).1 + 10 * used c.port + c.span ≤ 62500

/-- The charges on every port once a candidate has been admitted. -/
def chargedWith (used : PortId → Nat) (c : Cand) : PortId → Nat :=
  fun p => if p = c.port then used c.port + c.charge else used p

theorem admission_cons (reg : PortId → Nat × Nat) (used : PortId → Nat) (c : Cand) (l : List Cand) :
    admission reg (c :: l) used =
      if hasRoom reg used c then c :: admission reg l (chargedWith used c) else admission reg l used := by
  have test : (decide (c.span ≤ 60500) && decide (used c.port + c.charge ≤ (reg c.port).2)
      && decide (10 * (reg c.port).1 + 10 * used c.port + c.span ≤ 62500)) = decide (hasRoom reg used c) := by
    simp [Bool.and_comm, Bool.and_assoc]
  simp only [admission, test, decide_eq_true_eq]
  rfl

theorem chargesOn_cons (p : PortId) (c : Cand) (l : List Cand) :
    chargesOn p (c :: l) = (if p = c.port then c.charge else 0) + chargesOn p l := by
  by_cases same : c.port = p
  · simp [chargesOn, same]
  · simp [chargesOn, same, Ne.symm same]

theorem chargedWith_add_chargesOn (used : PortId → Nat) (c : Cand) (l : List Cand) (p : PortId) :
    chargedWith used c p + chargesOn p l = used p + chargesOn p (c :: l) := by
  rw [chargesOn_cons, chargedWith]
  split
  next same => subst same; omega
  next => omega

/-- What follows some candidates is tested with their admitted charges added. -/
theorem admission_append (reg : PortId → Nat × Nat) (l m : List Cand) (used : PortId → Nat) :
    admission reg (l ++ m) used =
      admission reg l used ++ admission reg m fun p => used p + chargesOn p (admission reg l used) := by
  induction l generalizing used with
  | nil => rfl
  | cons c l ih =>
    rw [List.cons_append, admission_cons, admission_cons]
    split
    · simp only [ih, List.cons_append, chargedWith_add_chargesOn]
    · exact ih used

theorem admitsByRegion_holds : Claim.admitsByRegion := by
  intro reg l c
  rw [admission_append, admission_cons]
  simp only [Nat.zero_add]
  rfl

/-- What a port admits depends on its own region, charges and candidates. -/
theorem filter_admission {reg reg' : PortId → Nat × Nat} {p : PortId} (region : reg p = reg' p) (l : List Cand)
    {used used' : PortId → Nat} (charges : used p = used' p) :
    (admission reg l used).filter (fun c => c.port == p) = admission reg' (l.filter fun c => c.port == p) used' := by
  induction l generalizing used used' with
  | nil => rfl
  | cons c l ih =>
    simp only [admission_cons, List.filter_cons]
    by_cases same : c.port = p
    · subst same
      simp only [beq_self_eq_true, if_true, admission_cons, hasRoom, ← region, ← charges]
      split
      · rw [List.filter_cons, if_pos (beq_self_eq_true c.port), ih]
        simp only [chargedWith, if_true, charges]
      · exact ih charges
    · have other : ¬ (c.port == p) = true := by simpa using same
      rw [if_neg other]
      split
      · rw [List.filter_cons, if_neg other, ih]
        simp only [chargedWith, if_neg (Ne.symm same), charges]
      · exact ih charges

theorem admissionIsPerPort_holds : Claim.admissionIsPerPort := fun _ _ l _ region => filter_admission region l rfl

end Sys2Proof.Machine

namespace Sys2Proof

open Sys2Proof.Machine

/-- Settles O12: the order is that of a stable sort, and admission splits at any candidate and by port. -/
theorem admissionByRegion : Obligations.AdmissionByRegion :=
  ⟨ordersByLatestStart_holds, admitsByRegion_holds, admissionIsPerPort_holds⟩

end Sys2Proof
end


section
/-! Admin commands (R201, R218): what their effect on the taken command leaves. -/

namespace Sys2Proof.Machine

open Sys2Proof.Claim Sys2Proof.Safety

/-- The state with a step of an admin command concluded. -/
def concluded (s : State) (src : AdminSrc) (c : BitVec 512) (step : AdminStep) : State :=
  { s with eng := noted s.eng (concludeAdmin src c step) }

@[simp] theorem concluded_ok (s : State) (src : AdminSrc) (c : BitVec 512) (e : Engine) (dword2 : Dword)
    (data : List Byte) : concluded s src c (.ok e dword2 data) = answered s src c 0x80 dword2 data e := rfl

@[simp] theorem concluded_wait (s : State) (src : AdminSrc) (c : BitVec 512) (e : Engine) (w : Defer) :
    concluded s src c (.wait e w) = waiting s src c w e := rfl

/-- A command that firmware takes and whose own checks pass has its effect. -/
theorem taken_concludes {r : AdminRow} {s : State} {src : AdminSrc} {c : BitVec 512} {op : Nat} {target : Bool}
    {fields : Fields} {checks : Fn → BitVec 512 → Engine → List Check} {effect : Fn → BitVec 512 → Engine → AdminStep}
    (taken : Taken s src c op target fields) (idle : Idle s src) (pfOnly : r.pfOnly = true → FromPf src)
    (opcode : r.op = op) (names : r.target = target) (used : r.used c = fields) (reads : r.reads = fun _ _ e => e)
    (own : ∀ k ∈ checks src.fn c (after s src), k.bad = false) :
    onEng s (runAdmin r src checks effect) = .next (concluded s src c (effect src.fn c (after s src))) :=
  onEng_of (taken_runs taken opcode pfOnly names used (fun _ => idle) reads own)

/-- A command whose checks read host memory has its effect on the engine `e` that has issued the read. -/
theorem taken_concludes_reading {r : AdminRow} {s : State} {src : AdminSrc} {c : BitVec 512} {op : Nat} {target : Bool}
    {fields : Fields} {checks : Fn → BitVec 512 → Engine → List Check} {effect : Fn → BitVec 512 → Engine → AdminStep}
    {e : Engine} (taken : Taken s src c op target fields) (idle : Idle s src) (pfOnly : r.pfOnly = true → FromPf src)
    (opcode : r.op = op) (names : r.target = target) (used : r.used c = fields)
    (read : r.reads src.fn c (after s src) = e) (still : (e.fn src.fn).reset = ((after s src).fn src.fn).reset)
    (own : ∀ k ∈ checks src.fn c e, k.bad = false) :
    onEng s (runAdmin r src checks effect) = .next (concluded s src c (effect src.fn c e)) := by
  subst read
  exact onEng_of (taken_runs_reading taken opcode pfOnly names used (fun _ => idle) still own)

end Sys2Proof.Machine
end


section
/-! The holding commands (R125, R216, R231, R232, R241, R246) as the PF or the holding itself gives them. -/

namespace Sys2Proof.Machine

open Sys2Proof.Claim Sys2Proof.Safety

theorem holdingCreate_holds : Claim.holdingCreate := by
  rintro s src c ⟨taken, idle, fromPf, other, range, ready, plots, whole, rings, enabled, new, free, sqs, cqs, ringsLeft,
    credits, rowrate, contexts⟩
  show execHoldingCreate src s = _
  refine (taken_concludes taken idle (fun _ => fromPf) rfl rfl rfl rfl ?_).trans rfl
  simp only [List.forall_mem_cons]
  refine ⟨by simp [other, Nat.not_lt.mpr range, plots, whole, Nat.not_lt.mpr rings], by simp [resetCheck, ready],
    by simp [enabled, new], by simpa using free, ?quotas, ?shares, nofun⟩
  case quotas => simpa using ⟨⟨sqs, cqs⟩, ringsLeft⟩
  case shares => simpa using ⟨⟨credits, rowrate⟩, contexts⟩

/-! ## Commands that name a holding -/

section Named

variable {s : State} {src : AdminSrc} {c : BitVec 512} {zero : Bool}

/-- The holding named may be commanded: holding 0 only where the command allows it. -/
theorem holdChecks_pass (ok : AnyHoldOk s src c) (first : zero = false → cf c 32 0 8 ≠ 0) :
    ∀ k ∈ holdChecks zero src.fn c (after s src), k.bad = false := by
  obtain ⟨mine, range, created, ready⟩ := ok
  simp only [holdChecks, List.forall_mem_cons]
  refine ⟨?own, ?exists_, ?idle, nofun⟩
  case own =>
    by_cases fromPf : src.fn = pf
    · simp [fromPf]
    · simp [mine fromPf]
  case exists_ =>
    cases zero with
    | false => simp [Nat.not_lt.mpr range, created, first rfl]
    | true => simp [Nat.not_lt.mpr range, created]
  case idle => simp [takeCommand_reset, ready]

end Named

/-- A first reset of a holding is recorded and its fates follow. -/
theorem resetPoint_idle {h : Fn} {e : Engine} (kind : ResetKind) (src : Option AdminSrc) (destroy : Bool)
    (ready : (e.fn h).reset = none) : resetPoint h kind src destroy e =
      resetFates h kind (modFn h (fun x => { x with reset := some { kind, src, destroy } }) e) := by
  simp [resetPoint, ready]

theorem holdingDestroy_holds : Claim.holdingDestroy := by
  rintro s src c ⟨taken, idle, fromPf, mine, other, range, created, ready⟩
  show execHoldingDestroy src s = _
  refine (taken_concludes taken idle (fun _ => fromPf) rfl rfl rfl rfl
    (holdChecks_pass ⟨mine, range, created, ready⟩ fun _ => other)).trans ?_
  rw [resetPoint_idle _ _ _ ((takeCommand_reset src s.eng _).trans ready), concluded_wait]

/-- What ALLOT PLOTS does, by the number of plots that the holding has. -/
def allotStep (c : BitVec 512) (now : List PlotId) (e : Engine) : AdminStep :=
  let n := cf c 33 0 8
  if n = now.length then .ok e (BitVec.ofNat 32 n) []
  else if now.length < n then .wait (takePlots (cHold c) (n - now.length) e) (.plots (cHold c) now.length)
  else .wait (forAll (now.drop n) (fun p => modPlot p fun q => { q with removing := true }) e) (.plots (cHold c) now.length)

theorem exec_allotPlots {s : State} {src : AdminSrc} {c : BitVec 512} (ok : allotPlotsOk s src c) :
    exec (.allotPlots src) s =
      .next (concluded s src c (allotStep c ((after s src).allotment (cHold c)) (after s src))) := by
  obtain ⟨taken, idle, fromPf, named, some_, free⟩ := ok
  show execAllotPlots src s = _
  refine taken_concludes taken idle (fun _ => fromPf) rfl rfl rfl rfl ?_
  simp only [List.forall_mem_append, List.forall_mem_cons]
  exact ⟨holdChecks_pass named (by nofun), by simp [some_], by simpa using free, nofun⟩

theorem allotPlots_holds : Claim.allotPlots := by
  intro s src c ok
  rw [exec_allotPlots ok]
  refine ⟨fun same => ?_, fun more => ?_, fun fewer => ?_⟩
  · simp only [allotStep, if_pos same, concluded_ok]
  · simp only [allotStep, if_neg more.ne', if_pos more, concluded_wait]
  · simp only [allotStep, if_neg fewer.ne, if_neg fewer.asymm, concluded_wait]

theorem holdingReset_holds : Claim.holdingReset := by
  rintro s src c ⟨taken, idle, named⟩
  have ⟨_, _, _, ready⟩ := named
  show execHoldingReset src s = _
  refine (taken_concludes taken idle (by nofun) rfl rfl rfl rfl (holdChecks_pass named (by nofun))).trans ?_
  rw [resetPoint_idle _ _ _ ((takeCommand_reset src s.eng _).trans ready), concluded_wait]

theorem setGleaning_holds : Claim.setGleaning := by
  rintro s src c ⟨taken, idle, fromPf, named⟩
  show execSetGleaning src s = _
  exact taken_concludes taken idle (fun _ => fromPf) rfl rfl rfl rfl (holdChecks_pass named (by nofun))

end Sys2Proof.Machine

namespace Sys2Proof

open Sys2Proof.Machine

/-- Settles O29: each command passes its checks; ALLOT PLOTS is split by the plots that the holding has. -/
theorem holdingCommandsComplete : Obligations.HoldingCommandsComplete :=
  ⟨holdingCreate_holds, holdingDestroy_holds, allotPlots_holds, holdingReset_holds, setGleaning_holds⟩

end Sys2Proof
end


section
/-! The scheduling commands (R104, R115, R116, R133, R134, R211, R212): context table, field map, reservations and the
places of a managed map. -/

namespace Sys2Proof.Machine

open Sys2Proof.Claim Sys2Proof.Safety

/-! ## SET CONTEXT TABLE (R211, R212) -/

theorem setContextTable_holds : Claim.setContextTable := by
  refine ⟨fun s src c l ok => ?table, fun s src c l ok => ?install⟩
  case table =>
    obtain ⟨taken, idle, form, base, size, thawed, queues, unmapped, noMap, quota⟩ := ok
    have noRead : whenE (cf c 32 0 8 == 1 && decide (cf c 48 0 32 ≤ 4096))
        (readNow src.fn (fld c 320 64) (32 * cf c 48 0 32) (.image src.fn)) (after s src) = after s src := by simp [form]
    show execSetContextTable src l s = _
    refine (taken_concludes_reading taken idle (by nofun) rfl rfl (by simp [contextTableFields, form]) noRead rfl
      ?_).trans ?_
    · simp [form, base, size, frozenCheck, thawed, queues, unmapped, noMap, quota]
    · simp only [form, if_true, concluded_ok]
  case install =>
    obtain ⟨taken, idle, form, all, some_, most, inside, free, thawed, valid, unused⟩ := ok
    have read : whenE (cf c 32 0 8 == 1 && decide (cf c 48 0 32 ≤ 4096))
        (readNow src.fn (fld c 320 64) (32 * cf c 48 0 32) (.image src.fn)) (after s src) = installing s src c := by
      simp [form, most]
    have brings : (brought (installing s src c) src.fn (some l)).filter (fun l => l.length == cf c 48 0 32) = some l := by
      rw [brought_free free]
      exact if_pos (beq_iff_eq.mpr all)
    show execSetContextTable src (some l) s = _
    refine (taken_concludes_reading taken idle (by nofun) rfl rfl (by simp [contextTableFields, form]) read
      (readNow_reset ..) ?_).trans ?_
    · simp only [List.forall_mem_cons, brings, Option.getD_some, valid, unused]
      simp [form, some_, most, inside, frozenCheck, thawed]
    · simp only [form]
      rfl

/-! ## SET FIELD MAP (R104, R132, R134) -/

/-- The field map that a holding has been given, and the frame from which it holds. -/
def pendingMap (h : Fn) (e : Engine) : Option (Option FieldMap × BitVec 48) := (e.hold h).fieldMapNext

theorem pendingMap_congr {h : Fn} {e e' : Engine} (same : e.holdings = e'.holdings) : pendingMap h e = pendingMap h e' := by
  simp only [pendingMap, Engine.hold, same]

theorem pendingMap_modHold {h g : Fn} {f : Holding → Holding} (keeps : ∀ x, (f x).fieldMapNext = x.fieldMapNext)
    (e : Engine) : pendingMap g (modHold h f e) = pendingMap g e := by
  simp only [pendingMap, Engine.hold, modHold_at]
  split
  · exact keeps _
  · rfl

theorem pendingMap_hostWrite (g h : Fn) (a : Qword) (d : List Byte) (e : Engine) :
    pendingMap g (hostWrite h a d false e) = pendingMap g e := pendingMap_congr (hostWrite_holdings ..)

theorem pendingMap_publishSlot (g h : Fn) (slot : Nat) (e : Engine) :
    pendingMap g (publishSlot h slot e) = pendingMap g e := by
  have retired : pendingMap g (modHold h (fun x => x.retireWork slot e.frame32 e.clk.retired) e) = pendingMap g e :=
    pendingMap_modHold (by intro; rfl) e
  unfold publishSlot
  split
  · rfl
  · dsimp only
    split
    · rw [pendingMap_hostWrite, retired]
    · rw [pendingMap_hostWrite, pendingMap_hostWrite]
      exact (pendingMap_modHold (by intro; rfl) _).trans retired

theorem pendingMap_publish (g h : Fn) (phase interval : Nat) (e : Engine) :
    pendingMap g (publish h phase interval e) = pendingMap g e :=
  forAll_keeps (pendingMap g) _ _ e fun slot e => pendingMap_publishSlot g h slot e

/-- A managed map gives way to another: what firmware placed is dropped, with the lists that groups planted (R134). -/
def dropPlaced (h : Fn) (g : BitVec 48) (e : Engine) : Engine :=
  clearLists (fun l => l.holding == h && l.group.isSome) g (modHold h (fun x => { x with scheduled := [], groups := [] }) e)

/-- What SET FIELD MAP does to the periodic work that firmware keeps, `was` saying that the map before it was managed. -/
def rebuildMap (h : Fn) (g : BitVec 48) (was : Bool) (e : Engine) : Engine :=
  if e.managed h then publish h 0 1 (if was then e else modHold h (fun x => { x with rowrateHost := 0 }) e)
  else if was then dropPlaced h g e else e

theorem pendingMap_rebuildMap (h : Fn) (g : BitVec 48) (was : Bool) (e : Engine) :
    pendingMap h (rebuildMap h g was e) = pendingMap h e := by
  unfold rebuildMap
  split
  · rw [pendingMap_publish]
    split
    · rfl
    · exact pendingMap_modHold (by intro; rfl) e
  · split
    · exact (pendingMap_congr (clearLists_holdings ..)).trans (pendingMap_modHold (by intro; rfl) e)
    · rfl

/-- The engine once the holding has been given a map for frame G. -/
def givenMap (s : State) (src : AdminSrc) (c : BitVec 512) : Engine :=
  modHold src.fn (fun x => { x with fieldMapNext := some (cMap c, (after s src).nextG) }) (after s src)

/-- A map that the command does not call managed is none. -/
theorem givenMap_unmanaged {s : State} {src : AdminSrc} {c : BitVec 512} (plain : cf c 32 0 1 = 0) :
    (givenMap s src c).managed src.fn = false := by
  have mapped : ((givenMap s src c).hold src.fn).mapFor (givenMap s src c).nextG = cMap c := by
    simp only [givenMap, Engine.hold, modHold_same, Holding.mapFor]
    exact if_pos le_rfl
  rw [Engine.managed, mapped, cMap]
  by_cases none_ : cf c 40 0 64 = 0
  · rw [if_pos none_]
  · rw [if_neg none_]
    simp [plain]

theorem exec_setFieldMap {s : State} {src : AdminSrc} {c : BitVec 512} (ok : setFieldMapOk s src c) :
    exec (.setFieldMap src) s = .next (answered s src c 0x80 ((after s src).nextG.setWidth 32)
      (leBytes 8 (after s src).nextG.toNat)
      (shadowRowrate src.fn (shadow (.fieldMap src.fn (cMap c))
        (rebuildMap src.fn (after s src).nextG ((after s src).managed src.fn) (givenMap s src c))))) := by
  obtain ⟨taken, idle, aligned, area, thawed⟩ := ok
  show execSetFieldMap src s = _
  refine (taken_concludes taken idle (by nofun) rfl rfl rfl rfl ?_).trans rfl
  simp only [List.forall_mem_cons]
  refine ⟨?_, thawed, nofun⟩
  by_cases managed : cf c 32 0 1 = 1
  · simp [aligned, managed, area managed]
  · simp [aligned, managed]

theorem setFieldMap_holds : Claim.setFieldMap := by
  intro s src c ok
  refine ⟨_, _, exec_setFieldMap ok, rfl, ?pending, fun plain was => ?unmanaged⟩
  case pending =>
    show pendingMap src.fn (shadowRowrate ..) = _
    rw [shadowRowrate, pendingMap_congr (shadow_holdings ..), pendingMap_congr (shadow_holdings ..), pendingMap_rebuildMap]
    simp [pendingMap, givenMap, Engine.hold]
  case unmanaged => simp only [rebuildMap, givenMap_unmanaged plain, was, Bool.false_eq_true, if_false]; rfl

/-! ## RESERVE (R115) -/

theorem reserve_holds : Claim.reserve := by
  rintro s src c ⟨taken, idle, fromPf, range, created, ready, first, last, length, places, fits⟩
  show execReserve src s = _
  refine (taken_concludes taken idle (fun _ => fromPf) rfl rfl rfl rfl ?_).trans rfl
  simp only [List.forall_mem_cons]
  refine ⟨by simp [Nat.not_lt.mpr range, created], by simp [resetCheck, ready], ?region, ?room, nofun⟩
  case region =>
    simpa [cReserve, and_assoc] using ⟨first, last, length, places⟩
  case room =>
    rw [List.any_eq_false]
    intro p mem
    obtain ⟨apart, left⟩ := fits p mem
    simp only [cReserve] at apart left
    simp only [apart, Bool.false_or, decide_eq_true_eq, Nat.not_lt]
    exact left

/-! ## SCHEDULE ENDPOINT (R133) -/

/-- The place of an endpoint: that of R133, a row-rate one in phase 0 and row 0. -/
def placeOf (f : Fn) (c : BitVec 512) (v : Dev) (e : Engine) : Option (Nat × Nat) :=
  if (cScheduled c).interval = 0 then some (0, 0)
  else e.findPlace f v.root (cScheduled c).interval (schedDesc (cScheduled c))

/-- What SCHEDULE ENDPOINT does with the place that it has found, if any. -/
def scheduleStep (f : Fn) (c : BitVec 512) (e : Engine) : Option (Nat × Nat) → AdminStep
  | none => .fail e 0x85 0
  | some (phase, row) =>
    let step := if (cScheduled c).interval = 0 then 1 else (cScheduled c).interval
    .ok (publish f phase step (shadowRowrate f (modHold f (fun h => { h with
        scheduled := h.scheduled ++ [placedAt c e.nextG phase row step] }) e)))
      (BitVec.ofNat 32 (phase + 65536 * row)) (leBytes 8 (firstServed e.nextG phase step).toNat)

theorem exec_scheduleEndpoint {s : State} {src : AdminSrc} {c : BitVec 512} {v : Dev} (ok : scheduleOk s src c v)
    (period : cf c 34 0 16 = 0xFFFF ∨ isPow2 (cf c 34 0 16) = true ∧ cf c 34 0 16 ≤ 1024)
    (room : (cScheduled c).interval = 0 → (after s src).rowrateShort src.fn = false) :
    exec (.scheduleEndpoint src) s =
      .next (concluded s src c (scheduleStep src.fn c (after s src) (placeOf src.fn c v (after s src)))) := by
  obtain ⟨taken, idle, bound, mine, noHub, inSet, kind, endpoint, length, slot, context, thawed, managed, new⟩ := ok
  have root : (after s src).rootOf (cScheduled c).dev = some v.root := by
    rw [Engine.rootOf, cScheduled, bound]
    rfl
  show execScheduleEndpoint src s = _
  refine (taken_concludes taken idle (by nofun) rfl rfl rfl rfl ?_).trans ?_
  · simp only [List.forall_mem_append, List.forall_mem_cons]
    refine ⟨?device, ?form, thawed, by simp [managed], new, ?quota, nofun⟩
    case device => simp [deviceChecks, bound, mine, noHub, inSet]
    case form =>
      have kinds : (cScheduled c).kind = 2 ∨ (cScheduled c).kind = 3 := kind
      have periods : (cf c 34 0 16 == 0xFFFF || (isPow2 (cf c 34 0 16) && decide (cf c 34 0 16 ≤ 1024))) = true := by
        simpa using period
      have ep : ¬ (cScheduled c).ep = 0#4 := endpoint
      have len : (cScheduled c).length ≤ 1024 := length
      have ctx : (cScheduled c).ctxIndex < (own s src).ctxEntries := context
      rcases kinds with kinds | kinds <;> simp [kinds, ep, len, periods, slot, ctx]
    case quota =>
      by_cases zero : (cScheduled c).interval = 0
      · simp [room zero]
      · simp [zero]
  · refine congrArg (fun step => Host.Outcome.next (concluded s src c step)) ?_
    have place : (if (cScheduled c).interval = 0 then some (0, 0) else (after s src).findPlace src.fn v.root
        (cScheduled c).interval (schedDesc (cScheduled c))) = placeOf src.fn c v (after s src) := rfl
    simp only [root, Option.getD_some, place]
    cases placeOf src.fn c v (after s src) <;> rfl

theorem scheduleEndpoint_holds : Claim.scheduleEndpoint := by
  intro s src c v ok
  refine ⟨fun rowrate room => ?rowrate, fun phase row other power most place => ?placed⟩
  case rowrate =>
    have zero : (cScheduled c).interval = 0 := if_pos rowrate
    rw [exec_scheduleEndpoint ok (.inl rowrate) fun _ => room]
    simp only [placeOf, zero, if_true, scheduleStep]
    rfl
  case placed =>
    have interval : (cScheduled c).interval = cf c 34 0 16 := if_neg other
    have nonzero : (cScheduled c).interval ≠ 0 := by
      rw [interval]
      intro zero
      simp [isPow2, zero] at power
    rw [exec_scheduleEndpoint ok (.inr ⟨power, most⟩) fun zero => absurd zero nonzero]
    simp only [placeOf, if_neg nonzero, scheduleStep]
    simp only [interval, place]
    rfl

/-! ## UNSCHEDULE ENDPOINT (R133) -/

/-- The frames after which an endpoint's slots repeat: every one for a row-rate endpoint. -/
def repeatsAfter (y : Scheduled) : Nat := if y.interval = 0 then 1 else y.interval

/-- The first frame from G on that the slots of an endpoint that leaves the schedule would have served. -/
def nextServed (e : Engine) (y : Scheduled) : Nat :=
  (firstServed (BitVec.ofNat 48 e.nextG.toNat) y.phase (repeatsAfter y)).toNat

/-- The last frame that may serve it. -/
def lastServed (e : Engine) (y : Scheduled) : BitVec 48 :=
  BitVec.ofNat 48 (nextServed e y - repeatsAfter y)

/-- The engine once an endpoint has left the schedule and its slots have been written again. -/
def unscheduled (f : Fn) (c : BitVec 512) (y : Scheduled) (e : Engine) : Engine :=
  publish f y.phase (repeatsAfter y) (shadowRowrate f (modHold f (fun h => { h with
    scheduled := h.scheduled.filter fun z => !names c z }) e))

/-- What UNSCHEDULE ENDPOINT does with the endpoint that it has found, if any: it waits for the last frame that may serve
it, unless that one lies before the endpoint's first frame or has retired. -/
def unscheduleStep (f : Fn) (c : BitVec 512) (e : Engine) : Option Scheduled → AdminStep
  | none => .ok e 0 []
  | some y =>
    if nextServed e y < repeatsAfter y
        || decide ((lastServed e y).toNat < y.first.toNat)
        || geMod (unscheduled f c y e).clk.retired ((lastServed e y).setWidth 32) then
      .ok (unscheduled f c y e) ((lastServed e y).setWidth 32) []
    else .wait (unscheduled f c y e) (.retired (lastServed e y))

theorem exec_unscheduleEndpoint {s : State} {src : AdminSrc} {c : BitVec 512} (ok : unscheduleOk s src c) :
    exec (.unscheduleEndpoint src) s = .next (concluded s src c
      (unscheduleStep src.fn c (after s src) ((own s src).scheduled.find? (names c)))) := by
  obtain ⟨taken, idle, mine, kind, thawed, managed⟩ := ok
  show execUnscheduleEndpoint src s = _
  refine (taken_concludes taken idle (by nofun) rfl rfl rfl rfl ?_).trans ?_
  · simp only [List.forall_mem_cons]
    refine ⟨?owner, by simpa [or_iff_not_imp_left] using kind, thawed, by simp [managed], nofun⟩
    by_cases fromPf : src.fn = pf
    · simp [fromPf]
    · cases bound : (after s src).dev? (cDev c) with
      | none => simp
      | some v => simp [mine fromPf v bound]
  · refine congrArg (fun step => Host.Outcome.next (concluded s src c step)) ?_
    have is : (fun y : Scheduled => y.dev == cDev c && y.ep == cEp c && y.kind == cf c 32 0 8) = names c := rfl
    simp only [is]
    cases (own s src).scheduled.find? (names c) <;> rfl

theorem unscheduleEndpoint_holds : Claim.unscheduleEndpoint := by
  intro s src c ok
  rw [exec_unscheduleEndpoint ok]
  refine ⟨fun unknown => ?gone, fun y known => ?found⟩
  case gone => rw [unknown]; rfl
  case found =>
    rw [known]
    refine ⟨lastServed (after s src) y, ?_⟩
    simp only [unscheduleStep]
    split
    · exact .inl (by rw [concluded_ok]; rfl)
    · exact .inr (by rw [concluded_wait]; rfl)

end Sys2Proof.Machine

namespace Sys2Proof

open Sys2Proof.Machine

/-- Settles O24: each command passes its checks; SET CONTEXT TABLE is split by its form, the two commands of a managed map
by the place that they find. -/
theorem scheduleCommandsComplete : Obligations.ScheduleCommandsComplete :=
  ⟨setContextTable_holds, setFieldMap_holds, reserve_holds, scheduleEndpoint_holds, unscheduleEndpoint_holds⟩

end Sys2Proof
end


section
/-! The headland and the reads of a walk (R30, R102 to R119, R142): each read by what it brought. -/

namespace Sys2Proof.Machine

open Sys2Proof.Claim

/-! ## The headland (R29, R102, R103, R119) -/

@[simp] theorem hostRead_yoke (h : Fn) (a : Qword) (n : Nat) (t : ReadTag) (e : Engine) :
    (hostRead h a n t e).yoke = e.yoke := hostRead_keeps _ (fun _ _ => rfl) (fun _ _ => rfl) h a n t e

/-- Beginning walks touches the plots only. -/
theorem addWalks_keeps {γ : Sort _} (p : Engine → γ) (walks : ∀ q f e, p (modPlot q f e) = p e) (h : Fn) (f : BitVec 48)
    (a : Bool) (since : Option Nat) (e : Engine) : p (addWalks h f a since e) = p e :=
  forAll_keeps p _ _ e fun _ _ => walks ..

@[simp] theorem addWalks_yoke (h : Fn) (f : BitVec 48) (a : Bool) (since : Option Nat) (e : Engine) :
    (addWalks h f a since e).yoke = e.yoke := addWalks_keeps _ (fun _ _ _ => rfl) h f a since e

/-- With no map accepted for a later frame, none comes into force. -/
theorem commitMap_none {h : Fn} {f : BitVec 48} {e : Engine} (none_ : (e.hold h).fieldMapNext = none) :
    commitMap h f e = e := by
  rw [commitMap, none_]

theorem headland_holds : Claim.headland := by
  refine ⟨fun s ok => ?headland, fun e f h m ok => ?reads⟩
  case headland =>
    obtain ⟨live, on, undone⟩ := ok
    have runs : ¬ (!s.eng.live || !s.eng.clk.timerOn || s.eng.clk.headlandDone) = true := by simp [live, on, undone]
    show execHeadland s = _
    exact onEng_of (if_neg runs)
  case reads =>
    obtain ⟨settled, map, serves, thawed, walks, free, single, own⟩ := ok
    simp [headlandOf, commitMap_none settled, map, serves, thawed, walks, free, single, own, Engine.adopts]

/-! ## Slot entries (R103, R105) -/

theorem adopts_modHold {h : Fn} {g : Holding → Holding} (keeps : ∀ x, (g x).adoptedMap = x.adoptedMap) (k : Fn)
    (a : Bool) (e : Engine) : (modHold h g e).adopts k a = e.adopts k a := by
  simp only [Engine.adopts, Holding.servesPartner, Engine.hold, modHold_at]
  split
  · rw [keeps]
  · rfl

/-- What the slot entry of a frame does once it has come to a holding whose map is walked here. -/
def serveSlot (f : Fn) (fr : BitVec 48) (a : Bool) (entry : Option Qword) (e : Engine) : Engine :=
  match entry with
  | none => dropFrame f fr a (attn f 0x10 0 0 (fr.setWidth 32) 0 false e)
  | some w =>
    if fldN w 1 7 ≠ 0 then endWalks f fr a (attn f 0x12 0 0 (fr.setWidth 32) 0xFFFFFFFF#32 false e)
    else if bitOf w 0 = false then endWalks f fr a e
    else walkSlot f fr a w (modHold f (fun y => { y with latched := y.latched ++ [(a, fr, w)] }) e)

theorem exec_slotEntryReadComplete {s : State} {f : Fn} {a : Bool} {fr : BitVec 48} (entry : Option Qword)
    (ok : slotOk s f a fr) : exec (.slotEntryReadComplete f a entry) s =
      .next { s with eng := noted s.eng (serveSlot f fr a entry (slotCame s f a fr)) } := by
  obtain ⟨reading, asked, ahead, served, free, adopts⟩ := ok
  have serving (w : Qword) : (modHold f (fun y => { y with latched := y.latched ++ [(a, fr, w)] })
      (slotCame s f a fr)).adopts f a = true := (adopts_modHold (by intro; rfl) f a _).trans adopts
  show execSlotEntryReadComplete f a entry s = _
  refine onEng_of ?_
  simp only [takeRead_reading reading, asked, ahead, served, brought_free free, adopts]
  cases entry with
  | none => rfl
  | some w =>
    simp only [serving, serveSlot, bne_iff_ne, Bool.not_eq_true', whenE_true, Bool.or_self, Bool.false_eq_true, if_false]

theorem slotEntryReadComplete_holds : Claim.slotEntryReadComplete := by
  intro s f a fr ok
  simp only [exec_slotEntryReadComplete _ ok, serveSlot]
  refine ⟨trivial, fun w reserved => ?reserved, fun w clear invalid => ?invalid, fun w clear valid => ?valid⟩
  case reserved => simp only [if_pos reserved]
  case invalid => simp only [if_neg (not_not.mpr clear), if_pos invalid]
  case valid => simp only [if_neg (not_not.mpr clear), valid, Bool.true_eq_false, if_false]

/-! ## Row tables and row lists (R30, R103, R106, R112) -/

/-- What the read of a row table or of a row's list does to a walk of a holding. -/
def rowsCame (p : PlotId) (a : Bool) (h : Fn) (w : Walk) (what : Option (Fin 16)) (units : Option (List (BitVec 256)))
    (e : Engine) : Engine :=
  match what, units with
  | none, none => dropFrame h w.frame a (attn h 0x10 0 0 (w.frame.setWidth 32) 0 false e)
  | none, some us => walkOn p w.frame a 17 (modWalk p w (fun v => { v with table := some (us.flatMap halves) }) e)
  | some r, none => walkOn p w.frame a 17 (nextRow p w (sayOnce h w.frame 0x11 r.val (BitVec.ofNat 32 r.val) e))
  | some _, some us => walkOn p w.frame a 17 (nextRow p w (serveRow p w (if w.late then [] else us) e))

theorem exec_rowListReadComplete {s : State} {p : PlotId} {a : Bool} {what : Option (Fin 16)} {h : Fn} {w : Walk}
    (ok : rowsOk s p a what h w) (units : Option (List (BitVec 256))) :
    exec (.rowListReadComplete p a what units) s =
      .next { s with eng := noted s.eng (rowsCame p a h w what units (landed s (.rows p a what))) } := by
  obtain ⟨running, whole, reading, rfl, walk, free⟩ := ok
  show execRowListReadComplete p a what units s = _
  refine onEng_of ?_
  simp only [running, whole, Bool.or_self, Bool.false_eq_true, if_false, takeRead_reading reading, walk, brought_free free]
  cases what <;> cases units <;> rfl

theorem rowListReadComplete_holds : Claim.rowListReadComplete :=
  ⟨fun _ _ _ _ _ us ok => exec_rowListReadComplete ok (some us),
    fun _ _ _ _ _ _ us ok => exec_rowListReadComplete ok (some us),
    fun _ _ _ _ _ _ ok => exec_rowListReadComplete ok none, fun _ _ _ _ _ ok => exec_rowListReadComplete ok none⟩

/-! ## Out slots (R110) -/

theorem outSlotReadComplete_holds : Claim.outSlotReadComplete := by
  refine ⟨fun s id d n bs ok some_ => ?length, fun s id d n bs ok => ?data, fun s id d n bs ok => ?again,
    fun s id d k n ok => ?failed⟩ <;>
  obtain ⟨reading, found, phase, free⟩ := ok <;>
  have took := takeRead_reading reading
  case length =>
    show execOutSlotReadComplete id (some bs) s = _
    exact onEng_of (by simp only [took, found, phase, brought_free free, if_neg some_])
  case data =>
    show execOutSlotReadComplete id (some bs) s = _
    exact onEng_of (by simp only [took, found, phase, brought_free free])
  case again =>
    refine ⟨fun same even fits => ?ready, fun same even long => ?long, fun changed => ?changed⟩ <;>
    show execOutSlotReadComplete id (some bs) s = _
    case ready => exact onEng_of (by simp [took, found, phase, brought_free, free, same, even, fits])
    case long => exact onEng_of (by simp [took, found, phase, brought_free, free, same, even, long])
    case changed => exact onEng_of (by simp [took, found, phase, brought_free, free, changed])
  case failed =>
    show execOutSlotReadComplete id none s = _
    exact onEng_of (by simp only [took, found, phase, brought_free free])

/-! ## Contexts of SOLO descriptors (R14, R103, R113) -/

theorem soloContextFetchComplete_holds : Claim.soloContextFetchComplete := by
  refine ⟨fun s id d c ok known => ?known, fun s id d c ok new => ⟨fun e kept => ?kept, fun full => ?full⟩,
    fun s id d ok in_ => ?inFailed, fun s id d ok out => ?outFailed⟩ <;>
  obtain ⟨reading, found, phase, free⟩ := ok <;>
  have took := takeRead_reading reading
  case known =>
    show execSoloContextFetchComplete id (some c) s = _
    exact onEng_of (by simp [took, found, phase, brought_free, free, known])
  case kept =>
    show execSoloContextFetchComplete id (some c) s = _
    exact onEng_of (by simp [took, found, phase, brought_free, free, new, kept])
  case full =>
    show execSoloContextFetchComplete id (some c) s = _
    exact onEng_of (by simp [took, found, phase, brought_free, free, new, full])
  case inFailed =>
    show execSoloContextFetchComplete id none s = _
    exact onEng_of (by simp [took, found, phase, brought_free, free, in_])
  case outFailed =>
    show execSoloContextFetchComplete id none s = _
    exact onEng_of (by simp [took, found, phase, brought_free, free, out])

/-! ## Images of a REAP's lists (R142) -/

theorem reapImageReadComplete_holds : Claim.reapImageReadComplete := by
  rintro s id d hub li rest ⟨reading, found, next, free⟩
  have took := takeRead_reading reading
  refine ⟨fun l bs planted same => ?agrees, fun l bs planted differ => ?differs, fun gone bs => ?gone, ?failed⟩
  case agrees =>
    show execReapImageReadComplete id (some bs) s = _
    exact onEng_of (by simp [took, found, next, brought_free, free, planted, same, imageAgrees])
  case differs =>
    show execReapImageReadComplete id (some bs) s = _
    exact onEng_of (by simp [took, found, next, brought_free, free, planted, differ, imageAgrees])
  case gone =>
    show execReapImageReadComplete id bs s = _
    exact onEng_of (by simp [took, found, next, gone])
  case failed =>
    show execReapImageReadComplete id none s = _
    exact onEng_of (by simp [took, found, next, brought_free, free])

end Sys2Proof.Machine

namespace Sys2Proof

open Sys2Proof.Machine

/-- Settles O36: each read by what it brought, and by whether the work that it belongs to can go on with it. -/
theorem headlandsComplete : Obligations.HeadlandsComplete :=
  ⟨headland_holds, slotEntryReadComplete_holds, rowListReadComplete_holds, outSlotReadComplete_holds,
    soloContextFetchComplete_holds, reapImageReadComplete_holds⟩

end Sys2Proof
end


section
/-! The port arbiter (R116, R118, R120 to R124, R126, R128): its decision, a grant that is withdrawn, and a start that has
passed. -/

namespace Sys2Proof.Machine

open Sys2Proof.Claim

theorem arbiterDecision_holds : Claim.arbiterDecision := by
  refine ⟨fun s p half ok => ?decides, fun p t e off => ?noGrant⟩
  case decides =>
    obtain ⟨live, on, started⟩ := ok
    show execArbiterDecision p half s = _
    exact onEng_of (by simp only [live, on, started, Bool.not_true, Bool.or_self, Bool.false_eq_true, if_false])
  case noGrant =>
    have shut : (t < 2000 || 62000 ≤ t || t < (e.port p).arb.txFree) = true := by simpa [or_assoc] using off
    rw [decideGrant]
    exact if_pos shut

theorem grantWithdraw_holds : Claim.grantWithdraw := by
  refine fun s p => ⟨fun o w granted asks => ?withdrawn, fun idle => ?idle⟩
  case withdrawn =>
    show execGrantWithdraw p s = _
    exact onEng_of (by simp [voidGrant, granted, asks])
  case idle =>
    show execGrantWithdraw p s = _
    exact onEng_of (by simp [voidGrant, idle])

theorem latestStartPassed_holds : Claim.latestStartPassed := by
  rintro s id d ⟨found, unstarted, here, running, frame, row, late⟩
  show execLatestStartPassed id s = _
  exact onEng_of (by simp [found, unstarted, here, running, frame, row, late])

end Sys2Proof.Machine

namespace Sys2Proof

open Sys2Proof.Machine

/-- Settles O38: the decision runs on a live bus engine; a withdrawn grant is void and a passed start an overrun. -/
theorem arbitrationCompletes : Obligations.ArbitrationCompletes :=
  ⟨arbiterDecision_holds, grantWithdraw_holds, latestStartPassed_holds⟩

end Sys2Proof
end

section
/-! The image of a reap list as bytes (R136, R137): its header, then its entries, 8 bytes each. -/

namespace Sys2Proof.Machine

open Sys2Proof.Claim

/-- The 16 header bytes of a list's image (R136). -/
def imageHead (l : PlantedList) : List Byte :=
  leBytes 1 1 ++ leBytes 1 l.listId ++ leBytes 2 l.entries.length ++ leBytes 2 l.deadline
    ++ leBytes 1 l.holding.val ++ leBytes 9 0

theorem imageBytes_eq (l : PlantedList) : imageBytes l = imageHead l ++ l.entries.flatMap wordBytes := rfl

@[simp] theorem length_imageHead (l : PlantedList) : (imageHead l).length = 16 := by simp [imageHead]

/-- Entries take 8 bytes each (R137). -/
theorem length_entryBytes (es : List Qword) : (es.flatMap wordBytes).length = 8 * es.length := by
  simp [List.length_flatMap, Nat.mul_comm]

/-- Entry `k` stands 8 `k` bytes in. -/
theorem leAt_entryBytes (es : List Qword) (k : Nat) (inside : k < es.length) :
    leAt (8 * k) 8 (es.flatMap wordBytes) = es[k].toNat := by
  induction es generalizing k with
  | nil => cases inside
  | cons x es ih =>
    rw [List.flatMap_cons]
    cases k with
    | zero => exact (leAt_front 8 x.toNat _).trans (Nat.mod_eq_of_lt x.isLt)
    | succ k =>
      rw [leAt_behind 8 _ (by simp [Nat.mul_succ]), length_wordBytes]
      simpa [Nat.mul_succ] using ih k (by simpa using inside)

theorem imageHead_fields (l : PlantedList) (rest : List Byte) : let bs := imageHead l ++ rest
    leAt 0 1 bs = 1 ∧ leAt 1 1 bs = l.listId % 256 ∧ leAt 2 2 bs = l.entries.length % 65536
      ∧ leAt 4 2 bs = l.deadline % 65536 ∧ leAt 6 1 bs = l.holding.val ∧ leAt 7 9 bs = 0 := by
  refine ⟨?version, ?listId, ?count, ?deadline, ?tag, ?reserved⟩
  all_goals simp [imageHead, leAt_behind, leAt_front]
  case tag => omega

theorem imagesReadBack_holds : Claim.imagesReadBack := by
  intro l rId rCount rDeadline
  obtain ⟨version, listId, count, deadline, tag, reserved⟩ := imageHead_fields l (l.entries.flatMap wordBytes)
  rw [Nat.mod_eq_of_lt rId] at listId
  rw [Nat.mod_eq_of_lt rCount] at count
  rw [Nat.mod_eq_of_lt rDeadline] at deadline
  have length : (imageBytes l).length = 16 + 8 * l.entries.length := by
    rw [imageBytes_eq, List.length_append, length_imageHead, length_entryBytes]
  have entries : (List.range l.entries.length).map (fun k => BitVec.ofNat 64 (leAt (16 + 8 * k) 8 (imageBytes l)))
      = l.entries := by
    refine List.ext_getElem (by simp) fun k _ inside => ?_
    rw [List.getElem_map, List.getElem_range, imageBytes_eq, leAt_behind 8 _ (by simp), length_imageHead,
      Nat.add_sub_cancel_left, leAt_entryBytes _ _ inside, BitVec.ofNat_toNat, BitVec.setWidth_eq]
  rw [← imageBytes_eq] at version listId count deadline tag reserved
  rw [parseImage, count]
  simp only [length, if_true, version, listId, deadline, tag, reserved, entries]

end Sys2Proof.Machine

namespace Sys2Proof

/-- Settles O9: the header's fields stand at fixed places, and entry `k` behind the `k` entries before it. -/
theorem reapImagesReadBack : Obligations.ReapImagesReadBack := Machine.imagesReadBack_holds

end Sys2Proof
end


section
/-! Trip rules (R160, R161): what it is for masked fields to agree, and for a rule to match. -/

namespace Sys2Proof.Machine

open Sys2Proof.Claim

/-- Two fields agree under a mask where they agree on every bit that it sets. -/
theorem masked_agree {w : Nat} (x v m : BitVec w) :
    (x ^^^ v) &&& m = 0 ↔ ∀ i < w, m.getLsbD i = true → x.getLsbD i = v.getLsbD i := by
  rw [BitVec.eq_of_getLsbD_eq_iff]
  refine forall₂_congr fun i inside => ?_
  cases set : m.getLsbD i
  · simp [set]
  · simp [set]

theorem rulesMatchR161_holds : Claim.rulesMatchR161 := by
  intro r a
  simp only [ruleHits, Bool.and_eq_true, Bool.or_eq_true, beq_iff_eq, decide_eq_true_eq, masked_agree, and_assoc]
  have device : (∀ i < 20, (fld r 32 20).getLsbD i = true → a.dev.getLsbD i = (fld r 0 20).getLsbD i) ↔
      ∀ i < 20, r.getLsbD (32 + i) = true → a.dev.getLsbD i = r.getLsbD i := by
    refine forall₂_congr fun i inside => ?_
    simp [inside]
  have endpoint : (∀ i < 4, (fld r 52 4).getLsbD i = true → a.ep.getLsbD i = (fld r 20 4).getLsbD i) ↔
      ∀ i < 4, r.getLsbD (52 + i) = true → a.ep.getLsbD i = r.getLsbD (20 + i) := by
    refine forall₂_congr fun i inside => ?_
    simp [inside]
  rw [device, endpoint]
  simp only [or_assoc]

end Sys2Proof.Machine

namespace Sys2Proof

/-- Settles O13: each conjunct of `ruleHits` is one condition of R161, the masked ones bit by bit. -/
theorem tripRulesMatch : Obligations.TripRulesMatch := Machine.rulesMatchR161_holds

end Sys2Proof
end


section
/-! Ring positions (R151, R165, R176, R193): advancing, free space, release words. -/

namespace Sys2Proof.Machine

open Sys2Proof.Claim

section Advance

variable {size a b : Nat} {r : RingPos}

theorem ringAdv_inside (fits : r.at_ + a < size) : ringAdv r a size = { r with at_ := r.at_ + a } := if_pos fits

/-- An advance to or past the end inverts the phase. -/
theorem ringAdv_wraps (past : size ≤ r.at_ + a) : ringAdv r a size = { at_ := r.at_ + a - size, phase := !r.phase } :=
  if_neg past.not_gt

theorem ringAdv_at (inside : r.at_ < size) (most : a ≤ size) : (ringAdv r a size).at_ = (r.at_ + a) % size := by
  rcases Nat.lt_or_ge (r.at_ + a) size with fits | past
  · rw [ringAdv_inside fits, Nat.mod_eq_of_lt fits]
  · rw [ringAdv_wraps past, Nat.mod_eq_sub_mod past, Nat.mod_eq_of_lt (by omega)]

theorem ringAdv_lt (inside : r.at_ < size) (most : a ≤ size) : (ringAdv r a size).at_ < size := by
  rw [ringAdv_at inside most]
  exact Nat.mod_lt _ (by omega)

theorem ringAdv_phase : (ringAdv r a size).phase = (r.phase != decide (size ≤ r.at_ + a)) := by
  rcases Nat.lt_or_ge (r.at_ + a) size with fits | past
  · simp [ringAdv_inside fits, Nat.not_le.mpr fits]
  · simp [ringAdv_wraps past, past]

/-- Advances add up: of two that make one turn at most, one at most passes the end. -/
theorem ringAdv_ringAdv (inside : r.at_ < size) (most : a + b ≤ size) :
    ringAdv (ringAdv r a size) b size = ringAdv r (a + b) size := by
  rcases Nat.lt_or_ge (r.at_ + a) size with fits | past
  · rw [ringAdv_inside fits]
    simp only [ringAdv, Nat.add_assoc]
  · have short : r.at_ + a - size + b < size := by omega
    rw [ringAdv_wraps past, ringAdv_wraps (show size ≤ r.at_ + (a + b) by omega), ringAdv_inside short,
      RingPos.mk.injEq]
    exact ⟨by simp only; omega, rfl⟩

/-- What was advanced since the release is not free. -/
theorem ringFree_ringAdv (most : a ≤ size) : ringFree size (ringAdv r a size) r = size - a := by
  rcases Nat.lt_or_ge (r.at_ + a) size with fits | past
  · simp [ringAdv_inside fits, ringFree]
  · simp [ringAdv_wraps past, ringFree]
    omega

end Advance

/-- The phase bit stands above the position in a release word. -/
theorem release_fields {n : Nat} (p : Bool) (small : n < 2 ^ 31) : fldN (BitVec.ofNat 64 (n + 2 ^ 32 * b2n p)) 33 31 = 0
    ∧ fldN (BitVec.ofNat 64 (n + 2 ^ 32 * b2n p)) 0 32 = n
    ∧ bitOf (BitVec.ofNat 64 (n + 2 ^ 32 * b2n p)) 32 = p := by
  have value : (BitVec.ofNat 64 (n + 2 ^ 32 * b2n p)).toNat = n + 2 ^ 32 * b2n p := by
    have : b2n p ≤ 1 := by cases p <;> decide
    rw [BitVec.toNat_ofNat]
    omega
  simp only [fldN, bitOf, BitVec.getLsbD, BitVec.extractLsb'_toNat, value, Nat.shiftRight_eq_div_pow,
    Nat.testBit_eq_decide_div_mod_eq]
  cases p
  · simp [b2n]
    omega
  · simp [b2n]
    omega

theorem ringPositions_holds : Claim.ringPositions := by
  intro size r a b inside
  refine ⟨fun most => ⟨ringAdv_lt inside most, ringAdv_at inside most, ringAdv_phase⟩, ringAdv_ringAdv inside,
    fun most => ⟨ringFree_ringAdv most, ?since⟩, fun small unit aligned => ?word⟩
  case since =>
    rw [← ringAdv_ringAdv inside most]
    exact ringFree_ringAdv (by omega)
  case word =>
    obtain ⟨reserved, position, phase⟩ := release_fields r.phase (show r.at_ < 2 ^ 31 by omega)
    have multiple : r.at_ % unit = 0 := Nat.mod_eq_zero_of_dvd aligned
    simp only [releaseOf, reserved, position, phase]
    simp [inside, multiple]

end Sys2Proof.Machine

namespace Sys2Proof

/-- Settles O16: an advance passes the end at most once, so two in a row are one, and the space between is what was
advanced. -/
theorem ringPositionsAddUp : Obligations.RingPositionsAddUp := Machine.ringPositions_holds

end Sys2Proof
end


section
/-! The rings of a holding and the trip rules (R148, R160, R162, R164, R213): CREATE SHEAF RING, CREATE ALARM RING, SET TRIP
RULE. -/

namespace Sys2Proof.Machine

open Sys2Proof.Claim Sys2Proof.Safety

/-! ## CREATE SHEAF RING (R148) -/

theorem createSheafRing_holds : Claim.createSheafRing := by
  refine ⟨fun s src c ok => ?make, fun s src c r ok => ?remove⟩
  case make =>
    obtain ⟨taken, idle, aligned, power, least, most, release, nonzero, bound, new, thawed, room⟩ := ok
    have sized : cf c 40 0 64 ≠ 0 := by omega
    show execCreateSheafRing src s = _
    refine (taken_concludes taken idle (by nofun) rfl rfl (by simp [sized]) rfl ?_).trans ?_
    · simp [cSheafParams, aligned, power, Nat.not_lt.mpr least, Nat.not_lt.mpr most, release, nonzero, Nat.not_lt.mpr bound,
        new, frozenCheck, thawed, room, sized]
    · simp only [cSheafParams, sized, if_false, concluded_ok]
  case remove =>
    obtain ⟨taken, idle, size, found, staying, thawed⟩ := ok
    have clock : (shadow (.sheafRing src.fn (cf c 56 0 8) none) (after s src)).clk = s.eng.clk :=
      (congrArg Rest.clk (shadow_rest ..)).trans (congrArg Rest.clk (takeCommand_rest ..))
    have concludes : execCreateSheafRing src s = _ :=
      taken_concludes taken idle (by nofun) rfl rfl (by simp [size]) rfl (by
        simp [cSheafParams, size, found, staying, frozenCheck, thawed])
    simp only [cSheafParams, size, if_true, concluded_ok, clock] at concludes
    refine ⟨fun retired => concludes.trans ?_, fun waits => concludes.trans ?_⟩
    · rw [if_pos retired]; rfl
    · rw [if_neg (Bool.eq_false_iff.mp waits)]

/-! ## CREATE ALARM RING (R164) -/

theorem createAlarmRing_holds : Claim.createAlarmRing := by
  refine ⟨fun s src c ok => ?make, fun s src c ok => ?remove⟩
  case make =>
    obtain ⟨taken, idle, all, aligned, power, least, most, release, new, thawed⟩ := ok
    have sized : cf c 40 0 32 ≠ 0 := by omega
    show execCreateAlarmRing src s = _
    refine (taken_concludes taken idle (by nofun) rfl rfl (by simp [sized]) rfl ?_).trans ?_
    · simpa [cAlarmParams, aligned, power, Nat.not_lt.mpr least, Nat.not_lt.mpr most, release, new, frozenCheck, thawed,
        sized] using all
    · simp only [cAlarmParams, sized, if_false, concluded_ok]
  case remove =>
    obtain ⟨taken, idle, size, own_, found, thawed⟩ := ok
    show execCreateAlarmRing src s = _
    refine (taken_concludes taken idle (by nofun) rfl rfl (by simp [size]) rfl ?_).trans ?_
    · simp [cAlarmParams, size, own_, found, frozenCheck, thawed]
    · simp only [cAlarmParams, size, if_true, concluded_ok]

/-! ## SET TRIP RULE (R160, R162) -/

/-- The TRIPPED bits cleared and the outputs disarmed and armed that a SET TRIP RULE names, in this order (R213). -/
def setOutputs (c : BitVec 512) (p : Pins) : Pins :=
  { p with
    tripped := p.tripped &&& ~~~(fld c 288 4), armed := (p.armed &&& ~~~(fld c 284 4)) ||| fld c 280 4 }

/-- Loading a rule leaves the pins. -/
theorem ruled_pins (s : State) (src : AdminSrc) (c : BitVec 512) : (ruled s src c).pins = s.eng.pins := by
  have taken : (after s src).pins = s.eng.pins := congrArg Rest.pins (takeCommand_rest ..)
  unfold ruled
  split
  · exact (congrArg Rest.pins (mirror_rest ..)).trans taken
  · exact taken

theorem setTripRule_holds : Claim.setTripRule := by
  rintro s src c ⟨taken, idle, fromPf, apart⟩
  refine ⟨{ ruled s src c with pins := setOutputs c (ruled s src c).pins }, ?runs, ?outputs, ?rule⟩
  case runs =>
    show execSetTripRule src s = _
    exact (taken_concludes taken idle (fun _ => fromPf) rfl rfl rfl rfl (by simp [apart])).trans rfl
  case outputs => rw [ruled_pins]; rfl
  case rule => rw [← ruled_pins s src c]

end Sys2Proof.Machine

namespace Sys2Proof

open Sys2Proof.Machine

/-- Settles O26: each command passes its checks; the rings by whether the command makes one, the trip outputs by what the
rule that it loads leaves of the pins. -/
theorem ringAndTripCommandsComplete : Obligations.RingAndTripCommandsComplete :=
  ⟨createSheafRing_holds, createAlarmRing_holds, setTripRule_holds⟩

end Sys2Proof
end


section
/-! What the end of a command can do to the engine (R204, R205, R209, R215, R218, R225, R243): a relation that holds over the
few updates of which replies are made holds over the whole end. -/

namespace Sys2Proof.Machine

/-- A relation between engines that holds over each update of which replies are made: firmware's record of a function, logs
and degradation aside, a counter, a vector, a host request, a completion on CQ 0. -/
structure OverReplies (R : Engine → Engine → Prop) : Prop where
  refl : ∀ e, R e e
  trans : ∀ {a b c}, R a b → R b c → R a c
  record : ∀ h f e, (∀ x, (f x).log = x.log ∧ (f x).degraded = x.degraded) → R e (modFn h f e)
  count : ∀ k e, R e (countDev k e)
  vector : ∀ h f e, R e (modPfn h f e)
  host : ∀ o e, R e (emitHost o e)
  push : ∀ h c e, R e (pushCompletion h 0 c e)

namespace OverReplies

variable {R : Engine → Engine → Prop} (rel : OverReplies R)
include rel

theorem of_forAll {α : Type} (l : List α) (f : α → Engine → Engine) (e : Engine) (step : ∀ x e, R e (f x e)) :
    R e (forAll l f e) := by
  induction l generalizing e with
  | nil => exact rel.refl e
  | cons x l ih => exact rel.trans (step x e) (ih (f x e))

theorem of_whenE (c : Bool) (f : Engine → Engine) (e : Engine) (step : ∀ e, R e (f e)) : R e (whenE c f e) := by
  cases c
  · exact rel.refl e
  · exact step e

theorem of_hostWrite (h : Fn) (a : Qword) (d : List Byte) (r : Bool) (e : Engine) : R e (hostWrite h a d r e) := by
  unfold hostWrite
  split
  · exact rel.refl e
  · split
    · exact rel.record _ _ _ fun _ => ⟨rfl, rfl⟩
    · exact rel.of_forAll _ _ _ fun x e => rel.host _ _

theorem of_msix (h : Fn) (v : Nat) (e : Engine) : R e (msix h v e) := by
  unfold msix
  split
  · exact rel.refl e
  · split
    · exact rel.vector ..
    · exact rel.host ..

theorem of_recordOnce (f : Fn) (c : BitVec 512) (st : Byte) (d : Dword) (e : Engine) : R e (recordOnce f c st d e) := by
  unfold recordOnce
  split
  · exact rel.record _ _ _ fun _ => ⟨rfl, rfl⟩
  · exact rel.refl e

theorem of_account (h : Fn) (o : Outcome) (e : Engine) : R e (account h o e) := by
  unfold account
  split
  · exact rel.count ..
  · exact rel.record _ _ _ fun _ => ⟨rfl, rfl⟩

theorem of_mailbox (h : Fn) (f : Mailbox → Mailbox) (e : Engine) : R e (modMbx h f e) :=
  rel.record _ _ _ fun _ => ⟨rfl, rfl⟩

theorem of_mailboxReply (f : Fn) (c : BitVec 512) (st : Byte) (d : Dword) (data : List Byte) (w : Bool) (e : Engine) :
    R e (mailboxReply f c st d data w e) :=
  rel.trans (rel.of_mailbox ..) (rel.of_whenE _ _ _ (rel.of_msix f 0))

theorem of_writeResponse (f : Fn) (c : BitVec 512) (data : List Byte) (e : Engine) : R e (writeResponse f c data e) := by
  unfold writeResponse
  dsimp only
  split
  · exact rel.refl e
  · exact rel.of_hostWrite ..

theorem of_reply (src : AdminSrc) (c : BitVec 512) (st : Byte) (d : Dword) (data : List Byte) (w : Bool) (e : Engine) :
    R e (reply src c st d data w e) := by
  refine rel.trans (rel.of_writeResponse src.fn c data e) ?_
  cases src with
  | mailbox f => exact rel.of_mailboxReply ..
  | queue f unit =>
    unfold reply
    dsimp only
    split
    · exact rel.of_account ..
    · exact rel.push ..

theorem of_finish (src : AdminSrc) (c : BitVec 512) (st : Byte) (d : Dword) (data : List Byte) (w : Bool) (e : Engine) :
    R e (finish src c st d data w e) :=
  rel.trans (rel.of_recordOnce ..) (rel.of_reply ..)

theorem of_endDiscarded (r : Running) (kept : Bool) (st : Byte) (d : Dword) (e : Engine) :
    R e (endDiscarded r kept st d e) :=
  rel.trans (rel.of_recordOnce ..) (rel.trans (rel.of_account ..) (rel.of_whenE _ _ _ (rel.of_mailbox _ _)))

/-- The end of a started command takes it off the list too. -/
theorem of_endCommand (running : ∀ l e, R e { e with fw := { e.fw with running := l } }) (r : Running) (st : Byte)
    (d : Dword) (data : List Byte) (w : Bool) (e : Engine) : R e (endCommand r st d data w e) := by
  unfold endCommand
  split
  · exact running ..
  · refine rel.trans (running (e.fw.running.erase r) e) ?_
    dsimp only
    split
    · exact rel.of_endDiscarded ..
    · exact rel.of_finish ..

theorem of_finishWaiting (running : ∀ l e, R e { e with fw := { e.fw with running := l } }) (p : Running → Bool)
    (st : Byte) (d : Dword) (data : List Byte) (w : Bool) (e : Engine) : R e (finishWaiting p st d data w e) := by
  unfold finishWaiting
  split
  · exact rel.refl e
  · exact rel.of_endCommand running ..

end OverReplies

end Sys2Proof.Machine
end


section
/-! Completions (R151, R188 to R194, R228, R354): the completion writer, moderation, unmasked vectors, condition notes and
release words. -/

namespace Sys2Proof.Machine

open Sys2Proof.Claim

/-! ## Moderation and vectors (R194, R354) -/

theorem cqModerationTimeout_holds : Claim.cqModerationTimeout := by
  rintro s f cq q ⟨found, messages, timed, unsent⟩
  refine ⟨fun none_ => ?_, fun formed => ?_⟩
  · show execCqModerationTimeout f cq s = _
    exact onEng_of (by simp [found, messages, timed, unsent, none_])
  · show execCqModerationTimeout f cq s = _
    exact onEng_of (by simp [found, messages, timed, unsent, formed])

theorem msixUnmask_holds : Claim.msixUnmask := by
  refine fun s f v => ⟨fun pending free => ?_, fun idle => ?_⟩
  · show execMsixUnmask f v s = _
    exact onEng_of (by simp [pending, free, whenE])
  · show execMsixUnmask f v s = _
    exact onEng_of (by simp [idle, whenE])

/-! ## Condition notes (R228) -/

/-- CQ 0 once a note has been written to it without a message. -/
def Cq.wroteNote (q : Cq) (jw : Settle) : Cq :=
  { q with
    write := ringAdv q.write 1 q.par.size, settled := if jw == .settled then ringAdv q.write 1 q.par.size else q.settled
    sinceMsg := q.sinceMsg + 1 }

theorem conditionNoteWrite_holds : Claim.conditionNoteWrite := by
  rintro s f q ⟨waiting, sent, found, room, quiet⟩
  refine ⟨_, q.wroteNote s.eng.justWritten, ?runs, rfl, rfl, rfl, rfl, rfl⟩
  show execConditionNoteWrite f s = _
  refine onEng_of ?_
  have unwritten : ((modFn f (fun x => { x with condDue := false }) s.eng).fn f).note.isNone = false := by
    simpa [Engine.fn] using waiting
  have there : mget ((modFn f (fun x => { x with condDue := false }) s.eng).hold f).cqs 0 = some q := found
  simp only [unwritten, there, Nat.not_le.mpr room, quiet, sent, Bool.false_eq_true, if_false, whenE_false,
    Bool.false_and, Bool.not_false, Bool.and_true]
  rfl

/-! ## Release words (R151, R193) -/

theorem takeRelease_formed {f : Fn} {kind num size unit : Nat} {w : Qword} {store : RingPos → Engine → Engine} {e : Engine}
    {p : RingPos} (formed : releaseOf w size unit = some p) : takeRelease f kind num size unit w store e = store p e := by
  simp only [takeRelease, formed]

theorem takeRelease_malformed {f : Fn} {kind num size unit : Nat} {w : Qword} {store : RingPos → Engine → Engine}
    {e : Engine} (malformed : releaseOf w size unit = none) : takeRelease f kind num size unit w store e =
      attn f 0x19 0 0 (BitVec.ofNat 32 kind) (BitVec.ofNat 32 num) false e := by
  simp only [takeRelease, malformed]

theorem releaseWordReadComplete_holds : Claim.releaseWordReadComplete := by
  intro s f
  refine ⟨fun n q w p ⟨reading, free⟩ found formed => ?frees, fun n q w ⟨reading, free⟩ found malformed => ?logs,
    fun n r w p ⟨reading, free⟩ found formed => ?sheaf⟩
  case frees =>
    show execReleaseWordReadComplete f (.cq n) (some w) s = _
    exact onEng_of (by simp only [takeRead_reading reading, found, brought_free free, takeRelease_formed formed])
  case logs =>
    show execReleaseWordReadComplete f (.cq n) (some w) s = _
    exact onEng_of (by
      simp only [takeRead_reading reading, found, brought_free free, takeRelease_malformed malformed]
      rfl)
  case sheaf =>
    have stays : (modRing f n (fun r => { r with reread := r.reread.map fun _ => true })
        (landed s (.release f (.sheaf n)))).held f = false := free
    show execReleaseWordReadComplete f (.sheaf n) (some w) s = _
    exact onEng_of (by simp only [takeRead_reading reading, found, brought_free stays, takeRelease_formed formed])

/-! ## COMPLETION WRITE (R188, R190, R193) -/

/-- Write position and parameters of a CQ. -/
def cqPlace (f : Fn) (n : Nat) (e : Engine) : Option (RingPos × CqParams) :=
  (mget (e.hold f).cqs n).map fun q => (q.write, q.par)

theorem cqPlace_congr {f : Fn} {n : Nat} {e e' : Engine} (same : e'.holdings = e.holdings) :
    cqPlace f n e' = cqPlace f n e := by
  simp only [cqPlace, Engine.hold, same]

theorem cqPlace_modCq {f h : Fn} {n m : Nat} {g : Cq → Cq} (keeps : ∀ q, (g q).write = q.write ∧ (g q).par = q.par)
    (e : Engine) : cqPlace f n (modCq h m g e) = cqPlace f n e := by
  simp only [cqPlace, modCq, Engine.hold, modHold_at]
  split
  · by_cases same : m = n
    · subst same
      simp only [mget_mmod_same, Option.map_map]
      exact congrFun (congrArg Option.map (funext fun q => by simp [keeps q])) _
    · rw [mget_mmod_other _ _ _ _ same]
  · rfl

theorem cqPlace_pushCompletion (f h : Fn) (n m : Nat) (c : Completion) (e : Engine) :
    cqPlace f n (pushCompletion h m c e) = cqPlace f n e :=
  cqPlace_modCq (g := fun q => { q with queue := q.queue ++ [c] }) (fun _ => ⟨rfl, rfl⟩) e

theorem cqPlace_modSq (f h : Fn) (n m : Nat) (g : Sq → Sq) (e : Engine) :
    cqPlace f n (modSq h m g e) = cqPlace f n e := by
  simp only [cqPlace, modSq, Engine.hold, modHold_at]
  split
  · rfl
  · rfl

/-- An engine that has sent more to the host, the CQ standing where it stood. -/
def SentMore (f : Fn) (n : Nat) (e e' : Engine) : Prop :=
  e.out.host <+: e'.out.host ∧ cqPlace f n e' = cqPlace f n e

section SentMore

variable {f : Fn} {n : Nat}

theorem SentMore.refl (e : Engine) : SentMore f n e e := ⟨List.prefix_rfl, rfl⟩

theorem SentMore.trans {a b c : Engine} (ab : SentMore f n a b) (bc : SentMore f n b c) : SentMore f n a c :=
  ⟨ab.1.trans bc.1, bc.2.trans ab.2⟩

/-- A step that touches neither the host stream nor the holdings. -/
theorem sentMore_of {e e' : Engine} (host : e'.out.host = e.out.host) (holdings : e'.holdings = e.holdings) :
    SentMore f n e e' :=
  ⟨host ▸ List.prefix_rfl, cqPlace_congr holdings⟩

/-- The end of a command appends to the host stream and moves no CQ. -/
theorem sentMore_replies : OverReplies (SentMore f n) := by
  constructor
  case refl => exact SentMore.refl
  case trans => exact SentMore.trans
  case record => intro h g e _; exact sentMore_of rfl rfl
  case count => intro k e; exact sentMore_of rfl rfl
  case vector => intro h g e; exact sentMore_of rfl rfl
  case host => intro o e; exact ⟨List.prefix_append .., cqPlace_congr rfl⟩
  case push => intro h c e; exact ⟨List.prefix_rfl, cqPlace_pushCompletion ..⟩

theorem sentMore_journal (r : JournalRecord) (e : Engine) : SentMore f n e (journal r e) :=
  sentMore_of (toPartner_host ..) (toPartner_holdings ..)

theorem readRelease_holdings (h : Fn) (r : RingRef) (a : Qword) (e : Engine) :
    (readRelease h r a e).holdings = e.holdings := by
  unfold readRelease
  split
  · rfl
  · exact hostRead_keeps (·.holdings) (fun _ _ => rfl) (fun _ _ => rfl) ..

theorem sentMore_readRelease (h : Fn) (r : RingRef) (a : Qword) (e : Engine) : SentMore f n e (readRelease h r a e) :=
  ⟨host_prefix_readRelease .., cqPlace_congr (readRelease_holdings ..)⟩

theorem sentMore_sqDrain (h : Fn) (m : Nat) (e : Engine) : SentMore f n e (sqDrain h m e) := by
  unfold sqDrain
  split
  · exact SentMore.refl e
  · split
    · refine SentMore.trans ?_ (sentMore_replies.of_finishWaiting (fun _ _ => sentMore_of rfl rfl) ..)
      exact ⟨List.prefix_rfl, cqPlace_modSq ..⟩
    · exact SentMore.refl e

theorem sentMore_freeRecords (e : Engine) : SentMore f n e (freeRecords e) :=
  SentMore.trans (b := { e with items := e.items.filter fun i => !e.recordDone i }) (sentMore_of rfl rfl)
    (sentMore_replies.of_forAll _ _ _ fun _ e => sentMore_journal _ e)

end SentMore

/-- A message follows the completion: it asks for one, one is due, or as many have been written as moderation counts
(R194). -/
def Cq.messages (q : Cq) (c : Completion) : Bool :=
  q.par.ien && (c.interrupt || q.msgDue || (q.par.modCount != 0 && q.sinceMsg + 1 == q.par.modCount))

/-- The CQ once its oldest formed completion has been written. -/
def Cq.wroteOldest (q : Cq) (c : Completion) (rest : List Completion) (jw : Settle) : Cq :=
  { q with
    queue := rest, write := ringAdv q.write 1 q.par.size, reserved := q.reserved - c.covers.length
    sinceMsg := if q.messages c then 0 else q.sinceMsg + 1
    msgDue := if q.messages c then false else q.msgDue
    settled := if jw == .settled then ringAdv q.write 1 q.par.size else q.settled }

/-- A completion in its entry: dword0 last (R26, R190). -/
def writeEntry (h : Fn) (q : Cq) (c : Completion) (e : Engine) : Engine :=
  hostWrite h (q.par.base + BitVec.ofNat 64 (16 * q.write.at_))
    (leBytes 4 (c.dword0 q.write.phase (e.condOf h) (c.fo || q.adopted))) false
    (hostWrite h (q.par.base + BitVec.ofNat 64 (16 * q.write.at_) + 4)
      (leBytes 4 (c.index % 65536 + 65536 * c.count) ++ wordBytes c.dword2 ++ wordBytes c.tag) false e)

/-- The items that a completion covers know that it has been written. -/
def coveredWritten (h : Fn) (sq : Nat) (c : Completion) (jw : Settle) (e : Engine) : Engine :=
  { e with
    items := lmod (fun i => !i.active && i.jr.holding == h && i.jr.sq == sq && c.covers.contains i.order)
      (fun i => { i with comp := jw }) e.items }

/-- A completion that carries the new code stands for the note that waits, where it shows the whole change (R228). -/
def standForNote (h : Fn) : Engine → Engine :=
  modFn h fun x => { x with note := if x.note == some true then none else x.note }

/-- What follows the entry of a completion: its items know of the write, the partner of the position (R260), the message
that is due goes out, a note may have been stood for (R228), and the SQ may be drained (R196). -/
def afterEntry (h : Fn) (n sq : Nat) (q q' : Cq) (c : Completion) (jw : Settle) (e : Engine) : Engine :=
  sqDrain h sq (standForNote h (whenE (q.messages c) (msix h q.par.vector) (journal
    (.position { kind := .cq, holding := h, num := n, issued := q'.write, settled := q'.settled, sequence := 0 })
    (coveredWritten h sq c jw e))))

theorem sentMore_afterEntry {f : Fn} {n : Nat} (sq : Nat) (q q' : Cq) (c : Completion) (jw : Settle) (e : Engine) :
    SentMore f n e (afterEntry f n sq q q' c jw e) := by
  have items : SentMore f n e (coveredWritten f sq c jw e) := sentMore_of rfl rfl
  have message := fun e => sentMore_replies.of_whenE (R := SentMore f n) (q.messages c) _ e
    (sentMore_replies.of_msix f q.par.vector)
  have note : ∀ e, SentMore f n e (standForNote f e) := fun e => sentMore_of rfl rfl
  exact items.trans ((sentMore_journal ..).trans ((message _).trans ((note _).trans (sentMore_sqDrain ..))))

/-- The release word of a CQ is read where less than half of it is free (R193). -/
def readWhereLow (h : Fn) (n : Nat) (q : Cq) (e : Engine) : Engine :=
  if decide (2 * ringFree q.par.size q.write q.release < q.par.size) then readRelease h (.cq n) q.par.release e else e

theorem sentMore_readWhereLow {f : Fn} {n : Nat} (q : Cq) (e : Engine) : SentMore f n e (readWhereLow f n q e) := by
  unfold readWhereLow
  split
  · exact sentMore_readRelease ..
  · exact SentMore.refl e

theorem writeCompletion_eq {f : Fn} {n : Nat} {q : Cq} {c : Completion} {rest : List Completion} {e : Engine}
    (found : mget (e.hold f).cqs n = some q) (known : q.probing = false) (queue : q.queue = c :: rest) :
    let q' := q.wroteOldest c rest e.justWritten
    writeCompletion f n e = readWhereLow f n q' (afterEntry f n (if 4096 ≤ n then c.sq + 4096 else c.sq) q q' c
      e.justWritten (modCq f n (fun _ => q') (writeEntry f q c e))) := by
  have oldest : (if q.probing then [] else q.queue) = c :: rest := by simp [known, queue]
  simp only [writeCompletion, found, oldest]
  rfl

section Entry

variable {s : State} {f : Fn} {n : Nat} {q : Cq} {c : Completion}

/-- The two writes of an entry, dword0 last, where nothing stops them. -/
theorem writeEntry_open (free : s.eng.held f = false) (unfenced : s.eng.fw.fenced = false) :
    writeEntry f q c s.eng = hostAppend
      (writes s f (q.par.base + BitVec.ofNat 64 (16 * q.write.at_) + 4)
        (leBytes 4 (c.index % 65536 + 65536 * c.count) ++ wordBytes c.dword2 ++ wordBytes c.tag) ++
      writes s f (q.par.base + BitVec.ofNat 64 (16 * q.write.at_))
        (leBytes 4 (c.dword0 q.write.phase (s.eng.condOf f) (c.fo || q.adopted)))) s.eng := by
  have later : ∀ l, (hostAppend l s.eng).held f = false := fun _ => free
  rw [writeEntry, hostWrite_open free unfenced rfl, hostWrite_open (later _) unfenced rfl, hostAppend_append]

theorem cqPlace_modCq_const {e : Engine} (found : mget (e.hold f).cqs n = some q) (q' : Cq) :
    cqPlace f n (modCq f n (fun _ => q') e) = some (q'.write, q'.par) := by
  simp [cqPlace, modCq, Engine.hold, show mget e.holdings[f.val].cqs n = some q from found]

end Entry

theorem completionWrite_holds : Claim.completionWrite := by
  rintro s f cq q c rest ⟨found, known, queue, unfenced, out, free⟩
  let q' := q.wroteOldest c rest s.eng.justWritten
  have wrote := writeCompletion_eq found known queue
  have entry := writeEntry_open (q := q) (c := c) free unfenced
  have there : mget ((writeEntry f q c s.eng).hold f).cqs cq = some q := by rw [entry]; exact found
  obtain ⟨host, place⟩ : SentMore f cq (modCq f cq (fun _ => q') (writeEntry f q c s.eng))
      (freeRecords (writeCompletion f cq s.eng)) := by
    rw [wrote]
    exact (sentMore_afterEntry ..).trans ((sentMore_readWhereLow ..).trans (sentMore_freeRecords _))
  rw [cqPlace_modCq_const there] at place
  obtain ⟨q'', now, same⟩ := Option.map_eq_some_iff.mp place
  obtain ⟨write, par⟩ := Prod.mk.inj same
  refine ⟨_, q'', ?runs, now, write, par, ?sent⟩
  case runs =>
    show execCompletionWrite f cq s = _
    exact onEng_of (by simp only [unfenced, out, Bool.or_self, Bool.false_eq_true, if_false])
  case sent =>
    rw [entry] at host
    rw [List.append_assoc]
    exact host

end Sys2Proof.Machine

namespace Sys2Proof

open Sys2Proof.Machine

/-- Settles O35: the completion writer by what its entry puts into the host stream and what follows it leaves alone, the others
by the state that they find. -/
theorem completionsComplete : Obligations.CompletionsComplete :=
  ⟨completionWrite_holds, cqModerationTimeout_holds, msixUnmask_holds, conditionNoteWrite_holds,
    releaseWordReadComplete_holds⟩

end Sys2Proof
end


section
/-! Rebuilding a group (R153) changes no holding's active conditions (R192): it plants and clears lists, publishes slots and
may end the command that asked for it. -/

namespace Sys2Proof.Machine

/-- A holding's freeze is all of it that its conditions see. -/
theorem modHold_conds {h : Fn} {f : Holding → Holding} (keeps : ∀ x, (f x).freeze = x.freeze) (e : Engine) :
    (modHold h f e).conds = e.conds := by
  funext g
  have same : ((modHold h f e).hold g).freeze = (e.hold g).freeze := by
    simp only [Engine.hold, modHold_at]
    split
    · exact keeps _
    · rfl
  unfold Engine.conds
  rw [same]
  rfl

/-- Log and degradation are all of firmware's record of a function that its conditions see. -/
theorem modFn_conds {h : Fn} {f : FnState → FnState}
    (keeps : ∀ x, (f x).log = x.log ∧ (f x).degraded = x.degraded) (e : Engine) : (modFn h f e).conds = e.conds := by
  funext g
  obtain ⟨log, degraded⟩ : ((modFn h f e).fn g).log = (e.fn g).log
      ∧ ((modFn h f e).fn g).degraded = (e.fn g).degraded := by
    simp only [Engine.fn, modFn_at]
    split
    · exact keeps _
    · exact ⟨rfl, rfl⟩
  unfold Engine.conds
  rw [log, degraded]
  rfl

/-- The end of a command changes no conditions. -/
theorem conds_replies : OverReplies fun e e' => e'.conds = e.conds := by
  constructor
  case refl => intro e; rfl
  case trans => intro a b c ab bc; exact bc.trans ab
  case record => intro h f e keeps; exact modFn_conds keeps e
  case count => intro k e; rfl
  case vector => intro h f e; rfl
  case host => intro o e; rfl
  case push => intro h c e; exact modHold_conds (by intro; rfl) e

@[simp] theorem hostWrite_conds (h : Fn) (a : Qword) (d : List Byte) (r : Bool) (e : Engine) :
    (hostWrite h a d r e).conds = e.conds := conds_replies.of_hostWrite ..

@[simp] theorem finishWaiting_conds (p : Running → Bool) (st : Byte) (d : Dword) (data : List Byte) (w : Bool)
    (e : Engine) : (finishWaiting p st d data w e).conds = e.conds := conds_replies.of_finishWaiting (fun _ _ => rfl) ..

@[simp] theorem shadow_conds (r : ShadowRecord) (e : Engine) : (shadow r e).conds = e.conds :=
  whenE_keeps (·.conds) _ _ e fun _ => rfl

@[simp] theorem takeCommand_conds (src : AdminSrc) (e : Engine) : (takeCommand src e).conds = e.conds :=
  takeCommand_keeps (·.conds) src (fun _ _ => rfl) (fun _ _ => rfl) (fun _ _ => rfl)
    (fun _ _ => modHold_conds (by intro; rfl) _) (fun _ _ => modFn_conds (by intro; exact ⟨rfl, rfl⟩) _) e

/-! ## Lists and slots -/

@[simp] theorem addXferTo_conds (d : DevNum) (s : BitVec 96) (o : List Byte) (u : Purpose) (e : Engine) :
    (addXferTo d s o u e).conds = e.conds := by
  unfold addXferTo
  split
  · rfl
  · rfl

@[simp] theorem plantXfer_conds (l : PlantedList) (u : Purpose) (e : Engine) : (plantXfer l u e).conds = e.conds :=
  addXferTo_conds ..

@[simp] theorem recordList_conds (l : PlantedList) (e : Engine) : (recordList l e).conds = e.conds :=
  (shadow_conds ..).trans rfl

@[simp] theorem clearLists_conds (q : PlantedList → Bool) (g : BitVec 48) (e : Engine) :
    (clearLists q g e).conds = e.conds := by
  unfold clearLists
  exact (forAll_keeps (·.conds) _ _ _ fun l e => (shadow_conds ..).trans (addXferTo_conds ..)).trans rfl

@[simp] theorem readTableOf_conds (d : DevNum) (e : Engine) : (readTableOf d e).conds = e.conds := by
  unfold readTableOf
  split
  · rfl
  · exact addXferTo_conds ..

@[simp] theorem publishSlot_conds (h : Fn) (slot : Nat) (e : Engine) : (publishSlot h slot e).conds = e.conds := by
  have retired : (modHold h (fun x => x.retireWork slot e.frame32 e.clk.retired) e).conds = e.conds :=
    modHold_conds (by intro; rfl) e
  unfold publishSlot
  split
  · rfl
  · dsimp only
    split
    · rw [hostWrite_conds, retired]
    · rw [hostWrite_conds, hostWrite_conds]
      exact (modHold_conds (by intro; rfl) _).trans retired

@[simp] theorem publish_conds (h : Fn) (phase interval : Nat) (e : Engine) :
    (publish h phase interval e).conds = e.conds :=
  forAll_keeps (·.conds) _ _ e fun slot e => publishSlot_conds h slot e

/-! ## Building the lists of a group -/

theorem makeList_conds {h : Fn} {n : Nat} {hub : DevNum} {es : List Qword} {e : Engine} {x : PlantedList × Engine}
    (makes : makeList h n hub es e = some x) : x.2.conds = e.conds := by
  unfold makeList at makes
  split at makes
  · cases makes
  · simp only [Option.some.injEq] at makes
    rw [← makes, recordList_conds, hostWrite_conds]
    rfl

theorem makeLists_conds {h : Fn} {n : Nat} {hub : DevNum} {ls : List (List Qword)} {e : Engine} {x : Tops × Engine}
    (makes : makeLists h n hub ls e = some x) : x.2.conds = e.conds := by
  refine foldl_option_keeps (fun x : Tops × Engine => x.2.conds) _ (fun _ => rfl) ?_ ls ([], e) x makes
  rintro ⟨done, e⟩ es y made
  obtain ⟨z, list, rfl⟩ := Option.map_eq_some_iff.mp made
  exact makeList_conds list

theorem stripeHub_conds {h : Fn} {n : Nat} {hub : DevNum} {a b : Tops × List PlantedList × Engine}
    (makes : stripeHub h n (some a) hub = some b) : b.2.2.conds = a.2.2.conds := by
  simp only [stripeHub] at makes
  split at makes
  · cases makes; rfl
  · split at makes
    · cases makes; rfl
    · obtain ⟨x, lists, rfl⟩ := Option.map_eq_some_iff.mp makes
      exact makeLists_conds lists

theorem buildGroup_conds {h : Fn} {n : Nat} {g : ReapGroup} {e : Engine}
    {x : List (DevNum × Nat) × List PlantedList × Engine} (builds : buildGroup h n g e = some x) :
    x.2.2.conds = e.conds := by
  simp only [buildGroup] at builds
  split at builds
  · cases builds
  next tops e₁ leaves =>
    obtain ⟨y, stripes, rfl⟩ := Option.map_eq_some_iff.mp builds
    have striped : y.2.2.conds = e₁.conds :=
      foldl_option_keeps (fun y : Tops × List PlantedList × Engine => y.2.2.conds) (stripeHub h n) (fun _ => rfl)
        (fun _ _ _ => stripeHub_conds) _ (tops, tops.map (·.2), e₁) y stripes
    refine striped.trans ?_
    refine foldl_option_keeps (fun y : Tops × Engine => y.2.conds) _ (fun _ => rfl) ?_ _ ([], e) (tops, e₁) leaves
    rintro ⟨done, e⟩ hub z made
    obtain ⟨t, lists, rfl⟩ := Option.map_eq_some_iff.mp made
    have kept : t.2.conds = e.conds := makeLists_conds lists
    exact kept

/-! ## Placing and ending a group -/

theorem modGroup_conds (h : Fn) (n : Nat) (f : ReapGroup → ReapGroup) (e : Engine) :
    (modHold h (fun x => { x with groups := mmod f x.groups n }) e).conds = e.conds := modHold_conds (by intro; rfl) e

theorem dropGroup_conds (h : Fn) (n : Nat) (e : Engine) :
    (modHold h (fun x => { x with groups := mdel x.groups n }) e).conds = e.conds := modHold_conds (by intro; rfl) e

theorem placeTops_conds {h : Fn} {n interval : Nat} {l : List (DevNum × Nat)} {e e' : Engine}
    (places : placeTops h n interval l e = some e') : e'.conds = e.conds := by
  induction l generalizing e with
  | nil => cases places; rfl
  | cons x rest ih =>
    simp only [placeTops] at places
    split at places
    · split at places
      · cases places
      · exact (ih places).trans (modHold_conds (by intro; rfl) _)
    · cases places

theorem groupPlanted_conds (h : Fn) (n : Nat) (e : Engine) : (groupPlanted h n e).conds = e.conds := by
  unfold groupPlanted
  split
  · rfl
  · dsimp only
    split
    next placed =>
      rw [finishWaiting_conds, clearLists_conds, publish_conds, modGroup_conds, placeTops_conds placed,
        modGroup_conds]
    · rw [finishWaiting_conds]
      split
      · rw [dropGroup_conds, clearLists_conds, modGroup_conds]
      · rw [clearLists_conds, modGroup_conds]

theorem groupFailed_conds (h : Fn) (n : Nat) (st : Byte) (d : Dword) (e : Engine) :
    (groupFailed h n st d e).conds = e.conds := by
  unfold groupFailed
  split
  · rfl
  · dsimp only
    rw [finishWaiting_conds]
    split
    · rw [dropGroup_conds, clearLists_conds, modGroup_conds]
    · rw [clearLists_conds, modGroup_conds]

theorem startGroup_conds (h : Fn) (n : Nat) (e : Engine) : (startGroup h n e).conds = e.conds := by
  unfold startGroup
  split
  · rfl
  · dsimp only
    split
    · rw [forAll_keeps (·.conds) _ _ _ readTableOf_conds, modGroup_conds, clearLists_conds]
    · split
      · rw [groupFailed_conds, modGroup_conds, clearLists_conds]
      · split
        · rw [groupFailed_conds, modGroup_conds, clearLists_conds]
        next tops ls e₁ builds =>
          have built := buildGroup_conds builds
          split
          · rw [groupPlanted_conds, modGroup_conds, built, modGroup_conds, clearLists_conds]
          · rw [plantGroup, forAll_keeps (·.conds) _ _ _ fun l e => plantXfer_conds .., modGroup_conds, built,
              modGroup_conds, clearLists_conds]

end Sys2Proof.Machine
end


section
/-! Reap lists and groups (R136 to R138, R153 to R155): LOAD REAP LIST, CLEAR REAP LIST, REAP GROUP. -/

namespace Sys2Proof.Machine

open Sys2Proof.Claim Sys2Proof.Safety

/-! ## What leaves the list of running commands alone (R218) -/

/-- The answer of a command leaves firmware's own state. -/
theorem fw_replies : OverReplies fun e e' => e'.fw = e.fw := by
  constructor
  case refl => intro e; rfl
  case trans => intro a b c ab bc; exact bc.trans ab
  case record => intro h f e _; rfl
  case count => intro k e; rfl
  case vector => intro h f e; rfl
  case host => intro o e; rfl
  case push => intro h c e; rfl

@[simp] theorem finish_fw (src : AdminSrc) (c : BitVec 512) (st : Byte) (d : Dword) (data : List Byte) (w : Bool)
    (e : Engine) : (finish src c st d data w e).fw = e.fw := fw_replies.of_finish ..

@[simp] theorem hostWrite_fw (h : Fn) (a : Qword) (d : List Byte) (r : Bool) (e : Engine) :
    (hostWrite h a d r e).fw = e.fw := fw_replies.of_hostWrite ..

@[simp] theorem shadow_fw (r : ShadowRecord) (e : Engine) : (shadow r e).fw = e.fw :=
  whenE_keeps (·.fw) _ _ e fun _ => rfl

@[simp] theorem clearXfer_fw (hub : DevNum) (v : Nat) (e : Engine) : (clearXfer hub v e).fw = e.fw := by
  unfold clearXfer addXferTo
  split
  · rfl
  · rfl

@[simp] theorem clearLists_fw (q : PlantedList → Bool) (g : BitVec 48) (e : Engine) : (clearLists q g e).fw = e.fw := by
  unfold clearLists
  exact forAll_keeps (·.fw) _ _ _ fun l e => by rw [shadow_fw, clearXfer_fw]

@[simp] theorem publish_fw (h : Fn) (phase interval : Nat) (e : Engine) : (publish h phase interval e).fw = e.fw := by
  refine forAll_keeps (·.fw) _ _ e fun slot e => ?_
  unfold publishSlot
  split
  · rfl
  · dsimp only
    split
    · rw [hostWrite_fw]; rfl
    · rw [hostWrite_fw, hostWrite_fw]; rfl

/-! ## LOAD REAP LIST (R137, R138, R154) -/

theorem loadReapList_holds : Claim.loadReapList := by
  rintro s src c bs v u m ⟨taken, idle, bound, hub, free, all, thawed, image, inSet, passes⟩
  have brings : (brought (loading s src c) src.fn (some bs)).filter (fun b => b.length == cf c 48 0 16) = some bs := by
    rw [brought_free free]
    exact if_pos (beq_iff_eq.mpr all)
  show execLoadReapList src (some bs) s = _
  refine (taken_concludes_reading (e := loading s src c) taken idle (by nofun) rfl rfl rfl rfl (readNow_reset ..)
    ?_).trans ?_
  · simp only [bound, hub, brings, List.forall_mem_cons]
    exact ⟨by simp [inSet], thawed, by simpa using passes⟩
  · simp only [Option.getD_some, image, concluded_wait]

/-! ## CLEAR REAP LIST (R155) -/

theorem clearReapList_holds : Claim.clearReapList := by
  rintro s src c u ⟨taken, idle, hub, one, thawed, top⟩
  show execClearReapList src s = _
  refine (taken_concludes taken idle (by nofun) rfl rfl rfl rfl ?_).trans rfl
  simp only [List.forall_mem_cons]
  refine ⟨by simp [hub], ?owner, ?mine, ?named, thawed, top, nofun⟩
  case owner =>
    obtain ⟨v, bound, isHub⟩ := Option.bind_eq_some_iff.mp hub
    simp [bound, isHub]
  case mine =>
    by_cases every : cf c 37 0 1 = 1
    · simp [every]
    · obtain ⟨-, mine⟩ := one every
      cases planted : (after s src).commons.list? (fld c 256 20) (cf c 36 0 8) with
      | none => simp
      | some l => simp [mine l planted]
  case named =>
    by_cases every : cf c 37 0 1 = 1
    · simp [every]
    · simp [(one every).1]

/-! ## REAP GROUP (R153) -/

/-- A REAP GROUP that makes no command wait. -/
theorem execReapGroup_ends {s : State} {src : AdminSrc} {e : Engine} (admin : reapGroupAdmin src s.eng = e)
    (ends : e.fw.running = s.eng.fw.running) : execReapGroup src s = .next { s with eng := noted s.eng e } :=
  onEng_of (by simp [admin, ends])

/-- A REAP GROUP whose command waits for its group builds it. -/
theorem execReapGroup_waits {s : State} {src : AdminSrc} {e : Engine} {r : Running} {h : Fn} {n : Nat}
    (admin : reapGroupAdmin src s.eng = e) (waits : e.fw.running = s.eng.fw.running ++ [r]) (group : r.wait = .group h n) :
    execReapGroup src s = .next { s with eng := noted s.eng (startGroup h n e) } :=
  onEng_of (by simp [admin, waits, group])

/-- The engine once a new group has been recorded under a number and its command waits for it (R218). -/
def groupAdded (s : State) (src : AdminSrc) (c : BitVec 512) (k : Nat) : Engine :=
  concludeAdmin src c (.wait (modHold src.fn (fun x => { x with groups := mput x.groups k (cGroup c) }) (after s src))
    (.group src.fn k))

theorem groupAdded_running (s : State) (src : AdminSrc) (c : BitVec 512) (k : Nat) : (groupAdded s src c k).fw.running =
    s.eng.fw.running ++ [{ src, cmd := c, wait := .group src.fn k }] := by
  simp [groupAdded, concludeAdmin]

theorem groupAdded_conds (s : State) (src : AdminSrc) (c : BitVec 512) (k : Nat) :
    (groupAdded s src c k).conds = s.eng.conds :=
  (modHold_conds (f := fun x => { x with groups := mput x.groups k (cGroup c) }) (fun _ => rfl) (after s src)).trans
    (takeCommand_conds ..)

theorem reapGroupAdmin_adds {s : State} {src : AdminSrc} {c : BitVec 512} {p : PortId} {k : Nat}
    (ok : makeGroupOk s src c p k) : reapGroupAdmin src s.eng = groupAdded s src c k := by
  obtain ⟨taken, idle, power, most, limit, endpoint, last, new, root, hub, inSet, thawed, managed, free⟩ := ok
  have made : cf c 38 0 16 ≠ 0 := by
    intro zero
    simp [isPow2, zero] at power
  refine (taken_runs taken rfl (by nofun) rfl (by simp [made]) (fun _ => idle) rfl ?_).trans ?_
  · simp only [List.forall_mem_cons]
    refine ⟨by simp [new], by simp [cGroup, made], ?form, ?root, ?port, ?owner, thawed, by simp [managed],
      by simp [new], nofun⟩
    case form =>
      simp [cGroup, made, power, Nat.not_lt.mpr most, Nat.not_lt.mpr limit, endpoint, Nat.not_lt.mpr last]
    case root =>
      by_cases port : cf c 32 25 1 = 1
      · simp [cGroup, port]
      · obtain ⟨u, isHub⟩ := Option.isSome_iff_exists.mp (hub port)
        simp [cGroup, port, isHub]
    case port =>
      by_cases port : cf c 32 25 1 = 1
      · have here : finOf 32 (cf c 32 20 5) = p := by simpa [port] using root
        simp [cGroup, port, here, inSet]
      · have here : (after s src).rootOf (fld c 256 20) = some p := by simpa [port] using root
        simp [cGroup, port, here, inSet]
    case owner =>
      by_cases port : cf c 32 25 1 = 1
      · simp [cGroup, port]
      · obtain ⟨u, isHub⟩ := Option.isSome_iff_exists.mp (hub port)
        obtain ⟨v, bound, isHub⟩ := Option.bind_eq_some_iff.mp isHub
        simp [cGroup, port, bound, isHub]
  · simp only [cGroup, made, if_false, free]
    rfl

theorem reapGroup_holds : Claim.reapGroup := by
  refine ⟨fun s src c ok => ?remove, fun s src c p k ok => ?make⟩
  case remove =>
    obtain ⟨taken, idle, interval, known, named, thawed, managed⟩ := ok
    have admin : reapGroupAdmin src s.eng = _ :=
      taken_runs taken rfl (by nofun) rfl (by simp [interval]) (fun _ => idle) rfl (by
        simp [cGroup, interval, known, named, frozenCheck, thawed, managed])
    simp only [cGroup, interval, if_true, concludeAdmin] at admin
    exact ⟨_, execReapGroup_ends admin (by simp), rfl⟩
  case make =>
    refine (execReapGroup_waits (reapGroupAdmin_adds ok) (groupAdded_running s src c k) rfl).trans ?_
    have quiet : (startGroup src.fn k (groupAdded s src c k)).conds = s.eng.conds :=
      (startGroup_conds ..).trans (groupAdded_conds ..)
    rw [noted_same _ _ fun g => congrFun quiet g]
    rfl

end Sys2Proof.Machine

namespace Sys2Proof

open Sys2Proof.Machine

/-- Settles O25: each command passes its checks; a group that is removed leaves no command waiting, one that is made is built
at once, which changes no conditions. -/
theorem reapListCommandsComplete : Obligations.ReapListCommandsComplete :=
  ⟨loadReapList_holds, clearReapList_holds, reapGroup_holds⟩

end Sys2Proof
end


section
/-! IN data over scatter elements (R173, R191): what is written is the data in order, each write inside one element. -/

namespace Sys2Proof.Machine

open Sys2Proof.Claim

/-- The writes carry the data in order, as far as the elements after the offset reach. -/
theorem spread_data (sg : List (Qword × Nat)) (off : Nat) (d : List Byte) :
    (spread sg off d).flatMap (·.2) = d.take ((sg.map (·.2)).sum - off) := by
  induction sg generalizing off d with
  | nil => simp [spread]
  | cons x rest ih =>
    obtain ⟨a, n⟩ := x
    simp only [spread, List.map_cons, List.sum_cons]
    split
    next empty => simp [List.isEmpty_iff.mp empty]
    next =>
      split
      next before =>
        rw [ih, show (rest.map (·.2)).sum - (off - n) = n + (rest.map (·.2)).sum - off by omega]
      next inside =>
        rw [List.flatMap_cons, ih, ← List.take_add]
        congr 1
        omega

/-- Every write lies inside one element. -/
theorem spread_inside {sg : List (Qword × Nat)} {off : Nat} {d : List Byte} {w : Qword × List Byte}
    (written : w ∈ spread sg off d) : ∃ x ∈ sg, ∃ k, w.1 = x.1 + BitVec.ofNat 64 k ∧ k + w.2.length ≤ x.2 := by
  induction sg generalizing off d with
  | nil => cases written
  | cons x rest ih =>
    obtain ⟨a, n⟩ := x
    simp only [spread] at written
    split at written
    · cases written
    · split at written
      · obtain ⟨x, mem, within⟩ := ih written
        exact ⟨x, .tail _ mem, within⟩
      next inside =>
        rcases List.mem_cons.mp written with rfl | later
        · refine ⟨(a, n), .head _, off, rfl, ?_⟩
          have : (d.take (n - off)).length ≤ n - off := List.length_take_le ..
          dsimp only
          omega
        · obtain ⟨x, mem, within⟩ := ih later
          exact ⟨x, .tail _ mem, within⟩

end Sys2Proof.Machine

namespace Sys2Proof

open Sys2Proof.Machine

/-- Settles O14: by induction on the scatter list. -/
theorem dataFillsScatterElements : Obligations.DataFillsScatterElements := fun sg off d =>
  ⟨spread_data sg off d, fun _ written => spread_inside written⟩

end Sys2Proof
end


section
/-! The walk of a fetch read (R182, R183): it takes no entry for which the CQ has no slot. -/

namespace Sys2Proof.Machine

open Sys2Proof.Claim

theorem reservers_append (l m : List Cached) : reservers (l ++ m) = reservers l + reservers m := by
  simp [reservers]

/-- An entry reserves no more than the walk asks for: no slot for a PAD, else one (R183). -/
theorem reservers_taken {us : List (BitVec 256)} {off : Nat} {h : BitVec 256} (head : us[off]? = some h) (unit n : Nat) :
    (reservers [{ unit, units := (us.drop off).take n }] : Int) ≤ if decide (eOpcode h = 0) then 0 else 1 := by
  by_cases pad : eOpcode h = 0
  · obtain ⟨inside, rfl⟩ := List.getElem?_eq_some_iff.mp head
    rw [List.drop_eq_getElem_cons inside]
    cases n with
    | zero => simp [reservers, pad]
    | succ n =>
      rw [List.take_succ_cons]
      simp [reservers, pad]
  · rw [if_neg (by simpa using pad)]
    exact_mod_cast List.length_filter_le _ [_]

/-- With room for `room` more entries the walk adds at most `room` that reserve a slot to what it has taken. -/
theorem walkFetch_reservers (q : Sq) (start : Nat) (us : List (BitVec 256)) (room : Int) (fuel off : Nat)
    (old fresh : List (Nat × Nat × Bool)) (took : List Cached) (some_ : 0 ≤ room) :
    (reservers (walkFetch q start us room fuel off old took fresh).1 : Int) ≤ reservers took + room := by
  induction fuel generalizing room off old fresh took with
  | zero => simpa [walkFetch] using some_
  | succ fuel ih =>
    unfold walkFetch
    dsimp only
    split
    · simpa using some_
    next h head =>
      split
      · simpa using some_
      · have slot := reservers_taken head (start + off) (q.clip (start + off) (eUnits h))
        generalize (if decide (eOpcode h = 0) then (0 : Int) else 1) = need at slot ⊢
        split
        next c pad rest _ =>
          split
          next fits =>
            obtain ⟨-, fits⟩ := Bool.and_eq_true_iff.mp fits
            have enough : need ≤ room := of_decide_eq_true fits
            refine (ih (room - need) _ _ _ _ (by omega)).trans ?_
            rw [reservers_append]
            push_cast
            omega
          · simpa using some_
        · exact ih _ _ _ _ _ some_

end Sys2Proof.Machine

namespace Sys2Proof

open Sys2Proof.Machine

/-- Settles O15: each entry that the walk takes uses up the slot that it reserves. -/
theorem fetchKeepsCompletionSlots : Obligations.FetchKeepsCompletionSlots := fun q start us room fuel off old fresh => by
  have bound := walkFetch_reservers q start us room fuel off old fresh [] (Int.natCast_nonneg room)
  have none_ : Claim.reservers [] = 0 := rfl
  omega

end Sys2Proof
end


section
/-! Queue commands (R168, R169, R180, R181, R196 to R198, R207, R210): SQs and CQs are created, deleted, disabled, enabled,
recalled and tuned. -/

namespace Sys2Proof.Machine

open Sys2Proof.Claim Sys2Proof.Safety

/-! ## A queue after its mirror -/

/-- An unchanged table of holdings holds each holding as it was. -/
theorem hold_congr {e e' : Engine} (same : e'.holdings = e.holdings) (h : Fn) : e'.hold h = e.hold h := by
  simp only [Engine.hold, same]

@[simp] theorem mget_modSq_same (h : Fn) (n : Nat) (f : Sq → Sq) (e : Engine) :
    mget ((modSq h n f e).hold h).sqs n = (mget (e.hold h).sqs n).map f := by
  simp [modSq, Engine.hold]

@[simp] theorem journalSq_holdings (h : Fn) (n : Nat) (q : Sq) (e : Engine) :
    (journalSq h n q e).holdings = e.holdings := toPartner_holdings ..

/-- An SQ whose head mirror has just been written (R179). -/
def Sq.mirrored (q : Sq) : Sq := { q with sinceMirror := 0, mirrorDue := false, mirror := q.head }

/-- Writing the head mirror changes of its SQ only what it records of the write. -/
@[simp] theorem mget_writeMirror (h : Fn) (n : Nat) (e : Engine) :
    mget ((writeMirror h n e).hold h).sqs n = (mget (e.hold h).sqs n).map Sq.mirrored := by
  unfold writeMirror
  split
  next none_ => rw [none_]; rfl
  next q found =>
    rw [hold_congr ((journalSq_holdings ..).trans (hostWrite_holdings ..)), mget_modSq_same, found]
    rfl

/-! ## What the commands share -/

section Named

variable {s : State} {src : AdminSrc} {c : BitVec 512} {q : Sq}

/-- The SQ that a command names. -/
theorem cSq_found (range : cf c 44 0 16 < 4096) (found : mget (own s src).sqs (cf c 44 0 16) = some q) :
    cSq src.fn c (after s src) = some q := by
  rw [cSq, if_pos range, found]

/-- SQ 0 is commanded through the mailbox only (R207). -/
theorem selfSq_passes (admin : cf c 44 0 16 = 0 → src.isMailbox = true) : (selfSq src c).bad = false := by
  simpa [selfSq] using admin

end Named

/-! ## Submission queues -/

/-- Parameters of an SQ in the ranges of R168. -/
theorem sqParams_pass {p : SqParams} (base : p.base.toNat % 4096 = 0) (power : isPow2 p.size = true) (least : 64 ≤ p.size)
    (most : p.size ≤ 1048576) (mirror : p.headMirror.toNat % 8 = 0) (kb : p.kb ≤ 18) (order : p.kb ≤ p.kc)
    (kc : p.kc ≤ 18) : sqParamsBad p = false := by
  simp [sqParamsBad, base, power, least, most, mirror, kb, order, kc]

theorem createSq_holds : Claim.createSq := by
  rintro s src c ⟨taken, idle, range, base, power, least, most, mirror, kb, order, kc, cq, admin,
    thawed, new, quota, credits⟩
  show execCreateSq src s = _
  refine (taken_concludes taken idle (by nofun) rfl rfl rfl rfl ?_).trans rfl
  simp only [List.forall_mem_cons]
  refine ⟨?form, thawed, ?self, new, quota, credits, nofun⟩
  case form =>
    have parameters : sqParamsBad (cSqParams c) = false := sqParams_pass base power least most mirror kb order kc
    have cqZero : cf c 44 0 16 = 0 → (cSqParams c).cq = 0 := fun zero => (admin zero).1
    have bound : mhas (own s src).ownCqs (cSqParams c).cq = true := cq
    simpa [parameters, range, bound] using cqZero
  case self => simpa using fun zero => (admin zero).2

theorem deleteSq_holds : Claim.deleteSq := by
  rintro s src c q ⟨taken, idle, range, found, thawed, admin, disabled, idleSq⟩
  have named := cSq_found range found
  show execDeleteSq src s = _
  refine (taken_concludes taken idle (by nofun) rfl rfl rfl rfl ?_).trans ?_
  · simp only [List.forall_mem_cons]
    exact ⟨by simp [named], thawed, selfSq_passes admin, by simp [named, disabled, idleSq], nofun⟩
  · simp only [named, concluded_ok]
    rfl

theorem disableSq_holds : Claim.disableSq := by
  rintro s src c q ⟨taken, idle, range, found, thawed, admin, running⟩
  have named := cSq_found range found
  have first : (if q.state == .enabled then writeMirror src.fn (cf c 44 0 16) (discard src.fn (cf c 44 0 16) (after s src))
      else after s src) = quiet s src (cf c 44 0 16) q := by
    simp [quiet]
  have runs : exec (.disableSq src) s = _ :=
    taken_concludes (checks := _) taken idle (by nofun) rfl rfl rfl rfl (by
      simp only [List.forall_mem_cons]
      exact ⟨by simp [named], thawed, selfSq_passes admin, by simp [named, running], nofun⟩)
  rw [runs]
  simp only [named, first]
  exact ⟨fun idleSq => by simp [idleSq], fun busy => by simp [busy]⟩

theorem enableSq_holds : Claim.enableSq := by
  rintro s src c q ⟨taken, idle, range, found, thawed, admin, disabled, restart⟩
  have named := cSq_found range found
  have runs : exec (.enableSq src) s = _ :=
    taken_concludes (checks := _) taken idle (by nofun) rfl rfl rfl rfl (by
      simp only [List.forall_mem_cons]
      exact ⟨by simp [named], thawed, selfSq_passes admin, by simpa [named, disabled] using restart, nofun⟩)
  rw [runs]
  simp only [named, disabled]
  exact ⟨fun on => by simp [on, found], fun again => by simp [again, found, Sq.mirrored, ringForm, b2n]⟩

theorem recallSq_holds : Claim.recallSq := by
  rintro s src c q ⟨taken, idle, range, found, thawed, admin⟩
  have named := cSq_found range found
  have runs : exec (.recallSq src) s = _ :=
    taken_concludes (checks := _) taken idle (by nofun) rfl rfl rfl rfl (by
      simp only [List.forall_mem_cons]
      exact ⟨by simp [named], thawed, selfSq_passes admin, nofun⟩)
  rw [runs]
  simp only [named]
  exact ⟨fun enabled => by simp [enabled], fun off => by simp [off]⟩

theorem setPoll_holds : Claim.setPoll := by
  rintro s src c q ⟨taken, idle, range, found, thawed, running, kb, order, kc, credits⟩
  have named := cSq_found range found
  show execSetPoll src s = _
  refine (taken_concludes taken idle (by nofun) rfl rfl rfl rfl ?_).trans ?_
  · simp only [List.forall_mem_cons]
    exact ⟨by simp [named, kb, order, kc], thawed, by simp [named, running], by simp [named, credits], nofun⟩
  · simp only [mget_modSq_same, found, concluded_ok]
    rfl

/-! ## Completion queues -/

/-- Parameters of a CQ in the ranges of R169. -/
theorem cqParams_pass {p : CqParams} (base : p.base.toNat % 4096 = 0) (power : isPow2 p.size = true) (least : 64 ≤ p.size)
    (most : p.size ≤ 1048576) (release : p.release.toNat % 8 = 0) : cqParamsBad p = false := by
  simp [cqParamsBad, base, power, least, most, release]

theorem createCq_holds : Claim.createCq := by
  rintro s src c ⟨taken, idle, range, base, power, least, most, release, thawed, admin, new, quota⟩
  show execCreateCq src s = _
  refine (taken_concludes taken idle (by nofun) rfl rfl rfl rfl ?_).trans rfl
  simp only [List.forall_mem_cons]
  have parameters : cqParamsBad (cCqParams c) = false := cqParams_pass base power least most release
  exact ⟨by simp [parameters, range], thawed, by simpa using admin, new, quota, nofun⟩

theorem deleteCq_holds : Claim.deleteCq := by
  rintro s src c ⟨taken, idle, range, found, thawed, admin, unbound⟩
  show execDeleteCq src s = _
  refine (taken_concludes taken idle (by nofun) rfl rfl rfl rfl ?_).trans rfl
  simp only [List.forall_mem_cons]
  exact ⟨by simp [found, range], thawed, by simpa using admin, unbound, nofun⟩

end Sys2Proof.Machine

namespace Sys2Proof

open Sys2Proof.Machine

/-- Settles O23: each command passes its checks; those that name an SQ are split by its state or by what they ask of it. -/
theorem queueCommandsComplete : Obligations.QueueCommandsComplete :=
  ⟨createSq_holds, deleteSq_holds, disableSq_holds, enableSq_holds, recallSq_holds, setPoll_holds, createCq_holds,
    deleteCq_holds⟩

end Sys2Proof
end


section
/-! MBX_GO and the entries of the work queues (R171 to R175, R178, R184 to R186, R204): what becomes of an entry that stands
at the head of its SQ. -/

namespace Sys2Proof.Machine

open Sys2Proof.Claim

/-! ## The mailbox (R204) -/

theorem mbxGo_holds : Claim.mbxGo := by
  rintro s f value be ⟨go, enabled, reachable⟩
  refine ⟨fun busy => ?_, fun free => ?_⟩
  · show execMbxGo f value be s = _
    exact onEng_of (by simp [go, enabled, reachable, busy])
  · show execMbxGo f value be s = _
    exact onEng_of (by simp [go, enabled, reachable, free])

/-! ## PAD (R175) -/

/-- The entry at the head is that of an SQ of the holding. -/
theorem front_found {e : Engine} {h : Fn} {n : Nat} {q : Sq} {c : Cached} {u : BitVec 256}
    (front : e.front h n = some (q, c, u)) : mget (e.hold h).sqs n = some q := by
  unfold Engine.front at front
  split at front
  · cases front
  next found =>
    rw [found]
    split at front
    · cases front
    · split at front
      · cases front
      · split at front
        · cases front; rfl
        · cases front

/-- A fetch read changes nothing of its queue but which units are being fetched (R182). -/
theorem mget_fetchIssue {h : Fn} {n : Nat} {e : Engine} {q : Sq} (found : mget (e.hold h).sqs n = some q) :
    ∃ units, mget ((fetchIssue h n e).hold h).sqs n = some { q with fetching := units } := by
  have still : mget (e.hold h).sqs n = some { q with fetching := q.fetching } := found
  simp only [fetchIssue, found]
  split
  · exact ⟨_, still⟩
  · split
    · exact ⟨_, still⟩
    · rw [hold_congr (hostRead_keeps (·.holdings) (fun _ _ => rfl) (fun _ _ => rfl) ..), mget_modSq_same, found]
      exact ⟨_, rfl⟩

/-- The queue that an entry has been taken off (R178, R179). -/
def Sq.popped (q : Sq) (c : Cached) (counted : Bool) : Sq :=
  Sq.checkMirror { q with
    cached := q.cached.drop 1, head := ringAdv q.head c.units.length q.par.size
    started := q.started + BitVec.ofNat 32 (b2n counted), sinceMirror := q.sinceMirror + 1 }

theorem mget_popEntry {h : Fn} {n : Nat} {c : Cached} {counted : Bool} {e : Engine} {q : Sq}
    (found : mget (e.hold h).sqs n = some q) :
    ∃ units, mget ((popEntry h n c counted e).hold h).sqs n = some { q.popped c counted with fetching := units } := by
  have there : mget ((modSq h n (·.popped c counted) e).hold h).sqs n = some (q.popped c counted) := by
    rw [mget_modSq_same, found]
    rfl
  have pops : popEntry h n c counted e =
      fetchIssue h n (journalSq h n (q.popped c counted) (modSq h n (·.popped c counted) e)) := by
    simp only [Sq.popped] at there ⊢
    simp only [popEntry, there]
  rw [pops]
  refine mget_fetchIssue ?_
  rw [hold_congr (journalSq_holdings ..), there]

theorem popEntry_cqs (h : Fn) (n : Nat) (c : Cached) (counted : Bool) (e : Engine) :
    ((popEntry h n c counted e).hold h).cqs = (e.hold h).cqs :=
  popEntry_keeps (fun e => (e.hold h).cqs) h n c counted (fun _ _ => rfl) (fun _ _ => rfl) (fun _ _ => rfl)
    (fun _ _ => by simp [modSq, Engine.hold]) e

theorem popEntry_restButReads (h : Fn) (n : Nat) (c : Cached) (counted : Bool) (e : Engine) :
    (popEntry h n c counted e).restButReads = e.restButReads :=
  popEntry_keeps _ h n c counted (fun _ _ => rfl) (fun _ _ => rfl) (fun _ _ => rfl) (fun _ _ => rfl) e

theorem pad_holds : Claim.pad := by
  rintro s f sq q c u ⟨front, pad⟩
  obtain ⟨units, left⟩ := mget_popEntry (c := c) (counted := false) (front_found front)
  refine ⟨popEntry f sq c false s.eng, _, ?runs, left, rfl, rfl, BitVec.add_zero _, rfl, popEntry_cqs ..,
    popEntry_restButReads ..⟩
  show execPad f sq s = _
  exact onEng_of (by simp [front, pad])

/-! ## Entries that start (R172, R184 to R186) -/

/-- The scatter list of a transfer entry that passes R174. -/
def entryScatter (op : Nat) (c : Cached) (u : BitVec 256) : Option (List (Qword × Nat)) :=
  if decide (c.units.length = eUnits u) then (if op = 3 then controlCheck c.units else bulkCheck c.units) else none

/-- A CONTROL of the request SET_NUMBER, which is refused before the bus (R186). -/
def setsNumber (op : Nat) (u : BitVec 256) : Bool := op = 3 && setupCode (eSetup u) = 2

/-- An entry whose target the lookup refuses waits for no slice. -/
theorem unplaced_of_lookup {e : Engine} {h : Fn} {d : DevNum} {ep : EpNum} {st : Byte}
    (refused : e.lookup h d ep = some st) : e.unplaced h d ep = false := by
  simp [Engine.unplaced, refused]

/-- An entry with FENCE waits for none once every earlier one has finished (R185). -/
theorem fence_passes {q : Sq} {u : BitVec 256} (fence : eFence u = true → q.finished = true) :
    (eFence u && !q.finished) = false := by
  simpa using fence

/-- The entry becomes an item in a plot, which begins unless an earlier item has its endpoint (R184). -/
def enterItem (f : Fn) (sq op : Nat) (q : Sq) (c : Cached) (u : BitVec 256) (l : List (Qword × Nat)) (p : PlotId)
    (e : Engine) : Engine :=
  let i := newItem f sq op q c u e.ids p.val l none
  let e' := journalItem i { e with ids := e.ids + 1, items := e.items ++ [i] }
  if (e.itemsFor f (eDev u) (eEp u)).isEmpty then beginItem e.ids e' else e'

section Start

variable {s : State} {f : Fn} {sq op : Nat} {q : Sq} {c : Cached} {u : BitVec 256}

/-- None of the causes for which an entry stays in its SQ holds. -/
theorem startOk_free (ok : startOk s f sq op q c u) : (eOpcode u != op || decide (sq % 4096 = 0)
    || (eFence u && !q.finished) || !(freeRecords s.eng).itemRoom f) = false := by
  obtain ⟨-, opcode, notAdmin, fence, room⟩ := ok
  simp [opcode, notAdmin, fence_passes fence, room]

theorem startItem_malformed (ok : startOk s f sq op q c u) (malformed : entryScatter op c u = none) :
    startItem f sq op (freeRecords s.eng) = endAtStart f sq op q c u 0x30 (begun s f sq c u) := by
  have ⟨front, _⟩ := ok
  rw [entryScatter] at malformed
  simp only [startItem, front, startOk_free ok, malformed, Option.isSome_none, Bool.false_and, Bool.false_eq_true, if_false]

theorem startItem_setsNumber (ok : startOk s f sq op q c u) (formed : (entryScatter op c u).isSome = true)
    (sets : setsNumber op u = true) :
    startItem f sq op (freeRecords s.eng) = endAtStart f sq op q c u 0x32 (begun s f sq c u) := by
  have ⟨front, _⟩ := ok
  obtain ⟨l, formed⟩ := Option.isSome_iff_exists.mp formed
  rw [entryScatter] at formed
  rw [setsNumber] at sets
  simp only [startItem, front, startOk_free ok, formed, sets, Bool.not_true, Bool.and_false, Bool.false_and,
    Bool.false_eq_true, if_false, if_true]

section Placed

variable {l : List (Qword × Nat)} (ok : startOk s f sq op q c u) (formed : entryScatter op c u = some l)
  (allowed : setsNumber op u = false) (placed : (freeRecords s.eng).unplaced f (eDev u) (eEp u) = false)

include ok formed allowed placed

theorem startItem_unknown {st : Byte} (unknown : (begun s f sq c u).lookup f (eDev u) (eEp u) = some st) :
    startItem f sq op (freeRecords s.eng) = endAtStart f sq op q c u st (begun s f sq c u) := by
  have ⟨front, _⟩ := ok
  rw [entryScatter] at formed
  rw [setsNumber] at allowed
  simp only [startItem, front, startOk_free ok, formed, allowed, placed, unknown, Bool.and_false, Bool.false_eq_true,
    if_false]

theorem startItem_enters {x : Nat} {p : PlotId} (known : (begun s f sq c u).lookup f (eDev u) (eEp u) = none)
    (index : ((begun s f sq c u).hold f).ctxIndex (eDev u) (eEp u) = some x)
    (plot : (begun s f sq c u).plotOf f x = some p) :
    startItem f sq op (freeRecords s.eng) = enterItem f sq op q c u l p (begun s f sq c u) := by
  have ⟨front, _⟩ := ok
  rw [entryScatter] at formed
  rw [setsNumber] at allowed
  cases busy : ((begun s f sq c u).itemsFor f (eDev u) (eEp u)).isEmpty
  all_goals
    simp only [startItem, front, startOk_free ok, formed, allowed, placed, known, index, plot, busy, enterItem, newId,
      Bool.and_false, Bool.not_false, Bool.not_true, Bool.false_eq_true, if_false, if_true]

end Placed

/-- How a transfer entry starts, whatever command starts it. -/
theorem starts_of {form : List (BitVec 256) → Option (List (Qword × Nat))} {cmd : Fn → Nat → Instr}
    (runs : ∀ f sq s, exec (cmd f sq) s = onEng s fun e => startItem f sq op (freeRecords e))
    (checks : ∀ us, (if op = 3 then controlCheck us else bulkCheck us) = form us) : starts op form cmd := by
  intro s f sq q c u ok allowed
  have accepted : setsNumber op u = false := by
    simpa [setsNumber, or_iff_not_imp_left, imp_not_comm] using allowed
  have formedAs {l : List (Qword × Nat)} (whole : c.units.length = eUnits u) (formed : form c.units = some l) :
      entryScatter op c u = some l := by
    simp [entryScatter, whole, checks, formed]
  simp only [runs]
  refine ⟨fun malformed => onEng_of (startItem_malformed ok ?_), fun l st whole formed refused unknown =>
    onEng_of (startItem_unknown ok (formedAs whole formed) accepted (unplaced_of_lookup refused) unknown),
    fun l x p whole formed placed known index plot =>
      onEng_of ((startItem_enters ok (formedAs whole formed) accepted placed known index plot))⟩
  rw [entryScatter, checks]
  rcases malformed with cut | bad
  · simp [cut]
  · simp [bad]

end Start

theorem bulkIn_holds : Claim.bulkIn := starts_of (fun _ _ _ => rfl) fun _ => rfl

theorem bulkOut_holds : Claim.bulkOut := starts_of (fun _ _ _ => rfl) fun _ => rfl

theorem control_holds : Claim.control := by
  refine ⟨starts_of (fun _ _ _ => rfl) fun _ => rfl, fun s f sq q c u ok code whole formed => ?_⟩
  show execControl f sq s = _
  refine onEng_of (startItem_setsNumber ok ?_ ?_)
  · simpa [entryScatter, whole] using formed
  · simp [setsNumber, code]

/-! ## MARK and reserved opcodes (R172, R174, R185) -/

theorem mark_holds : Claim.mark := by
  rintro s f sq q c u ⟨front, opcode, notAdmin, finished, room⟩
  show execMark f sq s = _
  exact onEng_of (by simp [front, opcode, notAdmin, finished, room])

theorem reservedTransferOpcode_holds : Claim.reservedTransferOpcode := by
  rintro s f sq q c u ⟨reserved, front, -, notAdmin, fence, room⟩
  show execReservedTransferOpcode f sq s = _
  exact onEng_of (by simp [front, Nat.not_lt.mpr reserved, notAdmin, fence_passes fence, room])

end Sys2Proof.Machine

namespace Sys2Proof

open Sys2Proof.Machine

/-- Settles O33: a transfer entry by its form and by what the lookup of its target says; a reserved opcode ends with 0x30. -/
theorem entriesComplete : Obligations.EntriesComplete :=
  ⟨mbxGo_holds, pad_holds, bulkIn_holds, bulkOut_holds, control_holds, mark_holds, reservedTransferOpcode_holds⟩

end Sys2Proof
end


section
/-! IDENTIFY, QUICK START and undefined opcodes (R1, R170, R219, R221), and the commands that read what is kept: READ ATTENTION
LOG, READ COUNTERS, RESET ACCOUNT (R214, R215, R222, R224, R401). -/

namespace Sys2Proof.Machine

open Sys2Proof.Claim Sys2Proof.Safety

/-- A command that firmware takes also while its holding is in reset (R241) has its effect. -/
theorem taken_concludes_inReset {r : AdminRow} {s : State} {src : AdminSrc} {c : BitVec 512} {op : Nat} {target : Bool}
    {fields : Fields} {checks : Fn → BitVec 512 → Engine → List Check} {effect : Fn → BitVec 512 → Engine → AdminStep}
    (taken : Taken s src c op target fields) (inReset : r.inReset = true) (pfOnly : r.pfOnly = false)
    (opcode : r.op = op) (names : r.target = target) (used : r.used c = fields) (reads : r.reads = fun _ _ e => e)
    (own : ∀ k ∈ checks src.fn c (after s src), k.bad = false) :
    onEng s (runAdmin r src checks effect) = .next (concluded s src c (effect src.fn c (after s src))) :=
  onEng_of (taken_runs taken opcode (by simp [pfOnly]) names used (by simp [inReset]) reads own)

/-! ## IDENTIFY, QUICK START, undefined opcodes -/

theorem identify_holds : Claim.identify := by
  rintro s src c ⟨taken, known⟩
  have runs : exec (.identify src) s = _ :=
    taken_concludes_inReset (checks := _) taken rfl rfl rfl rfl rfl rfl (by simpa using known)
  rw [runs]
  exact ⟨fun controller => by simp [controller], fun function => by simp [function]⟩

theorem quickStart_holds : Claim.quickStart := by
  rintro s src c ⟨taken, idle, mailbox, aligned, fits, thawed, newSq, newCq, sqLeft, cqLeft, credits⟩
  show execQuickStart src s = _
  refine (taken_concludes taken idle (by nofun) rfl rfl rfl rfl ?_).trans rfl
  simp only [List.forall_mem_cons]
  exact ⟨by simp [mailbox], by simp [aligned, fits], thawed, by simp [newSq, newCq], by simp [sqLeft, cqLeft], credits, nofun⟩

/-- Every opcode of class A is one that interface 3.2 defines. -/
theorem classA_of_undefined {c : BitVec 512} (unknown : definedOpcodes.contains (cOp c) = false) : classA c = false := by
  have off : ∀ op, definedOpcodes.contains op = true → cOp c ≠ op := by
    rintro _ known rfl
    exact Bool.false_ne_true (unknown.symm.trans known)
  unfold classA
  split
  next get => exact absurd get (off _ (by decide))
  next port => exact absurd port (off _ (by decide))
  next counters => exact absurd counters (off _ (by decide))
  next =>
    rw [Bool.eq_false_iff]
    intro listed
    have known : ∀ op ∈ [0x02, 0x04, 0x05, 0x06, 0x07, 0x0A, 0x13, 0x18, 0x19, 0x1A, 0x1B, 0x1C, 0x23, 0x30, 0x31, 0x33,
        0x36, 0x50, 0x5F], definedOpcodes.contains op = true := by decide
    exact off _ (known _ (List.contains_iff_mem.mp listed)) rfl

theorem undefinedAdminOpcode_holds : Claim.undefinedAdminOpcode := by
  rintro s src c ⟨held, runs, image, starts, unknown⟩
  have new : ((after s src).fn src.fn).once c = none := by
    simp [FnState.once, classA_of_undefined unknown]
  have passes : gate { op := cOp c } src s.eng = .run c (after s src) := by
    simp [gate, held, runs, image, starts, new]
  show execUndefinedAdminOpcode src s = _
  refine onEng_of ?_
  simp only [held, unknown, passes, Bool.false_eq_true, if_false]

/-! ## READ ATTENTION LOG (R222, R224) -/

/-- An update of a function's record that makes of it what another does is that update. -/
theorem modFn_congr {h : Fn} {f g : FnState → FnState} {e : Engine} (same : f (e.fn h) = g (e.fn h)) :
    modFn h f e = modFn h g e := by
  simp only [modFn, vmod, same]

theorem readAttentionLog_holds : Claim.readAttentionLog := by
  intro s src c taken
  refine ⟨_, rfl, ?_⟩
  obtain ⟨_, mailbox⟩ := takeCommand_fn src s.eng src.fn
  have left : modFn src.fn (fun x => { x with log := x.log.filter fun a => !before a.seq (fld c 288 32) }) (after s src)
      = modFn src.fn (fun x => { x with log := leftLog s src c }) (after s src) :=
    modFn_congr (by rw [mailbox]; rfl)
  show execReadAttentionLog src s = _
  refine (taken_concludes_inReset taken rfl rfl rfl rfl rfl rfl (by nofun)).trans ?_
  simp only [left, modFn_same, concluded_ok]

/-! ## READ COUNTERS (R396, R399, R401) -/

@[simp] theorem after_cnt (s : State) (src : AdminSrc) : (after s src).cnt = s.eng.cnt :=
  takeCommand_keeps _ src (fun _ _ => rfl) (fun _ _ => rfl) (fun _ _ => rfl) (fun _ _ => rfl) (fun _ _ => rfl) s.eng

/-- What READ COUNTERS reads of the group that it names, and the engine with that group at zero. -/
def countersRead (c : BitVec 512) (e : Engine) : List Byte × Engine :=
  let h := finOf 64 (cf c 35 0 8)
  let p := finOf 32 (cf c 33 0 8)
  let k := (e.fn h).counters
  let modK (g : HoldingCnt → HoldingCnt) : Engine → Engine := modFn h fun x => { x with counters := g x.counters }
  let zero : Vector Dword 16 := Vector.replicate 16 0
  match cf c 32 0 8 with
  | 0 => (arbBytes k.arbP[p.val] ++ arbBytes k.arbB[p.val],
      modK (fun x => { x with arbP := vmod x.arbP p fun _ => {}, arbB := vmod x.arbB p fun _ => {} }) e)
  | 1 => (cntBytes k.port[p.val], modK (fun x => { x with port := vmod x.port p fun _ => zero }) e)
  | 2 => (cntBytes k.wide, modK (fun x => { x with wide := zero }) e)
  | 3 => (arbBytes (e.port p).arb.commons, modArb p (fun a => { a with commons := {} }) e)
  | 4 => (cntBytes (e.port p).cnt, modPort p (fun t => { t with cnt := zero }) e)
  | _ => (cntBytes e.cnt, { e with cnt := zero })

theorem exec_readCounters {s : State} {src : AdminSrc} {c : BitVec 512} (ok : readCountersOk s src c) :
    exec (.readCounters src) s = .next (answered s src c 0x80
      (BitVec.ofNat 32 (countersRead c (after s src)).1.length) (countersRead c (after s src)).1
      (whenE (cf c 34 0 1 == 1) (fun _ => (countersRead c (after s src)).2) (after s src))) := by
  obtain ⟨taken, idle, group, port, holding, mine⟩ := ok
  show execReadCounters src s = _
  refine (taken_concludes taken idle (by nofun) rfl rfl rfl rfl ?_).trans rfl
  simp only [List.forall_mem_cons]
  refine ⟨by simp; omega, ?own, by simpa using holding, nofun⟩
  by_cases fromPf : src.fn = pf
  · simp [fromPf]
  · simp [mine fromPf]

theorem readCounters_holds : Claim.readCounters := by
  intro s src c ok
  rw [exec_readCounters ok]
  refine ⟨fun port => ?_, fun wide => ?_, fun rootPort => ?_, fun device => ?_⟩
  · simp only [countersRead, port]
    rfl
  · simp only [countersRead, wide]
    rfl
  · simp only [countersRead, rootPort]
    rfl
  · simp only [countersRead, device, after_cnt]
    rfl

theorem readArbiterSets_holds : Claim.readArbiterSets := by
  intro s src c ok
  rw [exec_readCounters ok]
  refine ⟨fun holding => ?_, fun commons => ?_⟩
  · simp only [countersRead, holding]
    rfl
  · simp only [countersRead, commons]
    rfl

/-! ## RESET ACCOUNT (R215, R245, R409) -/

theorem resetAccount_holds : Claim.resetAccount := by
  intro s src c taken
  refine ⟨_, rfl, ?_⟩
  obtain ⟨_, mailbox⟩ := takeCommand_fn src s.eng src.fn
  have left : modFn src.fn (fun x => { x with account := x.account.release (fld c 288 32) }) (after s src)
      = modFn src.fn (fun x => { x with account := leftAccount s src c }) (after s src) :=
    modFn_congr (by rw [mailbox]; rfl)
  show execResetAccount src s = _
  refine (taken_concludes_inReset taken rfl rfl rfl rfl rfl rfl (by nofun)).trans ?_
  simp only [left, modFn_same, concluded_ok]
  rfl

end Sys2Proof.Machine

namespace Sys2Proof

open Sys2Proof.Machine

/-- Settles O22: each command passes its checks, IDENTIFY by its CNS; no undefined opcode is of class A. -/
theorem identityCommandsComplete : Obligations.IdentityCommandsComplete :=
  ⟨identify_holds, quickStart_holds, undefinedAdminOpcode_holds⟩

/-- Settles O28: each command passes its checks; READ COUNTERS is split by the group. -/
theorem readingCommandsComplete : Obligations.ReadingCommandsComplete :=
  ⟨readAttentionLog_holds, readCounters_holds, readArbiterSets_holds, resetAccount_holds⟩

end Sys2Proof
end


section
/-! HOLDING FREEZE, SAVE, RESTORE and THAW (R216, R247 to R251): what each does to the holding that it names. -/

namespace Sys2Proof.Machine

open Sys2Proof.Claim Sys2Proof.Safety

theorem holdingFreeze_holds : Claim.holdingFreeze := by
  rintro s src c ⟨taken, idle, mine, other, range, created, ready⟩
  have runs : exec (.holdingFreeze src) s = _ :=
    taken_concludes (checks := holdChecks false) taken idle (by nofun) rfl rfl rfl rfl
      (holdChecks_pass ⟨mine, range, created, ready⟩ fun _ => other)
  rw [runs]
  exact ⟨fun free => by simp only [free, concluded_wait], fun z frozen => by simp only [frozen, concluded_ok]⟩

theorem holdingSave_holds : Claim.holdingSave := by
  rintro s src c ⟨taken, idle, ⟨mine, other, range, created, ready⟩, frozen, finished, fits⟩
  show execHoldingSave src s = _
  refine (taken_concludes taken idle (by nofun) rfl rfl rfl rfl ?_).trans rfl
  simp only [List.forall_mem_append, List.forall_mem_cons]
  exact ⟨holdChecks_pass ⟨mine, range, created, ready⟩ fun _ => other, by simp [frozen], by simpa using fits, finished, nofun⟩

/-- The read of an image leaves every holding as it was. -/
theorem restoring_hold (s : State) (src : AdminSrc) (c : BitVec 512) (h : Fn) :
    (restoring s src c).hold h = (after s src).hold h :=
  readNow_keeps (·.hold h) (fun _ _ => rfl) ..

/-- HOLDING RESTORE passes its checks, and its effect sees the image that it has read. -/
theorem exec_holdingRestore {s : State} {src : AdminSrc} {c : BitVec 512} {m : SaveImage} (ok : holdingRestoreOk s src c m) :
    exec (.holdingRestore src (some m)) s = .next (concluded s src c
      (if m.digest = sha256 (imageBody m) then .ok (restoreImage (cHold c) m (restoring s src c)) 0 []
       else .fail (restoring s src c) 0x88 0)) := by
  obtain ⟨taken, idle, ⟨mine, other, range, created, ready⟩, free, version, owned, empty, quotas⟩ := ok
  have pass := holdChecks_pass (zero := false) ⟨mine, range, created, ready⟩ fun _ => other
  have passRead : ∀ k ∈ holdChecks false src.fn c (restoring s src c), k.bad = false := by
    simpa only [holdChecks, restoring_hold, readNow_reset] using pass
  show execHoldingRestore src (some m) s = _
  refine (taken_concludes_reading taken idle (by nofun) rfl rfl rfl ?_ (readNow_reset ..) passRead).trans ?_
  · simp only [verdict_none pass, Option.isNone_none, whenE_true]
  · have data : brought (restoring s src c) (cHold c) (some m) = some m := by simp [brought, free]
    simp only [data, imageDigest]
    by_cases agrees : m.digest = sha256 (imageBody m)
    · simp [agrees, version, owned, empty, quotas]
    · simp [agrees, version]

theorem holdingRestore_holds : Claim.holdingRestore := by
  intro s src c m ok
  rw [exec_holdingRestore ok]
  exact ⟨fun agrees => by rw [if_pos agrees, concluded_ok], fun differs => by rw [if_neg differs]; rfl⟩

theorem holdingThaw_holds : Claim.holdingThaw := by
  rintro s src c ⟨taken, idle, named, frozen⟩
  refine ⟨_, ?_, rfl⟩
  show execHoldingThaw src s = _
  refine (taken_concludes taken idle (by nofun) rfl rfl rfl rfl ?_).trans rfl
  simp only [List.forall_mem_append, List.forall_mem_cons]
  exact ⟨holdChecks_pass named (by nofun), by simp [frozen], nofun⟩

end Sys2Proof.Machine

namespace Sys2Proof

open Sys2Proof.Machine

/-- Settles O30: each command passes its checks; FREEZE is split by whether the holding is frozen, RESTORE by the digest. -/
theorem migrationCommandsComplete : Obligations.MigrationCommandsComplete :=
  ⟨holdingFreeze_holds, holdingSave_holds, holdingRestore_holds, holdingThaw_holds⟩

end Sys2Proof
end


section
/-! The commands of the yoke and of power (R217, R265, R267, R280, R323, R325, R336): YOKE CONFIGURE, TAKE SUBTREE, YOKE STATUS,
POWER STATE, SET RETENTION. -/

namespace Sys2Proof.Machine

open Sys2Proof.Claim Sys2Proof.Safety

/-! ## What taking a command leaves -/

@[simp] theorem after_pins (s : State) (src : AdminSrc) : (after s src).pins = s.eng.pins :=
  congrArg Rest.pins (takeCommand_rest src s.eng)

@[simp] theorem after_pwr (s : State) (src : AdminSrc) : (after s src).pwr = s.eng.pwr :=
  congrArg Rest.pwr (takeCommand_rest src s.eng)

@[simp] theorem after_yoke (s : State) (src : AdminSrc) : (after s src).yoke = s.eng.yoke :=
  congrArg Rest.yoke (takeCommand_rest src s.eng)

@[simp] theorem after_senior (s : State) (src : AdminSrc) : (after s src).senior = s.eng.senior := by
  simp only [Engine.senior, after_pins]

/-! ## The yoke -/

theorem yokeConfigure_holds : Claim.yokeConfigure := by
  rintro s src c ⟨taken, idle, fromPf, among, free⟩
  refine ⟨fun x up other => ?answers, ?silent⟩
  case answers =>
    show execYokeConfigure src (some x) s = _
    refine (taken_concludes taken idle (fun _ => fromPf) rfl rfl rfl rfl ?_).trans ?_
    · simp [among, free, other]
    · simp [up]
  case silent =>
    show execYokeConfigure src none s = _
    refine (taken_concludes taken idle (fun _ => fromPf) rfl rfl rfl rfl ?_).trans rfl
    simp [among, free]

theorem takeSubtree_holds : Claim.takeSubtree := by
  rintro s src c ⟨taken, idle, mine, dual, yoked, up, shared, unasked, thawed⟩
  have runs : exec (.takeSubtree src) s = _ :=
    taken_concludes (checks := _) taken idle (by nofun) rfl rfl rfl rfl (by
      simp only [List.forall_mem_cons]
      refine ⟨by simpa using mine, ?single, by simp [yoked, up], by simp only [after_yoke, shared, unasked]; rfl, thawed,
        nofun⟩
      by_cases root : cf c 32 25 1 = 1
      · simp only [cLead, if_pos root]
      · obtain ⟨v, bound, u, hub, two⟩ := dual root
        simp only [cLead, if_neg root, Option.mem_def.mp bound, Option.bind_some, Option.mem_def.mp hub, two, Bool.not_true])
  rw [runs]
  refine ⟨fun leads => by simp only [leads, if_true, concluded_ok], fun follows => ?_⟩
  simp only [follows, Bool.false_eq_true, if_false, askFor, after_yoke, unasked, concluded_wait]

theorem yokeStatus_holds : Claim.yokeStatus := by
  rintro s src c ⟨taken, idle⟩
  refine ⟨_, taken_concludes (checks := _) taken idle (by nofun) rfl rfl rfl rfl (by nofun), ?_⟩
  simp only [after_yoke]
  exact ⟨rfl, rfl, rfl, rfl, rfl⟩

/-! ## Power -/

/-- With no preparation under way neither started items nor the user cores move one on. -/
theorem advancePrep_sweepPrep_idle {k : Cores} {e : Engine} (unprepared : e.pwr.prep = none)
    (undrained : e.pwr.prepDrain = false) : advancePrep k (sweepPrep e) = e := by
  simp [advancePrep, sweepPrep, unprepared, undrained]

@[simp] theorem finish_pwr (src : AdminSrc) (c : BitVec 512) (st : Byte) (d : Dword) (data : List Byte) (w : Bool)
    (e : Engine) : (finish src c st d data w e).pwr = e.pwr :=
  congrArg Rest.pwr (finish_rest ..)

/-- What POWER STATE does, by the state that it asks for and by whether the watch work fits. -/
def powerStep (src : AdminSrc) (c : BitVec 512) (e : Engine) : AdminStep :=
  let st := cf c 32 0 8
  let w : Dword := if st = 1 then fld c 288 32 else 0
  if st = 0 then .ok e 0 []
  else if e.pwr.prep.isSome then .fail e 0x87 0
  else
    let (short, e) := if st = 1 then watchShort w e else (false, e)
    if short then .fail e 0x84 0 else .wait (beginPrep src st w e) .power

theorem exec_powerState {s : State} {src : AdminSrc} {c : BitVec 512} (ok : powerStateOk s src c) :
    exec (.powerState src) s = .next { s with
      eng := noted s.eng (advancePrep s.cores (sweepPrep (concludeAdmin src c (powerStep src c (after s src))))) } := by
  obtain ⟨taken, idle, fromPf, known, -, -⟩ := ok
  show execPowerState src s = _
  simp only [execPowerState, onBoth_eq]
  rw [taken_runs taken rfl (fun _ => fromPf) rfl rfl (fun _ => idle) rfl (by simpa using known)]
  rfl

theorem powerState_holds : Claim.powerState := by
  intro s src c ok
  have ⟨_, _, _, _, unprepared, undrained⟩ := ok
  rw [exec_powerState ok]
  refine ⟨fun active => ?active, fun e watched lower fits => ?lower⟩
  case active =>
    simp only [powerStep, active, if_true]
    rw [advancePrep_sweepPrep_idle]
    · rfl
    · simpa [concludeAdmin] using unprepared
    · simpa [concludeAdmin] using undrained
  case lower =>
    subst watched
    by_cases fallow : cf c 32 0 8 = 1
    · simp [powerStep, unprepared, fallow, fits fallow]
    · simp [powerStep, unprepared, fallow, lower]

theorem setRetention_holds : Claim.setRetention := by
  rintro s src c ⟨taken, idle, fromPf⟩
  show execSetRetention src s = _
  refine (taken_concludes taken idle (fun _ => fromPf) rfl rfl rfl rfl (by nofun)).trans ?_
  simp only [after_pwr, concluded_ok]

end Sys2Proof.Machine

namespace Sys2Proof

open Sys2Proof.Machine

/-- Settles O31: each command passes its checks; the yoke's by the partner's answer or by who leads, POWER STATE by the state
asked for. -/
theorem systemCommandsComplete : Obligations.SystemCommandsComplete :=
  ⟨yokeConfigure_holds, takeSubtree_holds, yokeStatus_holds, powerState_holds, setRetention_holds⟩

end Sys2Proof
end


section
/-! User images, user cores, test controls and CONTROLLER RESET (R217, R218, R287 to R291, R366, R402, R403). -/

namespace Sys2Proof.Machine

open Sys2Proof.Claim Sys2Proof.Safety

/-! ## LOAD USER IMAGE (R287, R288, R389) -/

/-- Where the last check alone is bad, it decides. -/
theorem verdict_of_last {l : List Check} {k : Check} (good : ∀ x ∈ l, x.bad = false) (bad : k.bad = true) :
    verdict (l ++ [k]) = some k := by
  have front : l.filter (·.bad) = [] := List.filter_eq_nil_iff.mpr fun x hx => by simp [good x hx]
  simp [verdict, front, bad, minBy]

/-- A command with an effect on the cores that fails only its last check is answered with that check's status. -/
theorem taken_fails_cores {r : AdminRow} {s : State} {src : AdminSrc} {c : BitVec 512} {op : Nat} {target : Bool}
    {fields : Fields} {checks : Fn → BitVec 512 → Engine → Cores → List Check}
    {effect : Fn → BitVec 512 → Engine → Cores → AdminStep × Cores} {e : Engine} {k : Cores} {front : List Check} {x : Check}
    (taken : Taken s src c op target fields) (idle : Idle s src) (pfOnly : r.pfOnly = true → FromPf src)
    (opcode : r.op = op) (names : r.target = target) (used : r.used c = fields)
    (read : r.reads src.fn c (after s src) = e) (still : (e.fn src.fn).reset = ((after s src).fn src.fn).reset)
    (own : checks src.fn c e k = front ++ [x]) (good : ∀ y ∈ front, y.bad = false) (bad : x.bad = true) :
    runAdminCores r src checks effect s.eng k = (finish src c (BitVec.ofNat 8 x.status) x.dword2 [] false e, k) := by
  subst read
  have pass := taken_shared taken pfOnly names used fun _ => idle
  have decides : verdict (sharedChecks r src.fn c (r.reads src.fn c (takeCommand src s.eng))
      ++ checks src.fn c (r.reads src.fn c (takeCommand src s.eng)) k) = some x := by
    rw [own, ← List.append_assoc, sharedChecks_congr r src.fn c _ _ still]
    refine verdict_of_last (fun y hy => ?_) bad
    rcases List.mem_append.mp hy with h | h
    · exact pass y h
    · exact good y h
  simp only [runAdminCores, taken_gate taken opcode, verdict_none pass, Option.isNone_none, whenE_true, decides]

/-- The checks of LOAD USER IMAGE on an image that was read whole, its form and signature aside. -/
def userFileChecks (n : CoreId) (u : UserFile) (len : Nat) (k : Cores) : List Check :=
  [{ bad := (k.at n).state != .stopped, status := 0x87 },
   { bad := u.header.l2Len != 0 && ((k.at 4).state != .stopped || (k.at 5).state != .stopped), status := 0x87 },
   { bad := !u.sized len, status := 0x84 }]

theorem userFileChecks_pass {s : State} {src : AdminSrc} {c : BitVec 512} {bs : List Byte} {n : CoreId}
    (ok : loadUserImageOk s src c bs n) : ∀ x ∈ userFileChecks n (userFile bs) (cf c 48 0 32) s.cores, x.bad = false := by
  obtain ⟨-, -, -, -, -, -, still, alone, sized, -⟩ := ok
  simp only [userFileChecks, List.forall_mem_cons]
  refine ⟨by simp [still], ?_, by simp [sized], nofun⟩
  by_cases none_ : (userFile bs).header.l2Len = 0
  · simp [none_]
  · simp [alone none_]

theorem loadUserImage_holds : Claim.loadUserImage := by
  intro s src c bs n ok
  have pass := userFileChecks_pass ok
  obtain ⟨taken, idle, fromPf, core, free, whole, -, -, -, form⟩ := ok
  have all : bs.take (cf c 48 0 32) = bs := List.take_of_length_le whole.le
  have read : whenE (userCoreOf (cf c 32 0 8)).isSome (readNow src.fn (fld c 320 64) (cf c 48 0 32) (.image src.fn))
      (after s src) = imaging s src c := by
    simp [core]
  have data : brought (imaging s src c) pf (some bs) = some bs := by simp [brought, free]
  refine ⟨fun signed => ?verified, fun unsigned => ?refused⟩
  case verified =>
    show execLoadUserImage src (some bs) s = _
    simp only [execLoadUserImage, onBoth_eq]
    rw [taken_runs_cores s.cores taken rfl (fun _ => fromPf) rfl rfl (fun _ => idle)]
    · simp only [read]
      simp only [core, all]
      rfl
    · simp only [read, readNow_reset]
    · simp only [read]
      simp only [core, data, all]
      refine List.forall_mem_append.mpr ⟨pass, ?_⟩
      simp [whole, form, signed]
  case refused =>
    show execLoadUserImage src (some bs) s = _
    simp only [execLoadUserImage, onBoth_eq]
    rw [taken_fails_cores (front := userFileChecks n (userFile bs) (cf c 48 0 32) s.cores) (x := ⟨_, 0x88, 0⟩) taken idle
      (fun _ => fromPf) rfl rfl rfl read (readNow_reset ..) ?_ pass ?_]
    · rfl
    · exact decide (bs.length < cf c 48 0 32) || !(userFile bs).formOk n || !(imaging s src c).signedOk (userFile bs)
    · simp only [core, data, all]
      rfl
    · simp [unsigned]

/-! ## USER CORE CONTROL (R291) -/

section Action

variable {e : Engine} {n : CoreId} {k k' : Cores}

/-- A core that runs can be halted. -/
theorem coreAction_halt (acts : coreAction e n 2 k = some k') :
    (k.at n).state = .running ∧ k' = modCore n (fun x => { x with state := .halted }) k := by
  cases state : (k.at n).state <;> simp [coreAction, state] at acts
  exact ⟨rfl, acts.symm⟩

/-- A core that is halted can be resumed. -/
theorem coreAction_resume (acts : coreAction e n 3 k = some k') :
    (k.at n).state = .halted ∧ k' = modCore n (fun x => { x with state := .running }) k := by
  cases state : (k.at n).state <;> simp [coreAction, state] at acts
  exact ⟨rfl, acts.symm⟩

/-- A core can be read in every state, and stays as it is. -/
@[simp] theorem coreAction_read : coreAction e n 4 k = some k := by
  cases state : (k.at n).state <;> simp [coreAction, state]

end Action

theorem userCoreControl_holds : Claim.userCoreControl := by
  rintro s src c n k ⟨taken, idle, fromPf, core, range, acts⟩
  refine ⟨?runs, fun halts => coreAction_halt (halts ▸ acts), fun resumes => coreAction_resume (resumes ▸ acts),
    fun reads => ?read⟩
  case runs =>
    show execUserCoreControl src s = _
    simp only [execUserCoreControl, onBoth_eq]
    rw [taken_runs_cores s.cores taken rfl (fun _ => fromPf) rfl rfl (fun _ => idle) rfl]
    · simp only [core, acts]
      rfl
    · simp only [core, acts, List.forall_mem_cons]
      exact ⟨by simpa using range, rfl, nofun⟩
  case read =>
    rw [reads, coreAction_read] at acts
    exact (Option.some.inj acts).symm

/-! ## TEST CONTROL (R402) -/

theorem testControl_holds : Claim.testControl := by
  rintro s src c ⟨taken, idle, fromPf, unlocked, known, inRange⟩
  show execTestControl src s = _
  refine (taken_concludes taken idle (fun _ => fromPf) rfl rfl rfl rfl ?_).trans rfl
  simp only [List.forall_mem_cons]
  exact ⟨by simp [unlocked], by simpa using known, by simp [inRange], nofun⟩

/-! ## CONTROLLER RESET (R218, R366) -/

theorem controllerReset_holds : Claim.controllerReset := by
  rintro s src c ⟨taken, idle, fromPf, key⟩
  show execControllerReset src s = _
  refine (taken_concludes taken idle (fun _ => fromPf) rfl rfl rfl rfl (by simp [key])).trans ?_
  simp only [takeCommand_fw, concluded_ok]

theorem controllerResetTakesEffect_holds : Claim.controllerResetTakesEffect := by
  intro s coming written
  show execControllerResetTakesEffect s = _
  simp [execControllerResetTakesEffect, coming, written]

end Sys2Proof.Machine

namespace Sys2Proof

open Sys2Proof.Machine

/-- Settles O32: each command passes its checks; LOAD USER IMAGE is split by its signature, USER CORE CONTROL by the action. -/
theorem imageAndTestCommandsComplete : Obligations.ImageAndTestCommandsComplete :=
  ⟨loadUserImage_holds, userCoreControl_holds, testControl_holds, controllerReset_holds, controllerResetTakesEffect_holds⟩

end Sys2Proof
end


section
/-! What firmware keeps for a function (R215, R222, R224, R227, R245): the attention log, the apply-once records, the reset
account. -/

namespace Sys2Proof.Machine

open Sys2Proof.Claim

/-- A running count after one step more. -/
theorem count_succ (n : Dword) (i : Nat) : n + 1 + BitVec.ofNat 32 i = n + BitVec.ofNat 32 (i + 1) := by
  rw [Nat.add_comm, BitVec.ofNat_add, BitVec.add_assoc]
  rfl

/-! ## The attention log (R222, R224) -/

/-- A log that has room takes an entry with the next sequence and the lost count, which starts again. -/
theorem fn_attn_room {h : Fn} {e : Engine} (room : (e.fn h).log.length < attnCapacity h) (kind : Nat) (argument : Dword) :
    ∃ a : Attn, a.kind = kind ∧ a.argument = argument ∧ a.seq = (e.fn h).logNext ∧ a.lost = (e.fn h).logLost ∧
      (attn h kind 0 0 0 argument false e).fn h =
        { e.fn h with log := (e.fn h).log ++ [a], logNext := (e.fn h).logNext + 1, logLost := 0 } := by
  refine ⟨_, rfl, rfl, rfl, rfl, (modFn_same ..).trans (if_neg ?_)⟩
  simpa using room

/-- Entries written to a full log are all counted as lost. -/
theorem fn_attnList_full {h : Fn} (l : List (Nat × Dword)) {e : Engine} (full : attnCapacity h ≤ (e.fn h).log.length) :
    (attnList h l e).fn h = { e.fn h with logLost := (e.fn h).logLost + l.length } := by
  induction l generalizing e with
  | nil => rfl
  | cons x l ih =>
    have lost := attn_lost h x.1 0 0 0 x.2 false e full
    rw [attnList, ih (by rw [lost]; exact full), lost, List.length_cons, Nat.add_assoc, Nat.add_comm 1]

theorem logKeepsWhatFits_holds : Claim.logKeepsWhatFits := by
  intro h l
  induction l with
  | nil => exact fun e _ => ⟨[], by simp [attnList]⟩
  | cons x l ih =>
    intro e fits
    rcases fits.lt_or_eq with room | full
    · obtain ⟨a, kind, argument, seq, lost, stored⟩ := fn_attn_room room x.1 x.2
      obtain ⟨new, log, count, kinds, numbered, next, left⟩ := ih (attn h x.1 0 0 0 x.2 false e)
        (by rw [stored]; simpa using room)
      rw [stored] at log count numbered next left
      refine ⟨a :: new, log.trans (by simp), ?count, by simp [kind, argument, kinds], ?numbered,
        next.trans (count_succ ..), left.trans (by simp)⟩
      case count =>
        simp only [List.length_append, List.length_cons, List.length_nil] at count ⊢
        omega
      case numbered =>
        rintro (_ | i) b found
        · cases found
          simp [seq, lost]
        · obtain ⟨seqOf, lostOf⟩ := numbered i b found
          exact ⟨seqOf.trans (count_succ ..), by simpa using lostOf⟩
    · refine ⟨[], ?_⟩
      rw [fn_attnList_full _ full.ge]
      simp [full]

/-! ## The reset account (R245) -/

section Account

/-! The bound is a variable: as a numeral it is unfolded step by step where lengths are compared with it. -/

variable {most : Nat} (bound : most = 65536)
include bound

/-- An outcome is added behind the others; one beyond the bound folds the oldest. -/
theorem Account.add_of_bounded {a : Account} (bounded : a.kept.length ≤ most) (o : Outcome) :
    a.add o = { kept := (a.kept ++ [o]).drop (a.kept.length + 1 - most), next := a.next + 1,
                folded := a.folded + (a.kept.length + 1 - most) } := by
  rcases bounded.lt_or_eq with room | full
  · simp [Account.add, ← bound, Nat.not_lt.mpr (Nat.succ_le_of_lt room), Nat.sub_eq_zero_of_le (Nat.succ_le_of_lt room)]
  · simp [Account.add, ← bound, full]

/-- Of the outcomes that an account held and took, the last ones up to the bound are kept, in order, the others folded. -/
theorem Account.foldl_add (l : List Outcome) {a : Account} (bounded : a.kept.length ≤ most) :
    l.foldl Account.add a = { kept := (a.kept ++ l).drop ((a.kept ++ l).length - most),
                              next := a.next + BitVec.ofNat 32 l.length,
                              folded := a.folded + ((a.kept ++ l).length - most) } := by
  induction l generalizing a with
  | nil => simp [Nat.sub_eq_zero_of_le bounded]
  | cons o l ih =>
    have front : a.kept.length + 1 - most ≤ (a.kept ++ [o]).length := by simp
    rw [List.foldl_cons, Account.add_of_bounded bound bounded, ih (by simp; omega)]
    simp only [Account.mk.injEq, count_succ, List.length_cons, true_and, ← List.drop_append_of_le_length front,
      List.drop_drop, List.append_assoc, List.singleton_append, List.length_drop, List.length_append]
    exact ⟨by congr 1; omega, by omega⟩

end Account

theorem accountFoldsOldest_holds : Claim.accountFoldsOldest := by
  intro a l bounded
  have folds := Account.foldl_add rfl l bounded
  simp only [folds, List.length_drop, true_and]
  exact ⟨by omega, trivial⟩

/-! ## The apply-once records (R227) -/

section Records

variable {f : Fn} {c : BitVec 512}

/-- A command with APPLY_ONCE is recorded last; 64 records are kept. -/
theorem applied_recordOnce (class_ : classA c = true) (once : cOnce c = true) (st : Byte) (d : Dword) (e : Engine) :
    ((recordOnce f c st d e).fn f).applied =
      ((e.fn f).applied ++ [({ tag := cTag c, opcode := cOp c, status := st, dword2 := d } : Applied)]).drop
        ((e.fn f).applied.length + 1 - 64) := by
  simp [recordOnce, class_, once, Engine.fn]

/-- A record is kept, none of its tag before it and at most `n` behind it. -/
def KeptRecord (r : Applied) (n : Nat) (l : List Applied) : Prop :=
  l.length ≤ 64 ∧ ∃ front back, l = front ++ r :: back ∧ (∀ x ∈ front, x.tag ≠ r.tag) ∧ back.length ≤ n

/-- A record that is kept is the first of its tag. -/
theorem KeptRecord.find {r : Applied} {n : Nat} {l : List Applied} (kept : KeptRecord r n l) :
    l.find? (·.tag == r.tag) = some r := by
  obtain ⟨-, front, back, rfl, other, -⟩ := kept
  have unfound : front.find? (·.tag == r.tag) = none := List.find?_eq_none.mpr fun x hx => by simpa using other x hx
  simp [unfound]

/-- The record of a tag that had none is kept. -/
theorem KeptRecord.new {r : Applied} {l : List Applied} (unfound : l.find? (·.tag == r.tag) = none) :
    KeptRecord r 0 ((l ++ [r]).drop (l.length + 1 - 64)) := by
  refine ⟨by simp; omega, l.drop (l.length + 1 - 64), [], ?_, fun x hx => ?_, le_rfl⟩
  · rw [List.drop_append_of_le_length (by omega)]
  · simpa using List.find?_eq_none.mp unfound x (List.mem_of_mem_drop hx)

/-- A further record leaves it kept while 64 have room for both. -/
theorem KeptRecord.push {r : Applied} {n : Nat} {l : List Applied} (kept : KeptRecord r n l) (room : n + 2 ≤ 64)
    (y : Applied) : KeptRecord r (n + 1) ((l ++ [y]).drop (l.length + 1 - 64)) := by
  obtain ⟨-, front, back, rfl, other, few⟩ := kept
  refine ⟨by simp; omega, front.drop ((front ++ r :: back).length + 1 - 64), back ++ [y], ?_,
    fun x hx => other x (List.mem_of_mem_drop hx), by simpa using few⟩
  rw [List.append_assoc, List.drop_append_of_le_length (by simp; omega), List.cons_append]

/-- A record stays kept while fewer than 64 further ones are written behind it. -/
theorem KeptRecord.foldl {r : Applied} {n : Nat} (later : List (BitVec 512 × Byte × Dword)) {e : Engine}
    (kept : KeptRecord r n (e.fn f).applied) (room : n + later.length < 64)
    (recorded : ∀ x ∈ later, classA x.1 = true ∧ cOnce x.1 = true) :
    KeptRecord r (n + later.length) ((later.foldl (fun e x => recordOnce f x.1 x.2.1 x.2.2 e) e).fn f).applied := by
  induction later generalizing n e with
  | nil => exact kept
  | cons x later ih =>
    obtain ⟨⟨class_, once⟩, rest⟩ := List.forall_mem_cons.mp recorded
    rw [List.length_cons] at room
    have next : KeptRecord r (n + 1) ((recordOnce f x.1 x.2.1 x.2.2 e).fn f).applied := by
      rw [applied_recordOnce class_ once]
      exact kept.push (by omega) _
    simpa [Nat.add_assoc, Nat.add_comm 1] using ih next (by omega) rest

end Records

theorem recordsLastSixtyFour_holds : Claim.recordsLastSixtyFour := by
  intro f c st d later e class_ once new few others
  have unfound : (e.fn f).applied.find? (·.tag == cTag c) = none := by simpa [FnState.once, class_, once] using new
  have first : KeptRecord { tag := cTag c, opcode := cOp c, status := st, dword2 := d } 0
      ((recordOnce f c st d e).fn f).applied := by
    rw [applied_recordOnce class_ once]
    exact KeptRecord.new (r := ⟨cTag c, cOp c, st, d⟩) unfound
  have kept := first.foldl later (by omega) fun x hx => ⟨(others x hx).1, (others x hx).2.1⟩
  exact ⟨by simpa [FnState.once, class_, once] using kept.find, kept.1⟩

end Sys2Proof.Machine

namespace Sys2Proof

open Sys2Proof.Machine

/-- Settles O18: entry by entry the log has room or is full; an outcome beyond the bound drops one in front. -/
theorem logsAndAccountsKeepOrder : Obligations.LogsAndAccountsKeepOrder :=
  ⟨logKeepsWhatFits_holds, accountFoldsOldest_holds⟩

/-- Settles O19: a record stands behind those of other tags, and each further one pushes it one place to the front. -/
theorem applyOnceRecordsStay : Obligations.ApplyOnceRecordsStay :=
  recordsLastSixtyFour_holds

end Sys2Proof
end


section
/-! What taking and answering a command leaves of the holdings and functions that it is not of (R204, R209, R234). -/

namespace Sys2Proof.Machine

/-- Answering a command touches only the record, the PCIe function and the CQ 0 of the issuing function, a counter of the
controller and the host stream. -/
theorem finish_keeps {γ : Sort _} (p : Engine → γ) (src : AdminSrc) (record : ∀ f e, p (modFn src.fn f e) = p e)
    (count : ∀ k e, p (countDev k e) = p e) (vector : ∀ f e, p (modPfn src.fn f e) = p e)
    (host : ∀ o e, p (emitHost o e) = p e) (push : ∀ c e, p (pushCompletion src.fn 0 c e) = p e) (c : BitVec 512) (st : Byte)
    (d : Dword) (data : List Byte) (wake : Bool) (e : Engine) : p (finish src c st d data wake e) = p e := by
  have recorded : p (recordOnce src.fn c st d e) = p e := by
    unfold recordOnce
    split
    · exact record ..
    · rfl
  have written : ∀ e, p (writeResponse src.fn c data e) = p e := by
    intro e
    unfold writeResponse hostWrite
    dsimp only
    split
    · rfl
    · split
      · rfl
      · split
        · exact record ..
        · exact forAll_keeps p _ _ e fun _ _ => host ..
  have messaged : ∀ e, p (msix src.fn 0 e) = p e := by
    intro e
    unfold msix
    split
    · rfl
    · split
      · exact vector ..
      · exact host ..
  have accounted : ∀ o e, p (account src.fn o e) = p e := by
    intro o e
    unfold account
    split
    · exact count ..
    · exact record ..
  unfold finish reply
  cases src with
  | mailbox f =>
    unfold mailboxReply
    exact (whenE_keeps p _ _ _ messaged).trans ((record ..).trans ((written _).trans recorded))
  | queue f unit =>
    dsimp only
    split
    · exact (accounted ..).trans ((written _).trans recorded)
    · exact (push ..).trans ((written _).trans recorded)

section Others

variable {g h : Fn} (other : h ≠ g)
include other

theorem hold_modHold_other (f : Holding → Holding) (e : Engine) : (modHold g f e).hold h = e.hold h := by
  rw [Engine.hold, modHold_at, if_neg other.symm]

theorem fn_modFn_other (f : FnState → FnState) (e : Engine) : (modFn g f e).fn h = e.fn h := by
  rw [Engine.fn, modFn_at, if_neg other.symm]

theorem pfn_modPfn_other (f : FnPcie → FnPcie) (e : Engine) : (modPfn g f e).pfn h = e.pfn h := by
  simp only [Engine.pfn, modPfn, vmod_at, if_neg other.symm]

end Others

theorem repliesStayHome_holds : Claim.repliesStayHome := by
  intro src c st d data wake e h other
  exact ⟨takeCommand_rest src e, finish_rest ..,
    takeCommand_keeps (·.hold h) src (fun _ _ => rfl) (fun _ _ => rfl) (fun _ _ => rfl)
      (fun _ _ => hold_modHold_other other ..) (fun _ _ => rfl) e,
    finish_keeps (·.hold h) src (fun _ _ => rfl) (fun _ _ => rfl) (fun _ _ => rfl) (fun _ _ => rfl)
      (fun _ _ => hold_modHold_other other ..) ..,
    takeCommand_keeps (·.fn h) src (fun _ _ => rfl) (fun _ _ => rfl) (fun _ _ => rfl) (fun _ _ => rfl)
      (fun _ _ => fn_modFn_other other ..) e,
    finish_keeps (·.fn h) src (fun _ _ => fn_modFn_other other ..) (fun _ _ => rfl) (fun _ _ => rfl) (fun _ _ => rfl)
      (fun _ _ => rfl) ..,
    finish_keeps (·.pfn h) src (fun _ _ => rfl) (fun _ _ => rfl) (fun _ _ => pfn_modPfn_other other ..) (fun _ _ => rfl)
      (fun _ _ => rfl) ..⟩

end Sys2Proof.Machine

namespace Sys2Proof

open Sys2Proof.Machine

/-- Settles O21: every update of which taking and answering are made is of the issuing holding or function. -/
theorem repliesStayInTheHolding : Obligations.RepliesStayInTheHolding :=
  repliesStayHome_holds

end Sys2Proof
end


section
/-! Faults and their recovery (R225, R226, R254 to R257, R260): ECC errors, the journal, port lanes, datapaths, firmware. -/

namespace Sys2Proof.Machine

open Sys2Proof.Claim

/-! ## ECC errors and the journal (R255) -/

theorem eccUncorrectable_holds : Claim.eccUncorrectable := by
  rintro s ⟨ready, unfenced⟩
  have on : (s.eng.pins.inReset || s.eng.fw.fenced) = false := by simp [ready, unfenced]
  have runs : ∀ site, exec (.eccUncorrectable site) s = execEccUncorrectable site s := fun _ => rfl
  simp only [runs, execEccUncorrectable, onBoth_eq, on, Bool.false_eq_true, if_false, if_true]
  refine ⟨fun _ _ => trivial, fun _ => trivial, fun _ _ => trivial, fun _ => trivial, fun c user awake => ?load,
    fun c user awake => ?store, fun n alone => ?hub, fun n alone => ?rule, fun n yoked => ?hubYoked,
    fun n yoked => ?ruleYoked, fun _ => trivial, fun _ => trivial⟩
  case load => simp [user, awake]
  case store => simp [user, awake]
  case hub => simp [alone]
  case rule => simp [alone]
  case hubYoked => simp [yoked]
  case ruleYoked => simp [yoked]

theorem journalResyncComplete_holds : Claim.journalResyncComplete := fun _ => rfl

/-! ## Port lanes and datapaths (R256) -/

/-- A port whose link is up serves. -/
theorem serves_of_laneOk {s : State} {p : PortId} (up : laneOk s p) :
    ((s.eng.port p).link.state != .lup && (s.eng.port p).link.state != .lmend) = false := by
  rcases up with trained | mending
  · simp [show (s.eng.port p).link.state = .lup from trained]
  · simp [show (s.eng.port p).link.state = .lmend from mending]

theorem portLaneFault_holds : Claim.portLaneFault := by
  intro s p up
  have serves := serves_of_laneOk up
  refine ⟨fun first => ?_, fun t before soon => ?_, fun t before late => ?_⟩
  · exact onEng_treeWork (by simp only [serves, first, Bool.false_eq_true, if_false])
  · exact onEng_treeWork (by simp only [serves, before, soon, decide_true, Bool.false_eq_true, if_false, if_true])
  · exact onEng_treeWork (by simp only [serves, before, Nat.not_lt.mpr late, decide_false, Bool.false_eq_true, if_false])

theorem portLaneFaultDown_holds : Claim.portLaneFaultDown := by
  intro s p down
  obtain ⟨untrained, unmending⟩ := not_or.mp down
  refine onEng_treeWork ?_
  simp [untrained, unmending]

theorem datapathScrubComplete_holds : Claim.datapathScrubComplete := by
  intro s p scrubbing
  have runs : exec (.datapathScrubComplete p) s = execDatapathScrubComplete p s := rfl
  rw [runs, execDatapathScrubComplete, onEng_eq]
  exact ⟨fun locked _ => by simp [scrubbing, locked], fun lost => by simp [scrubbing, lost]⟩

/-! ## Firmware (R225, R257) -/

theorem firmwareWatchdogExpiry_holds : Claim.firmwareWatchdogExpiry := by
  rintro s c ⟨firmware, runs, up, live, active⟩
  have faults : (((s.eng.fw.faults.filter fun t => decide (s.eng.now < t + 1000000000)) ++ [s.eng.now]).length)
    = (recentFaults s).length + 1 := by simp
  refine ⟨fun few => ?restarts, fun many => ?fences⟩
  case restarts =>
    show execFirmwareWatchdogExpiry c s = _
    simp only [execFirmwareWatchdogExpiry, onBoth_eq, firmwareFault, firmware, runs, up, live, active, faults]
    simp [show ¬ 4 ≤ (recentFaults s).length + 1 by omega]
  case fences =>
    show execFirmwareWatchdogExpiry c s = _
    simp only [execFirmwareWatchdogExpiry, onBoth_eq, firmwareFault, firmware, runs, up, live, active, faults]
    simp [show 4 ≤ (recentFaults s).length + 1 by omega]

theorem firmwareRestartComplete_holds : Claim.firmwareRestartComplete := by
  intro s restarting
  refine onEng_treeWork ?_
  simp only [restarting]
  rfl

end Sys2Proof.Machine

namespace Sys2Proof

open Sys2Proof.Machine

/-- Settles O45: an ECC error by its site, a lane fault by the link's state and the fault before it, a firmware fault by how
many came within 1 s. -/
theorem faultEventsComplete : Obligations.FaultEventsComplete :=
  ⟨eccUncorrectable_holds, journalResyncComplete_holds, portLaneFault_holds, portLaneFaultDown_holds,
    datapathScrubComplete_holds, firmwareWatchdogExpiry_holds, firmwareRestartComplete_holds⟩

end Sys2Proof
end


section
/-! Requests and read tags of the memory port (R25, R234, R349): how a read or write is cut, and which reads go out. -/

namespace Sys2Proof.Machine

open Sys2Proof.Claim

/-! ## Cutting (R349) -/

/-- No request is empty or crosses a multiple of the limit: up to one there is `m - a % m`. -/
theorem splitReq_inLimit {m : Nat} (pos : 0 < m) (n : Nat) (a : Qword) (len : Nat) :
    ∀ x ∈ splitReq m n a len, 0 < x.2 ∧ x.1.toNat % m + x.2 ≤ m := by
  induction n generalizing a len with
  | zero => nofun
  | succ n ih =>
    have below := Nat.mod_lt a.toNat pos
    unfold splitReq
    dsimp only
    split
    next => nofun
    next some_ =>
      split
      next last => exact List.forall_mem_singleton.mpr ⟨by omega, by dsimp only; omega⟩
      next => exact List.forall_mem_cons.mpr ⟨⟨by dsimp only; omega, by dsimp only; omega⟩, ih _ _⟩

/-- The addresses of `len` bytes from an address on. -/
def byteAddrs (a : Qword) (len : Nat) : List Qword := (List.range len).map fun i => a + BitVec.ofNat 64 i

theorem byteAddrs_add (a : Qword) (k n : Nat) :
    byteAddrs a (k + n) = byteAddrs a k ++ byteAddrs (a + BitVec.ofNat 64 k) n := by
  simp only [byteAddrs, List.range_add, List.map_append, List.map_map]
  congr 2
  funext i
  simp only [Function.comp, BitVec.ofNat_add, BitVec.add_assoc]

/-- The requests name every byte once, in order: each is followed by those of what it leaves. -/
theorem splitReq_covers {m : Nat} (pos : 0 < m) {n : Nat} (a : Qword) {len : Nat} (fuel : len < n) :
    (splitReq m n a len).flatMap (fun x => byteAddrs x.1 x.2) = byteAddrs a len := by
  induction n generalizing a len with
  | zero => omega
  | succ n ih =>
    have below := Nat.mod_lt a.toNat pos
    unfold splitReq
    dsimp only
    split
    next none_ => rw [none_]; rfl
    next some_ =>
      split
      next last => simp
      next more =>
        rw [List.flatMap_cons, ih _ (by omega), ← byteAddrs_add]
        congr 1
        omega

theorem requestsInLimit_holds : Claim.requestsInLimit := fun _ a len pos =>
  ⟨splitReq_inLimit pos _ a len, splitReq_covers pos a (Nat.lt_succ_self len)⟩

/-! ## Read tags (R25, R349) -/

/-- The tags of a requester after a read that held none has been replaced. -/
theorem tags_set {l : List HostRead} {k : Nat} {r : HostRead} (there : l[k]? = some r) (free : r.tags = 0) (n : Nat)
    (w : Requester) :
    (((l.set k { r with sent := true, tags := n }).filter fun x => x.who == w).map (·.tags)).sum =
      ((l.filter fun x => x.who == w).map (·.tags)).sum + (if r.who = w then n else 0) := by
  obtain ⟨inside, at_⟩ := List.getElem?_eq_some_iff.mp there
  have whole : l = l.take k ++ r :: l.drop (k + 1) := by simp [← at_]
  rw [List.set_eq_take_append_cons_drop, if_pos inside]
  conv_rhs => rw [whole]
  by_cases mine : r.who = w
  · simp [mine, free]
    omega
  · simp [mine]

/-- Requests that go out, or not, leave what a request leaves. -/
theorem requests_keep {γ : Sort _} (p : Engine → γ) (host : ∀ o e, p (emitHost o e) = p e) (off : Bool)
    (l : List (Qword × Nat)) (o : Qword × Nat → HostOut) (e : Engine) :
    p (if off = true then e else forAll l (fun x => emitHost (o x)) e) = p e := by
  split
  · rfl
  · exact forAll_keeps p _ _ e fun _ _ => host ..

/-- What issuing the read at a place does: nothing, or the read goes out on tags that were free, or without one because its
function is held or the controller fenced. -/
theorem sendRead_cases (k : Nat) (e : Engine) : sendRead k e = e ∨ ∃ r n, e.reads[k]? = some r ∧ r.sent = false ∧
    (sendRead k e).reads = e.reads.set k { r with sent := true, tags := n } ∧ (sendRead k e).pcie = e.pcie ∧
    (sendRead k e).fw = e.fw ∧ n ≤ e.pcie.pool.tags r.who - e.tagsHeld r.who ∧
    (e.held r.fn = false → e.fw.fenced = false → e.tagsHeld r.who < e.pcie.pool.tags r.who) := by
  unfold sendRead
  split
  next => exact .inl rfl
  next r there =>
    dsimp only
    split
    next => exact .inl rfl
    next goes =>
      obtain ⟨unsent, free⟩ : r.sent = false ∧
          ((e.held r.fn || e.fw.fenced) = false → e.pcie.pool.tags r.who - e.tagsHeld r.who ≠ 0) := by
        simpa using goes
      refine .inr ⟨r, if e.held r.fn || e.fw.fenced then 0
          else min (e.pcie.pool.tags r.who - e.tagsHeld r.who) r.reqs.length, there, unsent, requests_keep (·.reads) (fun _ _ => rfl) ..,
        requests_keep (·.pcie) (fun _ _ => rfl) .., requests_keep (·.fw) (fun _ _ => rfl) .., ?_, fun up open_ => ?_⟩
      · split <;> omega
      · have := free (by simp [up, open_])
        omega

/-- One engine comes from another by issuing reads: no requester holds more tags than its pool has, what has gone out stays as
it is, and a read of a requester without a free tag waits (but of a function whose requests are held, or behind the fence). -/
structure Issues (e e' : Engine) : Prop where
  inPool : TagsInPool e'
  length : e'.reads.length = e.reads.length
  pcie : e'.pcie = e.pcie
  fw : e'.fw = e.fw
  sent : ∀ (k : Nat) (r : HostRead), e.reads[k]? = some r → r.sent = true → e'.reads[k]? = some r
  full : ∀ w, e.tagsHeld w = e.pcie.pool.tags w → e'.tagsHeld w = e.pcie.pool.tags w
  waits : ∀ (k : Nat) (r : HostRead), e.reads[k]? = some r → e.tagsHeld r.who = e.pcie.pool.tags r.who →
    e.held r.fn = false → e.fw.fenced = false → e'.reads[k]? = some r

theorem Issues.refl {e : Engine} (inPool : TagsInPool e) : Issues e e :=
  ⟨inPool, rfl, rfl, rfl, fun _ _ there _ => there, fun _ full => full, fun _ _ there _ _ _ => there⟩

theorem Issues.trans {a b c : Engine} (first : Issues a b) (second : Issues b c) : Issues a c where
  inPool := second.inPool
  length := second.length.trans first.length
  pcie := second.pcie.trans first.pcie
  fw := second.fw.trans first.fw
  sent k r there gone := second.sent k r (first.sent k r there gone) gone
  full w full := first.pcie ▸ second.full w (first.pcie ▸ first.full w full)
  waits k r there full up open_ := by
    have up' : b.held r.fn = false := by simpa only [Engine.held, Engine.pfn, Engine.fnEnabled, first.pcie] using up
    exact second.waits k r (first.waits k r there full up open_) (first.pcie ▸ first.full _ full) up' (first.fw ▸ open_)

theorem sendRead_issues (k : Nat) {e : Engine} (inPool : TagsInPool e) : Issues e (sendRead k e) := by
  obtain ⟨bounded, untagged⟩ := inPool
  rcases sendRead_cases k e with same | ⟨r, n, there, unsent, reads, pcie, fw, fits, free⟩
  · rw [same]
    exact .refl ⟨bounded, untagged⟩
  · have held : ∀ w, (sendRead k e).tagsHeld w = e.tagsHeld w + if r.who = w then n else 0 := by
      intro w
      rw [Engine.tagsHeld, reads]
      exact tags_set there (untagged r (List.mem_of_getElem? there) unsent) n w
    have within : ∀ w, e.tagsHeld w + (if r.who = w then n else 0) ≤ e.pcie.pool.tags w := by
      intro w
      have := bounded w
      split
      next mine => subst mine; omega
      next => exact this
    have elsewhere : ∀ (j : Nat) (x : HostRead), e.reads[j]? = some x → j ≠ k → (sendRead k e).reads[j]? = some x := by
      intro j x at_ other
      rw [reads, List.getElem?_set_ne other.symm, at_]
    refine ⟨⟨fun w => ?_, fun x mem waits => ?_⟩, by rw [reads, List.length_set], pcie, fw, fun j x at_ gone => ?_,
      fun w full => ?_, fun j x at_ full up open_ => ?_⟩
    · rw [held, pcie]
      exact within w
    · rw [reads] at mem
      rcases List.mem_or_eq_of_mem_set mem with old | new
      · exact untagged x old waits
      · rw [new] at waits
        cases waits
    · refine elsewhere j x at_ fun here => ?_
      rw [here, there] at at_
      cases at_
      exact Bool.false_ne_true (unsent.symm.trans gone)
    · have := within w
      rw [held]
      omega
    · refine elsewhere j x at_ fun here => ?_
      rw [here, there] at at_
      cases at_
      exact absurd full (free up open_).ne

theorem pumpReads_issues {e : Engine} (inPool : TagsInPool e) : Issues e (pumpReads e) := by
  unfold pumpReads
  generalize List.range e.reads.length = l
  induction l generalizing e with
  | nil => exact .refl inPool
  | cons k l ih =>
    have first := sendRead_issues k inPool
    exact first.trans (ih first.inPool)

theorem tagsWithinPool_holds : Claim.tagsWithinPool := by
  intro e inPool
  obtain ⟨kept, length, pcie, -, sent, -, waits⟩ := pumpReads_issues inPool
  exact ⟨kept, length, pcie, sent, waits⟩

theorem tagPoolsAreR349_holds : Claim.tagPoolsAreR349 := rfl

end Sys2Proof.Machine
end

section
/-! What PCIe does to the functions and their holdings (R206, R241 to R246, R351 to R357, R366, R367, R369): PE_PERST_N, FLR, VF
Enable, Bus Master Enable, the D-states, the end of a read, configuration headers. -/

namespace Sys2Proof.Machine

open Sys2Proof.Claim

/-! ## PE_PERST_N (R332, R357, R366, R367) -/

theorem pePerstNAssert_holds : Claim.pePerstNAssert := fun _ => rfl

theorem pePerstNRelease_holds : Claim.pePerstNRelease := by
  intro s
  have runs : exec .pePerstNRelease s = execPePerstNRelease s := rfl
  rw [runs, execPePerstNRelease, onEng_eq]
  refine ⟨fun asserted ready unfenced free => ?up, fun asserted off => ?down, fun released => ?ignored⟩
  case up =>
    have on : (s.eng.pins.inReset || s.eng.fw.fenced || s.eng.jtag.holds) = false := by simp [ready, unfenced, free]
    simp only [asserted, on, Bool.not_true, Bool.not_false, Bool.or_false, Bool.false_eq_true, if_false, whenE_true, perstGone,
      pulse_pins, pulse_pcie]
  case down =>
    have held : (s.eng.pins.inReset || s.eng.fw.fenced || s.eng.jtag.holds) = true := by
      simpa only [Bool.or_eq_true, or_assoc] using off
    simp only [asserted, held, Bool.not_true, Bool.or_true, Bool.false_eq_true, if_false, if_true, whenE_false, perstGone,
      pulse_pins, pulse_pcie]
  case ignored => simp only [released, Bool.not_false, if_true]

/-! ## Resets of functions and holdings (R241 to R246, R356, R366) -/

theorem flr_holds : Claim.flr := by
  rintro s f ⟨answers, enabled, ready⟩
  have runs : exec (.flr f) s = execFlr f s := rfl
  rw [runs, execFlr, onEng_eq]
  refine ⟨fun vf => ?_, fun pf_ => ?_⟩
  · simp [answers, enabled, ready, beq_eq_false_iff_ne.mpr vf]
  · subst pf_
    simp [answers, enabled, ready]

theorem holdingResetAbandon_holds : Claim.holdingResetAbandon := by
  intro s f r resetting
  have runs : exec (.holdingResetAbandon f) s = execHoldingResetAbandon f s := rfl
  rw [runs, execHoldingResetAbandon, onEng_eq, resetting]

theorem holdingResetEnd_holds : Claim.holdingResetEnd := fun _ _ => rfl

theorem vfEnableClear_holds : Claim.vfEnableClear := by
  intro s n answers ready enabled
  have runs : exec (.vfEnableClear false n) s = execVfEnableClear false n s := rfl
  rw [runs, execVfEnableClear, onEng_eq]
  simp [answers, ready, enabled]

theorem vfEnableSet_holds : Claim.vfEnableSet := by
  intro s n answers ready disabled
  have runs : exec (.vfEnableSet n) s = execVfEnableSet n s := rfl
  rw [runs, execVfEnableSet, onEng_eq]
  simp only [answers, ready, disabled, Bool.or_self, Bool.false_eq_true, if_false]

/-! ## Holding a function (R234, R281, R352) -/

/-- The PF's Bus Master Enable counts as the host's again. -/
theorem whenE_bmeKept (f : Fn) (e : Engine) :
    whenE (f == pf) (fun e => { e with pcie := { e.pcie with bmeLost := false } }) e = bmeKept f e := by
  by_cases first : f = pf
  · simp [bmeKept, first]
  · simp [bmeKept, first, beq_eq_false_iff_ne.mpr first]

theorem busMasterEnableSet_holds : Claim.busMasterEnableSet := by
  rintro s f ⟨answers, enabled, ready⟩
  have runs : exec (.busMasterEnableSet f) s = execBusMasterEnableSet f s := rfl
  rw [runs, execBusMasterEnableSet, onEng_eq]
  simp only [answers, enabled, ready, whenE_bmeKept, Bool.not_true, Bool.or_self, Bool.false_eq_true, if_false]

theorem busMasterEnableClear_holds : Claim.busMasterEnableClear := by
  intro s f answers ready
  have runs : exec (.busMasterEnableClear f) s = execBusMasterEnableClear f s := rfl
  rw [runs, execBusMasterEnableClear, onEng_eq]
  simp only [answers, ready, whenE_bmeKept, Bool.or_self, Bool.false_eq_true, if_false]

theorem d3hotEntry_holds : Claim.d3hotEntry := by
  rintro s f ⟨answers, enabled, ready⟩
  have runs : exec (.d3hotEntry f) s = execD3hotEntry f s := rfl
  rw [runs, execD3hotEntry, onEng_eq]
  simp only [answers, enabled, ready, Bool.not_true, Bool.or_self, Bool.false_eq_true, if_false]

theorem d0Return_holds : Claim.d0Return := by
  intro s f answers ready
  have runs : exec (.d0Return f) s = execD0Return f s := rfl
  rw [runs, execD0Return, onEng_eq]
  simp only [answers, ready, Bool.or_self, Bool.false_eq_true, if_false]

/-! ## A read that times out, configuration headers (R351, R353, R357) -/

/-- The timeout of an outstanding read is its failed completion. -/
theorem exec_readCompletionTimeout {s : State} {tag : ReadTag} (outstanding : (s.eng.read? tag).isSome = true) :
    exec (.readCompletionTimeout tag) s = failedRead tag s :=
  if_pos outstanding

theorem readCompletionTimeout_holds : Claim.readCompletionTimeout := by
  refine fun s => ⟨fun f sq out => ?_, fun f sq out => ?_, fun i out => ?_, fun f a out => ?_, fun t none_ => ?_⟩
  · exact (exec_readCompletionTimeout out).trans rfl
  · exact (exec_readCompletionTimeout out).trans rfl
  · exact (exec_readCompletionTimeout out).trans rfl
  · exact (exec_readCompletionTimeout out).trans rfl
  · have runs : exec (.readCompletionTimeout t) s = execReadCompletionTimeout t s := rfl
    rw [runs, execReadCompletionTimeout, none_]
    rfl

theorem headersIdentify_holds : Claim.headersIdentify := by
  intro e f enabled link
  refine ⟨fun crs => by simp [Engine.configIdentity, crs], fun answers => ?_, rfl⟩
  refine ⟨identityOf f, by simp [Engine.configIdentity, answers, enabled, link], rfl, rfl, rfl, rfl, rfl, rfl, rfl, rfl,
    fun absent => ?_⟩
  simp [identityOf, absent]

end Sys2Proof.Machine

namespace Sys2Proof

open Sys2Proof.Machine

/-- Settles O59: each event by what enables it, the cuts by induction on what is left, the tags read by read. -/
theorem pcieEventsComplete : Obligations.PcieEventsComplete :=
  ⟨pePerstNAssert_holds, pePerstNRelease_holds, flr_holds, holdingResetAbandon_holds, holdingResetEnd_holds,
    vfEnableClear_holds, vfEnableSet_holds, busMasterEnableSet_holds, busMasterEnableClear_holds, d3hotEntry_holds,
    d0Return_holds, readCompletionTimeout_holds, requestsInLimit_holds, tagsWithinPool_holds, tagPoolsAreR349_holds,
    headersIdentify_holds⟩

end Sys2Proof
end


section
/-! The slices of the context table (R233): the blocks before a plot, the one plot of an index, the length of a slice. -/

namespace Sys2Proof.Machine

/-- Where the slice of plot `k` of `n` begins in a table of `blocks` blocks of 4,096 entries (R233). -/
def sliceStart (n blocks k : Nat) : Nat := 4096 * (k * blocks / n)

/-- The plot whose slice holds index `i`: the last one that does not begin past the block of `i`. -/
def plotOfIndex (n blocks i : Nat) : Nat := ((i / 4096 + 1) * n - 1) / blocks

theorem sliceOf_blocks (k n blocks : Nat) :
    sliceOf k n (4096 * blocks) = (sliceStart n blocks k, sliceStart n blocks (k + 1) - sliceStart n blocks k) := by
  simp [sliceOf, sliceStart]

/-- The next plot begins the whole blocks of an even share later, and one block more where the remainders reach `n`. -/
theorem sliceStart_succ {n : Nat} (plots : 0 < n) (blocks k : Nat) :
    sliceStart n blocks (k + 1) = sliceStart n blocks k
      + 4096 * (blocks / n + if n ≤ k * blocks % n + blocks % n then 1 else 0) := by
  rw [sliceStart, sliceStart, Nat.add_one_mul k, Nat.add_div plots, Nat.add_assoc, Nat.mul_add]

theorem sliceOf_blocks_end {n : Nat} (plots : 0 < n) (blocks k : Nat) :
    (sliceOf k n (4096 * blocks)).1 + (sliceOf k n (4096 * blocks)).2 = sliceStart n blocks (k + 1) := by
  rw [sliceOf_blocks, sliceStart_succ plots]
  omega

theorem sliceStart_le_iff {n blocks : Nat} (plots : 0 < n) (some : 0 < blocks) (k i : Nat) :
    sliceStart n blocks k ≤ i ↔ k ≤ plotOfIndex n blocks i := by
  have room : 0 < (i / 4096 + 1) * n := Nat.mul_pos (Nat.succ_pos _) plots
  calc 4096 * (k * blocks / n) ≤ i
    _ ↔ k * blocks / n < i / 4096 + 1 := by omega
    _ ↔ k * blocks < (i / 4096 + 1) * n := Nat.div_lt_iff_lt_mul plots
    _ ↔ k * blocks ≤ (i / 4096 + 1) * n - 1 := by omega
    _ ↔ k ≤ plotOfIndex n blocks i := (Nat.le_div_iff_mul_le some).symm

/-- An index lies in the slice of `plotOfIndex` alone: it is not before that start and is before the next. -/
theorem mem_sliceOf_iff {n blocks : Nat} (plots : 0 < n) (some : 0 < blocks) (k i : Nat) :
    ((sliceOf k n (4096 * blocks)).1 ≤ i ∧ i < (sliceOf k n (4096 * blocks)).1 + (sliceOf k n (4096 * blocks)).2)
      ↔ k = plotOfIndex n blocks i := by
  rw [sliceOf_blocks_end plots, sliceOf_blocks, sliceStart_le_iff plots some, ← not_le, sliceStart_le_iff plots some]
  omega

theorem plotOfIndex_lt {n blocks i : Nat} (plots : 0 < n) (inside : i < 4096 * blocks) : plotOfIndex n blocks i < n := by
  have upTo : (i / 4096 + 1) * n ≤ blocks * n := Nat.mul_le_mul_right n (by omega)
  have room : 0 < (i / 4096 + 1) * n := Nat.mul_pos (Nat.succ_pos _) plots
  rw [plotOfIndex, Nat.div_lt_iff_lt_mul (by omega), Nat.mul_comm n]
  omega

theorem sliceOf_blocks_length {n : Nat} (plots : 0 < n) (blocks k : Nat) :
    (sliceOf k n (4096 * blocks)).2 = 4096 * (blocks / n) ∨
      (sliceOf k n (4096 * blocks)).2 = 4096 * (blocks / n + 1) := by
  rw [sliceOf_blocks, sliceStart_succ plots, Nat.add_sub_cancel_left]
  split
  · exact .inr rfl
  · exact .inl rfl

theorem slicesCoverTable_holds : Claim.slicesCoverTable := by
  refine fun n blocks plots => ⟨fun i inside => ?_, fun k _ => ⟨?_, sliceOf_blocks_length plots blocks k⟩⟩
  · have only := fun k => mem_sliceOf_iff (blocks := blocks) plots (by omega) k i
    obtain ⟨begun, ends⟩ := (only (plotOfIndex n blocks i)).2 rfl
    exact ⟨_, plotOfIndex_lt plots inside, begun, ends, fun j _ hb he => (only j).1 ⟨hb, he⟩⟩
  · rw [sliceOf_blocks]
    exact Nat.dvd_mul_right 4096 _

end Sys2Proof.Machine

namespace Sys2Proof

open Sys2Proof.Machine

/-- Settles O17: an index lies in the slice of plot `plotOfIndex` and no other; two neighbouring starts give the length. -/
theorem slicesCoverTheTable : Obligations.SlicesCoverTheTable :=
  slicesCoverTable_holds

end Sys2Proof
end


section
/-! Journal records as bytes (R260, R261): positions and flags in a number, and each record by the places of its fields. -/

namespace Sys2Proof.Machine

open Sys2Proof.Claim

/-! ## Flags and positions in a number -/

/-- The low bytes of a wider field. -/
theorem leAt_within {n m : Nat} (low : n ≤ m) (x : Nat) : leAt 0 n (leBytes m x) = x % 256 ^ n := by
  have taken : (leBytes m x).take n = leBytes n x := by
    induction n generalizing m x with
    | zero => rfl
    | succ n ih =>
      obtain ⟨m, rfl⟩ : ∃ k, m = k + 1 := ⟨m - 1, by omega⟩
      rw [leBytes, leBytes, List.take_succ_cons, ih (by omega)]
  rw [leAt, slice, List.drop_zero, taken, leNat_leBytes]

theorem b2n_le (b : Bool) : b2n b ≤ 1 := by cases b <;> decide

/-- A flag stands at the bit whose weight it has. -/
theorem testBit_of_b2n {n i : Nat} {b : Bool} (place : n / 2 ^ i % 2 = b2n b) : n.testBit i = b := by
  rw [Nat.testBit_eq_decide_div_mod_eq, place]
  cases b <;> rfl

section Positions

variable {r : RingPos} (inside : r.at_ < 2 ^ 31)
include inside

theorem ringForm_lt : ringForm r < 256 ^ 4 := by
  have := b2n_le r.phase
  unfold ringForm
  omega

theorem ringOf_ringForm : ringOf (ringForm r) = r := by
  have := b2n_le r.phase
  have at_ : ringForm r % 2 ^ 31 = r.at_ := by unfold ringForm; omega
  have phase : (ringForm r).testBit 31 = r.phase := testBit_of_b2n (by unfold ringForm; omega)
  rw [ringOf, at_, phase]

end Positions

/-- A word that was taken as a number is read back. -/
theorem ofNat_of_mod {w n : Nat} {x : BitVec w} (low : n % 2 ^ w = x.toNat) : BitVec.ofNat w n = x :=
  BitVec.eq_of_toNat_eq (by rw [BitVec.toNat_ofNat, low])

/-- A holding fills less than a byte. -/
theorem finOf_holding (h : Fn) : finOf 64 h.val = h := Fin.ext (Nat.mod_eq_of_lt h.isLt)

/-! ## Position records -/

theorem posOfCode_posCode (k : PosKind) : posOfCode (posCode k) = some k := by cases k <;> rfl

theorem posCode_lt (k : PosKind) : posCode k < 16 := by cases k <;> decide

theorem posBytes_fields {r : PosRec} (ok : posOk r) : let bs := posBytes r
    leAt 0 1 bs = posCode r.kind ∧ leAt 1 1 bs = r.holding.val ∧ leAt 2 2 bs = r.num
      ∧ leAt 4 4 bs = ringForm r.issued ∧ leAt 8 4 bs = ringForm r.settled ∧ leAt 12 4 bs = r.sequence.toNat := by
  obtain ⟨num, issued, settled, sequence⟩ := ok
  have kept : (if r.kind == .sheafRing then r.sequence else 0) = r.sequence := by
    by_cases sheaf : r.kind = .sheafRing
    · simp [sheaf]
    · simp [sheaf, sequence sheaf]
  have := posCode_lt r.kind
  refine ⟨?kind, ?holding, ?num, ?issued, ?settled, ?sequence⟩
  all_goals simp only [posBytes, kept]
  all_goals simp [wordBytes, leAt_behind, leAt_front, leAt_all]
  case kind => omega
  case holding => omega
  case num => omega
  case issued => exact ringForm_lt issued
  case settled => exact ringForm_lt settled
  case sequence => exact r.sequence.isLt

theorem parsePosRec_posBytes {r : PosRec} (ok : posOk r) : parsePosRec (posBytes r) = some r := by
  obtain ⟨kind, holding, num, issued, settled, sequence⟩ := posBytes_fields ok
  obtain ⟨rNum, rIssued, rSettled, -⟩ := ok
  simp only [parsePosRec, kind, holding, num, issued, settled, sequence, Nat.mod_eq_of_lt (posCode_lt r.kind),
    posOfCode_posCode, Nat.mod_eq_of_lt rNum, ringOf_ringForm rIssued, ringOf_ringForm rSettled, finOf_holding,
    BitVec.ofNat_toNat, BitVec.setWidth_eq, Option.map_some]

/-! ## Periodic records -/

/-- The dword of a periodic record that names endpoint, row and kind. -/
def periodicWord (r : PeriodicRec) : Nat := r.dev.toNat + 2 ^ 20 * r.ep.toNat + 2 ^ 24 * r.row + 2 ^ 28 * r.kind

theorem periodicBytes_fields {r : PeriodicRec} (ok : periodicOk r) : let bs := periodicBytes r
    leAt 0 1 bs = 6 + 16 * (if r.replied then 2 else 1) ∧ leAt 1 1 bs = r.holding.val ∧ leAt 2 1 bs = r.ring
      ∧ leAt 3 1 bs = r.listId ∧ leAt 4 4 bs = periodicWord r ∧ leAt 8 4 bs = r.frame.toNat
      ∧ leAt 12 2 bs = r.serial.toNat := by
  obtain ⟨ring, listId, row, kind⟩ := ok
  have := r.dev.isLt
  have := r.ep.isLt
  refine ⟨?state, ?holding, ?ring, ?listId, ?word, ?frame, ?serial⟩
  all_goals simp [periodicBytes, wordBytes, leAt_behind, leAt_front]
  case state => split <;> decide
  case holding => omega
  case ring => omega
  case listId => omega
  case word => unfold periodicWord; omega
  case frame => exact r.frame.isLt
  case serial => exact r.serial.isLt

theorem periodicWord_fields {r : PeriodicRec} (ok : periodicOk r) : BitVec.ofNat 20 (periodicWord r) = r.dev
    ∧ BitVec.ofNat 4 (periodicWord r / 2 ^ 20) = r.ep ∧ periodicWord r / 2 ^ 24 % 16 = r.row
    ∧ periodicWord r / 2 ^ 28 % 8 = r.kind := by
  obtain ⟨-, -, row, kind⟩ := ok
  have := r.dev.isLt
  have := r.ep.isLt
  unfold periodicWord
  exact ⟨ofNat_of_mod (by omega), ofNat_of_mod (by omega), by omega, by omega⟩

theorem parsePeriodicRec_periodicBytes {r : PeriodicRec} (ok : periodicOk r) :
    parsePeriodicRec (periodicBytes r) = some r := by
  obtain ⟨state, holding, ring, listId, word, frame, serial⟩ := periodicBytes_fields ok
  obtain ⟨dev, ep, row, kind⟩ := periodicWord_fields ok
  have isPeriodic : ((6 + 16 * (if r.replied then 2 else 1)) % 16 != 6) = false := by split <;> rfl
  have replied : ((6 + 16 * (if r.replied then 2 else 1)) / 16 == 2) = r.replied := by cases r.replied <;> rfl
  simp only [parsePeriodicRec, state, holding, ring, listId, word, frame, serial, dev, ep, row, kind, isPeriodic, replied,
    finOf_holding, BitVec.ofNat_toNat, BitVec.setWidth_eq, Bool.false_eq_true, if_false]

/-! ## Item records -/

/-- The half word of an item record that names its queue. -/
def itemQueue (r : ItemRec) : Nat := r.sq + 4096 * b2n r.relayed + 8192 * b2n r.adopted

/-- The dword of an item record that names its units, with the flags of its entry. -/
def itemUnits (r : ItemRec) : Nat :=
  r.unit + 2 ^ 20 * (r.units - 1) + 2 ^ 24 * b2n r.complete + 2 ^ 25 * b2n r.fence + 2 ^ 26 * b2n r.interrupt

/-- The dword of an item record that names its endpoint and opcode. -/
def itemTarget (r : ItemRec) : Nat := r.dev.toNat + 2 ^ 20 * r.ep.toNat + 2 ^ 24 * r.opcode

theorem itemState_lt (r : ItemRec) : itemState r < 4 := by
  unfold itemState
  split
  · decide
  · split <;> decide

theorem itemBytes_fields {r : ItemRec} (ok : itemOk r) : let bs := itemBytes r
    leAt 0 1 bs = 5 + 16 * itemState r ∧ leAt 1 1 bs = r.holding.val ∧ leAt 2 2 bs = itemQueue r
      ∧ leAt 4 4 bs = itemUnits r ∧ leAt 8 4 bs = r.tag.toNat ∧ leAt 12 4 bs = itemTarget r
    ∧ leAt 16 4 bs = r.bytes ∧ leAt 20 2 bs = r.seq.toNat ∧ leAt 22 1 bs = (r.status.getD 0).toNat
      ∧ leAt 23 1 bs = stageCode r.stage ∧ leAt 24 4 bs = r.length ∧ leAt 28 2 bs = r.cq := by
  obtain ⟨sq, unit, unitsMin, unitsMax, opcode, bytes, length, cq, -⟩ := ok
  have := itemState_lt r
  have := r.dev.isLt
  have := r.ep.isLt
  have := b2n_le r.relayed
  have := b2n_le r.adopted
  have := b2n_le r.complete
  have := b2n_le r.fence
  have := b2n_le r.interrupt
  refine ⟨?state, ?holding, ?queue, ?units, ?tag, ?target, ?bytes, ?seq, ?status, ?stage, ?length, ?cq⟩
  all_goals simp [itemBytes, wordBytes, leAt_behind, leAt_front, leAt_within]
  case state => omega
  case holding => omega
  case queue => unfold itemQueue; omega
  case units => unfold itemUnits; omega
  case tag => exact r.tag.isLt
  case target => unfold itemTarget; omega
  case bytes => exact bytes
  case seq => exact r.seq.isLt
  case status => exact (r.status.getD 0).isLt
  case stage => cases r.stage <;> decide
  case length => exact length
  case cq => omega

theorem itemQueue_fields {r : ItemRec} (ok : itemOk r) : itemQueue r % 4096 = r.sq
    ∧ (itemQueue r).testBit 12 = r.relayed ∧ (itemQueue r).testBit 13 = r.adopted := by
  obtain ⟨sq, -⟩ := ok
  have := b2n_le r.relayed
  have := b2n_le r.adopted
  unfold itemQueue
  exact ⟨by omega, testBit_of_b2n (by omega), testBit_of_b2n (by omega)⟩

theorem itemUnits_fields {r : ItemRec} (ok : itemOk r) : itemUnits r % 2 ^ 20 = r.unit
    ∧ itemUnits r / 2 ^ 20 % 16 + 1 = r.units ∧ (itemUnits r).testBit 24 = r.complete
    ∧ (itemUnits r).testBit 25 = r.fence ∧ (itemUnits r).testBit 26 = r.interrupt := by
  obtain ⟨-, unit, unitsMin, unitsMax, -⟩ := ok
  have := b2n_le r.complete
  have := b2n_le r.fence
  have := b2n_le r.interrupt
  unfold itemUnits
  exact ⟨by omega, by omega, testBit_of_b2n (by omega), testBit_of_b2n (by omega), testBit_of_b2n (by omega)⟩

theorem itemTarget_fields (r : ItemRec) : BitVec.ofNat 20 (itemTarget r) = r.dev
    ∧ BitVec.ofNat 4 (itemTarget r / 2 ^ 20) = r.ep ∧ itemTarget r / 2 ^ 24 = r.opcode := by
  have := r.dev.isLt
  have := r.ep.isLt
  unfold itemTarget
  exact ⟨ofNat_of_mod (by omega), ofNat_of_mod (by omega), by omega⟩

theorem stageOf_stageCode (t : Stage) : stageOf (stageCode t) = t := by cases t <;> rfl

/-- The state tells the decision and, while there is none, whether a transaction is outstanding. -/
theorem itemState_fields {r : ItemRec} (ok : itemOk r) :
    (if itemState r = 3 then some (r.status.getD 0) else none) = r.status
      ∧ (itemState r == 2) = r.outstanding := by
  obtain ⟨-, -, -, -, -, -, -, -, decided⟩ := ok
  unfold itemState
  cases status : r.status with
  | some b => simp [decided (by simp [status])]
  | none => cases r.outstanding <;> simp

theorem parseItemRec_itemBytes {r : ItemRec} (ok : itemOk r) : parseItemRec (itemBytes r) = some r := by
  obtain ⟨state, holding, queue, units, tag, target, bytes, seq, status, stage, length, cq⟩ := itemBytes_fields ok
  obtain ⟨sq, relayed, adopted⟩ := itemQueue_fields ok
  obtain ⟨unit, count, complete, fence, interrupt⟩ := itemUnits_fields ok
  obtain ⟨dev, ep, opcode⟩ := itemTarget_fields r
  obtain ⟨decision, outstanding⟩ := itemState_fields ok
  obtain ⟨-, -, -, -, -, -, -, rCq, -⟩ := ok
  have isItem : ((5 + 16 * itemState r) % 16 != 5) = false := by simp
  have byte0 : (5 + 16 * itemState r) / 16 = itemState r := by omega
  simp only [parseItemRec, state, holding, queue, units, tag, target, bytes, seq, status, stage, length, cq, sq, relayed,
    adopted, unit, count, complete, fence, interrupt, dev, ep, opcode, isItem, byte0, decision, outstanding,
    Nat.mod_eq_of_lt rCq, stageOf_stageCode, finOf_holding, BitVec.ofNat_toNat, BitVec.setWidth_eq, Bool.false_eq_true,
    if_false]

/-! ## The claim -/

theorem journalsReadBack_holds : Claim.journalsReadBack := by
  refine ⟨fun r ok => ?position, fun r ok => ?periodic, fun r ok => ?item⟩
  case position =>
    obtain ⟨kind, holding, -⟩ := posBytes_fields ok
    exact ⟨by simp [posBytes], parsePosRec_posBytes ok, kind, holding⟩
  case periodic =>
    obtain ⟨state, holding, -⟩ := periodicBytes_fields ok
    exact ⟨by simp [periodicBytes], parsePeriodicRec_periodicBytes ok, state, holding⟩
  case item =>
    obtain ⟨state, holding, -⟩ := itemBytes_fields ok
    exact ⟨by simp [itemBytes], parseItemRec_itemBytes ok, state, holding⟩

end Sys2Proof.Machine

namespace Sys2Proof

open Sys2Proof.Machine

/-- Settles O60: each field of a record is read at its place, and the fields that share a number by their weights. -/
theorem journalRecordsReadBack : Obligations.JournalRecordsReadBack :=
  journalsReadBack_holds

end Sys2Proof
end


section
/-! Power-on, boot, clocks and fencing (R272, R345, R357, R366, R380, R385 to R392): each event by what enables it. -/

namespace Sys2Proof.Machine

open Sys2Proof.Claim

/-! ## Resets and the boot ROM (R345, R366, R385 to R390) -/

theorem porNAssert_holds : Claim.porNAssert := fun _ => rfl

theorem pgAoRise_holds : Claim.pgAoRise := fun _ => rfl

theorem internalResetRelease_holds : Claim.internalResetRelease := by
  intro s boot yoke testN inReset
  have runs : exec (.internalResetRelease boot yoke testN) s = execInternalResetRelease boot yoke testN s := rfl
  rw [runs, execInternalResetRelease, onEng_eq]
  simp [inReset]

theorem firmwareReady_holds : Claim.firmwareReady := by
  rintro s ⟨boots, strapped⟩
  have goes : (!s.eng.booting || (s.eng.pins.strapBoot == 3 && s.eng.pins.strapTestN)) = false := by
    simpa [boots] using strapped
  have runs : exec .firmwareReady s = execFirmwareReady s := rfl
  rw [runs, execFirmwareReady, onEng_eq]
  simp only [goes, Bool.false_eq_true, if_false, whenE]

theorem noValidImage_holds : Claim.noValidImage := by
  intro s boots
  have runs : exec .noValidImage s = execNoValidImage s := rfl
  rw [runs, execNoValidImage, onEng_eq]
  simp only [boots, Bool.not_true, Bool.false_eq_true, if_false]

theorem aliveToggle_holds : Claim.aliveToggle := by
  intro s
  have runs : exec .aliveToggle s = execAliveToggle s := rfl
  rw [runs, execAliveToggle, onEng_eq]
  exact ⟨fun on => by simp only [on, if_true], fun off => by simp only [off, Bool.false_eq_true, if_false]⟩

/-! ## PLL locks (R380) -/

theorem pllLock_holds : Claim.pllLock := by
  intro s p ready awake
  have counts : (s.eng.pins.inReset || (s.eng.pwr.chip == .dormant && !s.eng.pwr.exiting)) = false := by
    rcases awake with awake | exits
    · simp [ready, awake]
    · simp [ready, exits]
  have runs : exec (.pllLock p) s = execPllLock p s := rfl
  rw [runs, execPllLock, onEng_eq]
  simp only [counts, Bool.false_eq_true, if_false]

theorem pllLockLoss_holds : Claim.pllLockLoss := by
  rintro s p ⟨ready, unfenced, locked⟩
  have runs : exec (.pllLockLoss p) s = execPllLockLoss p s := rfl
  rw [runs, execPllLockLoss, onBoth_eq]
  refine ⟨fun notCclk awake => ?fences, fun only => ?unlocks⟩
  case fences =>
    have stops : (s.eng.pwr.chip == .dormant && p != .aclk) = false := by
      rcases awake with awake | aclk
      · simp [awake]
      · simp [aclk]
    simp [ready, unfenced, locked, notCclk, stops]
  case unlocks =>
    have goesOn : (p == .cclk || (s.eng.pwr.chip == .dormant && p != .aclk)) = true := by simpa using only
    simp only [Bool.or_assoc, goesOn, Bool.or_true, if_true]

/-! ## Fencing (R272, R392) -/

section FenceWhen

variable {s : State} {c : Engine → Bool}

/-- The controller fences itself when the condition holds of it. -/
theorem fenceWhen_fences (ready : s.eng.pins.inReset = false) (unfenced : s.eng.fw.fenced = false)
    (due : c s.eng = true) :
    fenceWhen c s = .next { s with eng := noted s.eng (Machine.fence s.eng), cores := resetCores s.cores } := by
  simp [fenceWhen, ready, unfenced, due]

theorem fenceWhen_goesOn (fine : c s.eng = false) : fenceWhen c s = .next { s with eng := noted s.eng s.eng } := by
  simp [fenceWhen, fine]

end FenceWhen

theorem thermalShutdown_holds : Claim.thermalShutdown := by
  intro s c ready unfenced
  have runs : exec (.thermalShutdown c) s = execThermalShutdown c s := rfl
  rw [runs, execThermalShutdown]
  exact ⟨fun hot => fenceWhen_fences ready unfenced (decide_eq_true hot),
    fun cool => fenceWhen_goesOn (decide_eq_false (Int.not_le.mpr cool))⟩

theorem fence_holds : Claim.fence := by
  intro s ready unfenced
  have runs : exec .fence s = execFence s := rfl
  rw [runs, execFence]
  exact ⟨fun pair => fenceWhen_fences ready unfenced pair, fun alone => fenceWhen_goesOn alone⟩

end Sys2Proof.Machine

namespace Sys2Proof

open Sys2Proof.Machine

/-- Settles O46: each event by the states of the part in which it acts. -/
theorem bootAndClockEventsComplete : Obligations.BootAndClockEventsComplete :=
  ⟨porNAssert_holds, pgAoRise_holds, internalResetRelease_holds, firmwareReady_holds, noValidImage_holds,
    aliveToggle_holds, pllLock_holds, pllLockLoss_holds, thermalShutdown_holds, fence_holds⟩

end Sys2Proof
end


section
/-! Heartbeats and tally words (R262, R271, R272, R280, R281): the pair's watch on each other. -/

namespace Sys2Proof.Machine

open Sys2Proof.Claim

/-! ## What is sent -/

/-- Test control 18 is off already: no beat is left to be dropped, and nothing turns it off. -/
theorem whenE_dropsOff {e : Engine} (off : (e.ctl 18).on = false) :
    whenE ((e.ctl 18).on && e.yoke.dropLink == 0 && e.yoke.dropWire == 0) (ctlOff 18) e = e := by
  rw [off, Bool.false_and, Bool.false_and, whenE_false]

theorem heartbeatSend_holds : Claim.heartbeatSend := by
  rintro s ⟨live, off, link0, wire0⟩
  have runs : exec .heartbeatSend s = execHeartbeatSend s := rfl
  rw [runs, execHeartbeatSend, onEng_eq]
  refine ⟨fun awake up => ?both, fun alone => ?wireOnly⟩
  case both =>
    have sends : ((beaten s).pwr.chip != .active || (beaten s).yoke.link != .up) = false := by
      simp [beaten, modYoke, awake, up]
    simp only [Engine.beats, live, sends, link0, wire0, Bool.not_true, Bool.false_eq_true, if_false, if_true]
    rw [whenE_dropsOff (by exact off)]
    rfl
  case wireOnly =>
    have silent : ((beaten s).pwr.chip != .active || (beaten s).yoke.link != .up) = true := by
      simpa [beaten, modYoke] using alone
    simp only [Engine.beats, live, silent, wire0, Bool.not_true, Bool.false_eq_true, if_false, if_true]
    rw [whenE_dropsOff (by exact off)]

theorem tallyWrite_holds : Claim.tallyWrite := by
  rintro s ⟨live, yoked, awake⟩
  have runs : exec .tallyWrite s = execTallyWrite s := rfl
  have goes : (!s.eng.live || !s.eng.yoke.yoked || s.eng.pwr.chip != .active) = false := by simp [live, yoked, awake]
  have written : writeTally (tallied s) = tallyOut s := by
    unfold writeTally tallyOut
    simp only [Bool.and_eq_true, Bool.not_eq_true']
    rfl
  rw [runs, execTallyWrite, onEng_eq]
  simp only [Engine.beats, goes, Bool.false_eq_true, if_false, written]

/-! ## What is heard and missed -/

theorem heartbeatReceive_holds : Claim.heartbeatReceive := by
  intro s
  have runs : ∀ path, exec (.heartbeatReceive path) s = execHeartbeatReceive path s := fun _ => rfl
  simp only [runs, execHeartbeatReceive, onEng_eq]
  refine ⟨fun up => ?_, trivial⟩
  simp only [up, bne_self_eq_false, Bool.false_eq_true, if_false]

theorem heartbeatMiss_holds : Claim.heartbeatMiss := by
  intro s ready unfenced
  have counts : (s.eng.pins.inReset || s.eng.fw.fenced) = false := by simp [ready, unfenced]
  exact ⟨onEng_treeWork (by simp only [counts, Bool.false_eq_true, if_false]),
    onEng_treeWork (by simp only [counts, Bool.false_eq_true, if_false])⟩

end Sys2Proof.Machine

namespace Sys2Proof

open Sys2Proof.Machine

/-- Settles O48: a beat by the paths that carry it, a miss by its path, the tally word as the engine writes it. -/
theorem heartbeatsComplete : Obligations.HeartbeatsComplete :=
  ⟨heartbeatSend_holds, tallyWrite_holds, heartbeatReceive_holds, heartbeatMiss_holds⟩

end Sys2Proof
end


section
/-! The reads of a takeover (R262, R274, R275, R278): each read by what it brings. -/

namespace Sys2Proof.Machine

open Sys2Proof.Claim

theorem tallyReadComplete_holds : Claim.tallyReadComplete := by
  intro s
  refine ⟨fun w ok => ?first, fun v ok => ?same, fun v w ok other => ?moved, fun v stage => ?failed⟩
  case first =>
    obtain ⟨back, free, stage⟩ := ok
    exact onEng_treeWork (by simp only [takeRead_reading back, brought_free free, stage])
  case same =>
    obtain ⟨back, free, stage⟩ := ok
    exact onEng_treeWork (by simp only [takeRead_reading back, brought_free free, stage, beq_self_eq_true, if_true])
  case moved =>
    obtain ⟨back, free, stage⟩ := ok
    exact onEng_treeWork (by simp only [takeRead_reading back, brought_free free, stage, beq_eq_false_iff_ne.mpr other,
      Bool.false_eq_true, if_false])
  case failed =>
    rcases stage with ⟨back, free, stage⟩ | ⟨back, free, stage⟩
    · exact onEng_treeWork (by simp only [takeRead_reading back, brought_free free, stage])
    · exact onEng_treeWork (by simp only [takeRead_reading back, brought_free free, stage])

theorem secondTallyRead_holds : Claim.secondTallyRead := by
  intro s v stage
  have runs : exec .secondTallyRead s = execSecondTallyRead s := rfl
  rw [runs, execSecondTallyRead, onEng_eq]
  simp only [stage]

theorem settleReadComplete_holds : Claim.settleReadComplete := by
  intro s back free
  have runs : ∀ ok, exec (.settleReadComplete ok) s = execSettleReadComplete ok s := fun _ => rfl
  simp only [runs, execSettleReadComplete, onEng_eq, takeRead_reading back, free, Bool.not_false, Bool.and_true,
    Bool.false_eq_true, if_true, if_false, and_self]

/-- What the probe of a ring does with the bytes that it brought. -/
def probed (f : Fn) (d : ReadData) : RingRef → Engine → Engine
  | .cq n => probedCq f n d
  | .sheaf n => probedRing f n d
  | .alarm _ => probedAlarm f d

theorem exec_probeReadComplete {s : State} {f : Fn} {r : RingRef} (d : ReadData) (ok : probeOk s f r) :
    exec (.probeReadComplete f r d) s = .next { s with eng := noted s.eng (probed f d r (landed s (.probe f r))) } := by
  obtain ⟨back, free⟩ := ok
  have runs : exec (.probeReadComplete f r d) s = execProbeReadComplete f r d s := rfl
  rw [runs, execProbeReadComplete, onEng_eq]
  simp only [takeRead_reading back, brought_free free]
  cases r <;> rfl

theorem probeReadComplete_holds : Claim.probeReadComplete :=
  ⟨fun _ _ _ d ok => exec_probeReadComplete d ok, fun _ _ _ d ok => exec_probeReadComplete d ok,
    fun _ _ _ d ok => exec_probeReadComplete d ok⟩

end Sys2Proof.Machine

namespace Sys2Proof

open Sys2Proof.Machine

/-- Settles O49: a tally read by the takeover's stage and the word, a settling read by its success, a probe by its ring. -/
theorem takeoverReadsComplete : Obligations.TakeoverReadsComplete :=
  ⟨tallyReadComplete_holds, secondTallyRead_holds, settleReadComplete_holds, probeReadComplete_holds⟩

end Sys2Proof
end


section
/-! Handovers (R263 to R268): a request by who leads the position, its end by who has asked and what waits for it. -/

namespace Sys2Proof.Machine

open Sys2Proof.Claim

/-! ## Requests and drains (R264, R267) -/

theorem yokeRequestReceive_holds : Claim.yokeRequestReceive := by
  rintro s p ⟨yoked, up, known⟩ none_
  have runs : exec (.yokeRequestReceive (.port p)) s = execYokeRequestReceive (.port p) s := rfl
  have goes : (!s.eng.yoke.yoked || s.eng.yoke.link != .up || !bitOf s.eng.yoke.yokedPorts p.val) = false := by
    simp [yoked, up, known]
  rw [runs, execYokeRequestReceive, onEng_eq]
  simp only [goes, none_, List.find?_nil, List.any_nil, Bool.false_eq_true, if_false]
  refine ⟨fun leads => ?_, fun other => ?_⟩
  · simp only [Engine.leadsPos, leads, if_true]
  · simp only [Engine.leadsPos, other, Bool.false_eq_true, if_false]

theorem handoverDrained_holds : Claim.handoverDrained := by
  rintro s p x ⟨drains, idle⟩
  have runs : exec (.handoverDrained (.port p)) s = execHandoverDrained (.port p) s := rfl
  rw [runs, execHandoverDrained, onEng_eq]
  simp only [drains, idle, Bool.false_eq_true, if_false]
  refine ⟨fun unsettled => ?_, fun settled => ?_⟩
  · simp only [unsettled, Bool.not_false, if_true]
  · simp only [settled, Bool.not_true, Bool.false_eq_true, if_false]

/-! ## Grants (R267) -/

theorem yokeGrantReceive_holds : Claim.yokeGrantReceive := by
  intro s pos x asked
  refine ⟨fun leaf => ?_, fun d ds hubs => ?_⟩
  · exact onEng_treeWork (by simp only [asked, leaf])
  · exact onEng_treeWork (by simp only [asked, hubs])

/-! ## Requests that end without a grant (R263, R264, R268) -/

theorem yokeRequestTimeout_holds : Claim.yokeRequestTimeout := by
  intro s pos x asked
  refine ⟨fun senior => ?_, fun junior alone => ?_, fun a junior waits => ?_⟩
  · exact onEng_treeWork (by simp only [asked, senior, if_true, id])
  · exact onEng_treeWork (by simp only [asked, junior, alone, Bool.false_eq_true, if_false])
  · exact onEng_treeWork (by simp only [asked, junior, waits, Bool.false_eq_true, if_false])

theorem yokeRequestTimeoutUntaken_holds : Claim.yokeRequestTimeoutUntaken := by
  rintro s p ⟨unasked, shared, leads, down⟩
  have untaken : (s.eng.shared p && (s.eng.port p).leads && (s.eng.port p).link.state == .ldown) = true := by
    simp [shared, leads, down]
  exact onEng_treeWork (by simp only [unasked, untaken, if_true])

theorem yokeConfigureTimeout_holds : Claim.yokeConfigureTimeout := by
  intro s x waits
  have runs : exec .yokeConfigureTimeout s = execYokeConfigureTimeout s := rfl
  rw [runs, execYokeConfigureTimeout, onEng_eq]
  simp only [waits]

end Sys2Proof.Machine

namespace Sys2Proof

open Sys2Proof.Machine

/-- Settles O50: each message by the handover that it finds. -/
theorem handoversComplete : Obligations.HandoversComplete :=
  ⟨yokeRequestReceive_holds, handoverDrained_holds, yokeGrantReceive_holds, yokeRequestTimeout_holds,
    yokeRequestTimeoutUntaken_holds, yokeConfigureTimeout_holds⟩

end Sys2Proof
end


section
/-! What the partner sends (R260, R265, R266, R274, R331, R346): relayed work and its results, records, sleep, frame marks. -/

namespace Sys2Proof.Machine

open Sys2Proof.Claim

/-! ## Relayed work and results (R260, R266, R274) -/

section Alone

variable {e : Engine} {r : ItemRec} {setup : BitVec 96} {data : List Byte}
  (alone : e.yoke.waitingWork = [.entry r setup data])
include alone

/-- The only entry that waits starts while its holding has an item record left. -/
theorem runWaiting_of_room (room : e.itemRoom r.holding = true) :
    runWaiting e = runEntry r setup data (modYoke (fun y => { y with waitingWork := [] }) e) := by
  have room' : (modYoke (fun y => { y with waitingWork := [] }) e).itemRoom r.holding = true := room
  simp only [runWaiting, alone, forAll, List.foldl_cons, List.foldl_nil, room']
  simp [modYoke]

theorem runWaiting_of_full (full : e.itemRoom r.holding = false) :
    runWaiting e = modYoke (fun y => { y with waitingWork := [.entry r setup data] }) e := by
  have full' : (modYoke (fun y => { y with waitingWork := [] }) e).itemRoom r.holding = false := full
  simp only [runWaiting, alone, forAll, List.foldl_cons, List.foldl_nil, full']
  simp [modYoke]

end Alone

theorem relayedWorkReceive_holds : Claim.relayedWorkReceive := by
  intro s linked live
  have runs : ∀ w, exec (.relayedWorkReceive w) s = execRelayedWorkReceive w s := fun _ => rfl
  simp only [runs, execRelayedWorkReceive, onEng_eq, linked, live, Bool.not_true, Bool.or_self, Bool.false_eq_true, if_false]
  refine ⟨fun r u d alone room => ?starts, fun r u d alone full => ?waits, fun _ _ _ _ _ => trivial⟩
  case starts => rw [takeEntry, runWaiting_of_room alone room]
  case waits => rw [takeEntry, runWaiting_of_full alone full]

theorem relayedResultReceive_holds : Claim.relayedResultReceive := by
  intro s r
  have runs : exec (.relayedResultReceive r) s = execRelayedResultReceive r s := rfl
  rw [runs, execRelayedResultReceive, onEng_eq]
  refine ⟨fun linked stage => ?_, fun v stage => ?_⟩
  · simp only [stage, linked, if_true]
  · simp only [stage]

/-! ## Records and the commons (R27, R260, R265) -/

theorem shadowRecordReceive_holds : Claim.shadowRecordReceive := by
  intro s r linked
  have runs : exec (.shadowRecordReceive r) s = execShadowRecordReceive r s := rfl
  rw [runs, execShadowRecordReceive, onEng_eq]
  simp only [linked, if_true]

theorem journalRecordReceive_holds : Claim.journalRecordReceive := by
  intro s r linked
  have runs : exec (.journalRecordReceive r) s = execJournalRecordReceive r s := rfl
  rw [runs, execJournalRecordReceive, onEng_eq]
  simp only [linked, if_true]

/-- A change of the commons is taken from a linked partner; a configuration also before the pair is one (R265). -/
theorem exec_commonsMirrorReceive {s : State} {c : CommonsChange} (taken : s.eng.linked = true ∨
    (∃ y p l, c = .configure y p l) ∧ s.eng.yoke.link = .up ∧ s.eng.live = true) :
    exec (.commonsMirrorReceive c) s = .next { s with eng := noted s.eng (takeCommons c s.eng) } := by
  have runs : exec (.commonsMirrorReceive c) s = execCommonsMirrorReceive c s := rfl
  rw [runs]
  unfold execCommonsMirrorReceive
  rcases taken with linked | ⟨⟨y, p, l, rfl⟩, up, live⟩
  · simp only [onEng_eq, linked, Bool.true_or, if_true]
  · simp only [onEng_eq, up, live, beq_self_eq_true, Bool.and_self, Bool.or_true, if_true]

theorem commonsMirrorReceive_holds : Claim.commonsMirrorReceive := fun _ _ =>
  ⟨fun linked => exec_commonsMirrorReceive (.inl linked),
    fun _ _ _ up live => exec_commonsMirrorReceive (.inr ⟨⟨_, _, _, rfl⟩, up, live⟩)⟩

/-! ## The yoke link and frame marks (R331, R346) -/

theorem sleepBlockReceive_holds : Claim.sleepBlockReceive := by
  intro s linked
  have runs : exec .sleepBlockReceive s = execSleepBlockReceive s := rfl
  rw [runs, execSleepBlockReceive, onEng_eq]
  simp only [linked, Bool.not_true, Bool.false_eq_true, if_false]

theorem yokeLinkUp_holds : Claim.yokeLinkUp := by
  rintro s latency ⟨live, clocked, awake, notUp⟩
  have runs : exec (.yokeLinkUp latency) s = execYokeLinkUp latency s := rfl
  have goes : (!s.eng.live || !s.eng.clk.bclk || s.eng.pwr.chip != .active || s.eng.yoke.link == .up) = false := by
    simp [live, clocked, awake, notUp]
  rw [runs, execYokeLinkUp, onEng_eq]
  simp only [goes, Bool.false_eq_true, if_false]

/-- Trim cycles of a free value: at most two, of 4 ns each within the error, against its sign (R346). -/
def trimOf (v : Dword) (err : Int) : Int :=
  if 0 < err then -(min (v.toNat % 3) (err.natAbs / 4) : Nat) else (min (v.toNat % 3) (err.natAbs / 4) : Nat)

theorem trimOf_bounds (v : Dword) (err : Int) : (trimOf v err).natAbs ≤ 2 ∧ 4 * (trimOf v err).natAbs ≤ err.natAbs
    ∧ (0 < err → trimOf v err ≤ 0) ∧ (err < 0 → 0 ≤ trimOf v err) := by
  unfold trimOf
  split
  · omega
  · omega

theorem frameMarkReceive_holds : Claim.frameMarkReceive := by
  have runs : ∀ s f r err, exec (.frameMarkReceive f r err) s = execFrameMarkReceive f r err s := fun _ _ _ _ => rfl
  have follows : ∀ s, juniorOk s →
      (s.eng.senior || !s.eng.linked || !s.eng.clk.timerOn || s.eng.pwr.chip != .active) = false := by
    rintro s ⟨junior, linked, timed, awake⟩
    simp [junior, linked, timed, awake]
  refine ⟨fun s f r err ok far => ?steps, fun s f r err ok near => ?trims, fun s f r err senior => ?ignored⟩
  case steps =>
    rw [runs, execFrameMarkReceive, onEng_eq]
    simp only [follows s ok, far, Bool.false_eq_true, if_false, if_true]
  case trims =>
    obtain ⟨few, within, against, toward⟩ := trimOf_bounds (Config.freeValue s.eng.free) err
    refine ⟨trimOf (Config.freeValue s.eng.free) err, few, within, against, toward, ?_⟩
    rw [runs, execFrameMarkReceive, onEng_eq]
    simp only [follows s ok, Nat.not_lt.mpr near, Bool.false_eq_true, if_false]
    rfl
  case ignored =>
    rw [runs, execFrameMarkReceive, onEng_eq]
    simp only [senior, Bool.true_or, if_true]

end Sys2Proof.Machine

namespace Sys2Proof

open Sys2Proof.Machine

/-- Settles O51: each message by what it changes, relayed entries by the room for their records, marks by their error. -/
theorem yokeMessagesComplete : Obligations.YokeMessagesComplete :=
  ⟨relayedWorkReceive_holds, relayedResultReceive_holds, shadowRecordReceive_holds, journalRecordReceive_holds,
    commonsMirrorReceive_holds, sleepBlockReceive_holds, yokeLinkUp_holds, frameMarkReceive_holds⟩

end Sys2Proof
end


section
/-! The invariant of the core cluster over a step (R284, R286, R295, R306): the shapes in which commands act on the cores
keep its form, then each command that acts on them, then the step. -/

namespace Sys2Proof.Machine

open Sys2Proof.Safety

/-- The cores that an effect on engine and cores leaves have the form. -/
structure EffectOk (p : Engine × Cores) : Prop where
  cores : CoresOk p.2

/-- A next state that an answer gives has cores of the form, when the state before has. -/
structure KeepsForm (s : State) (a : Answer) : Prop where
  next : CoresOk s.cores → ∀ t, a = .next t → CoresOk t.cores

/-! ## The shapes of a meaning -/

theorem EffectOk.of {e : Engine} {k : Cores} (ok : CoresOk k) : EffectOk (e, k) := ⟨ok⟩

theorem EffectOk.ite {c : Prop} [Decidable c] {p q : Engine × Cores} (yes : EffectOk p) (no : EffectOk q) :
    EffectOk (if c then p else q) := by
  split
  · exact yes
  · exact no

section Shapes

variable {s : State}

theorem KeepsForm.ite {c : Prop} [Decidable c] {a b : Answer} (yes : KeepsForm s a) (no : KeepsForm s b) :
    KeepsForm s (if c then a else b) := by
  split
  · exact yes
  · exact no

theorem keepsForm_next {t : State} (keeps : CoresOk s.cores → CoresOk t.cores) : KeepsForm s (.next t) :=
  ⟨by rintro ok _ ⟨⟩; exact keeps ok⟩

theorem onEng_keepsForm (f : Engine → Engine) : KeepsForm s (onEng s f) := keepsForm_next id

theorem onCores_keepsForm {f : Cores → Cores} (keeps : ∀ k, CoresOk k → CoresOk (f k)) : KeepsForm s (onCores s f) :=
  keepsForm_next (keeps _)

theorem onBoth_keepsForm {f : Engine → Cores → Engine × Cores} (keeps : ∀ e k, CoresOk k → EffectOk (f e k)) :
    KeepsForm s (onBoth s f) := keepsForm_next fun ok => (keeps _ _ ok).cores

/-- A register access of the host. -/
theorem hostAccess_keepsForm (h : Fn) (off : Nat) {act : Engine → Cores → Engine × Cores}
    (keeps : ∀ e k, CoresOk k → EffectOk (act e k)) : KeepsForm s (hostAccess h off act s) := by
  refine onBoth_keepsForm fun e k ok => .ite (.of ok) ?_
  split
  · exact .of ok
  · exact keeps e k ok

/-- A store to a 16-word array of the CIC. -/
theorem arrayWrite_keepsForm (c : CoreId) (w : Fin 16) (v : Dword) {f : Engine → SrcId → Cores → Cores}
    (keeps : ∀ e n k, CoresOk k → CoresOk (f e n k)) : KeepsForm s (arrayWrite c w v f s) :=
  onBoth_keepsForm fun e _ ok => .ite (.of ok) (.of (settleCores_ok e (forCores_ok _ ok (keeps e))))

/-- A store to a register of a thread. -/
theorem threadWrite_keepsForm (c : CoreId) (t : ThreadId) (off : Nat) {f : Engine → Cores → Cores}
    (keeps : ∀ e k, CoresOk k → CoresOk (f e k)) : KeepsForm s (threadWrite c t off f s) :=
  onBoth_keepsForm fun e k ok =>
    .ite (.of ok) (.ite (.of (storeFault_ok c _ ok)) (.of (settleCores_ok e (keeps e k ok))))

/-- A store to a dispatcher register of a core. -/
theorem coreWrite_keepsForm (c d : CoreId) (off : Nat) {f : Engine → Cores → Cores}
    (keeps : ∀ e k, CoresOk k → CoresOk (f e k)) : KeepsForm s (coreWrite c d off f s) :=
  onBoth_keepsForm fun e k ok =>
    .ite (.of ok) (.ite (.of (storeFault_ok d _ ok)) (.of (settleCores_ok e (keeps e k ok))))

/-- A Skelku service. -/
theorem service_keepsForm (c : CoreId) {f : Engine → ThreadId → Cores → Engine × Cores}
    (keeps : ∀ e t k, CoresOk k → EffectOk (f e t k)) : KeepsForm s (service c f s) := by
  refine onBoth_keepsForm fun e k ok => ?_
  split
  · exact .of ok
  · exact .of (settleCores_ok _ (keeps e _ _ (handledTrap_ok c _ _ ok)).cores)

theorem fenceWhen_keepsForm (p : Engine → Bool) : KeepsForm s (fenceWhen p s) :=
  onBoth_keepsForm fun _ _ ok => .ite (.of (resetCores_ok ok)) (.of ok)

end Shapes

/-- An admin command of the cores keeps their form when its effect does. -/
theorem runAdminCores_ok {r : AdminRow} {src : AdminSrc} {checks : Fn → BitVec 512 → Engine → Cores → List Check}
    {effect : Fn → BitVec 512 → Engine → Cores → AdminStep × Cores} {e : Engine} {k : Cores} (ok : CoresOk k)
    (keeps : ∀ f c e, CoresOk (effect f c e k).2) : EffectOk (runAdminCores r src checks effect e k) := by
  unfold runAdminCores
  split
  · exact .of ok
  · exact .of ok
  · dsimp only
    split
    · exact .of ok
    · exact .of (keeps ..)

/-! ## The operations of single commands -/

section Operations

variable {k : Cores}

theorem ret_ok (c : CoreId) (code : Dword) (ok : CoresOk k) : CoresOk (ret c code k) := setX_ok c 10 code ok

theorem block_ok (t : ThreadId) (call : SkCall) (ok : CoresOk k) : CoresOk (block t call k) :=
  leaveCore_ok t true (modThread_ok t ok fun _ => rfl)

theorem wakeThread_ok (t : ThreadId) (code : Dword) (ok : CoresOk k) : CoresOk (wakeThread t code k) := by
  unfold wakeThread
  split
  · exact makeReady_ok t (setThreadX_ok t 10 code ok)
  · exact ok

theorem timers_ok (l : List SkTimer) (ok : CoresOk k) : CoresOk { k with timers := l } := same_ok ok rfl rfl rfl rfl

theorem srcEvent_ok (e : Engine) (n : SrcId) (rise : Bool) (ok : CoresOk k) : CoresOk (srcEvent e n rise k) := by
  unfold srcEvent
  split
  · exact watchHold_ok _ n _ ok
  · refine settleCores_ok e ?_
    split
    · exact pendRise_ok _ n ok
    · exact pend_ok _ n ok

theorem firmwareFault_ok (c : CoreId) (e : Engine) (ok : CoresOk k) : EffectOk (firmwareFault c e k) :=
  .ite (.of ok) (.ite (.of (resetCores_ok ok)) (.of (settleCores_ok _ (restartCores_ok e ok))))

/-- A store to the memory that keeps its form. -/
theorem stored_ok {m : List Host.Cell} (ok : CoresOk k) (wf : Memory.wf m = true) : CoresOk { k with mem := m } :=
  setMem_ok ok wf rfl rfl rfl

/-- The cores on which a wake ends WFI. -/
theorem wakeCores_ok (l : List CoreId) (ok : CoresOk k) :
    CoresOk (forCores l (fun c => modCore c fun x => { x with wfi := false }) k) :=
  forCores_ok _ ok fun c _ hk => modCore_ok c hk fun _ hx => hx

/-- x0 reads 0 also where the other registers lost their values. -/
theorem loseRegs_ok (n : Nat) (ok : CoresOk k) : CoresOk (loseRegs n k) := by
  refine forCores_ok _ ok fun c _ hk => modRegs_ok c hk fun _ _ => ?_
  simp only [lostRegs, Vector.getElem_ofFn, if_true]

theorem takeImage_ok (c : CoreId) (u : UserFile) (ok : CoresOk k) : CoresOk (takeImage c u k) := by
  unfold takeImage
  refine forCores_ok _ (modCore_ok c (stored_ok ok ?_) fun _ hx => hx) fun t _ hk => resetThread_ok t hk
  exact memPuts_wf (memPuts_wf (memZero_wf ok.mem))

theorem startCore_ok (c : CoreId) (entry : Dword) (ok : CoresOk k) : CoresOk (startCore c entry k) :=
  modCore_ok c ok fun _ _ => rfl

theorem coreAction_ok {e : Engine} {c : CoreId} {action : Nat} {k' : Cores} (ok : CoresOk k)
    (acts : coreAction e c action k = some k') : CoresOk k' := by
  unfold coreAction at acts
  dsimp only at acts
  split at acts
  · exact Option.some.inj acts ▸ stopCore_ok e c ok
  · exact Option.some.inj acts ▸ stopCore_ok e c ok
  · obtain ⟨i, -, rfl⟩ := Option.map_eq_some_iff.mp acts
    exact startCore_ok c _ ok
  · exact Option.some.inj acts ▸ modCore_ok c ok fun _ hx => hx
  · exact Option.some.inj acts ▸ modCore_ok c ok fun _ hx => hx
  · exact Option.some.inj acts ▸ ok
  · nomatch acts

end Operations

/-! ## The interrupt controller (R303 to R321) -/

section Cic

variable {s : State}

theorem cicPulseEvent_keepsForm (n : SrcId) : KeepsForm s (execCicPulseEvent n s) :=
  onBoth_keepsForm fun _ _ ok => .ite (.of ok) (.of (srcEvent_ok _ n false ok))

theorem cicLevelRise_keepsForm (n : SrcId) : KeepsForm s (execCicLevelRise n s) :=
  onBoth_keepsForm fun e _ ok => .ite (.of ok) (.of (srcEvent_ok e n true (modSrc_ok n ok fun _ => rfl)))

theorem cicLevelFall_keepsForm (n : SrcId) : KeepsForm s (execCicLevelFall n s) := by
  refine onBoth_keepsForm fun e k ok => .ite (.of ok) ?_
  have fallen : CoresOk (modSrc n (fun x => { x with level := false, pending := false }) k) := modSrc_ok n ok fun _ => rfl
  exact .ite (.of (same_ok fallen rfl rfl rfl rfl)) (.of (settleCores_ok e fallen))

theorem cicClaim_keepsForm (c d : CoreId) : KeepsForm s (execCicClaim c d s) := by
  refine onBoth_keepsForm fun e k ok => .ite (.of ok) (.ite (.of (loadFault_ok d _ ok)) ?_)
  dsimp only
  split
  · exact .of ok
  · exact .of (settleCores_ok _ (claim_ok c _ ok))

theorem cicEoi_keepsForm (c d : CoreId) (v : Dword) : KeepsForm s (execCicEoi c d v s) :=
  onBoth_keepsForm fun e _ ok => .ite (.of ok) (.ite (.of (storeFault_ok d _ ok)) (.of (settleCores_ok e (eoi_ok e c _ ok))))

theorem cicPendSet_keepsForm (c : CoreId) (w : Fin 16) (v : Dword) : KeepsForm s (execCicPendSet c w v s) :=
  arrayWrite_keepsForm c w v fun _ n _ ok => pend_ok _ n ok

theorem cicPendClr_keepsForm (c : CoreId) (w : Fin 16) (v : Dword) : KeepsForm s (execCicPendClr c w v s) := by
  refine arrayWrite_keepsForm c w v fun e n k ok => ?_
  split
  · exact ok
  · exact modSrc_ok n ok fun _ => rfl

theorem cicMaskSet_keepsForm (c : CoreId) (w : Fin 16) (v : Dword) : KeepsForm s (execCicMaskSet c w v s) :=
  arrayWrite_keepsForm c w v fun _ n _ ok => setMask_ok true n ok

theorem cicMaskClr_keepsForm (c : CoreId) (w : Fin 16) (v : Dword) : KeepsForm s (execCicMaskClr c w v s) :=
  arrayWrite_keepsForm c w v fun _ n _ ok => setMask_ok false n ok

theorem cicWakeSet_keepsForm (c : CoreId) (w : Fin 16) (v : Dword) : KeepsForm s (execCicWakeSet c w v s) :=
  arrayWrite_keepsForm c w v fun _ n _ ok => modSrc_ok n ok fun _ => rfl

theorem cicWakeClr_keepsForm (c : CoreId) (w : Fin 16) (v : Dword) : KeepsForm s (execCicWakeClr c w v s) :=
  arrayWrite_keepsForm c w v fun _ n _ ok => modSrc_ok n ok fun _ => rfl

theorem cicQuar_keepsForm (c : CoreId) (w : Fin 16) (v : Dword) : KeepsForm s (execCicQuar c w v s) :=
  arrayWrite_keepsForm c w v fun _ n _ ok => modSrc_ok n ok fun _ => rfl

theorem cicRoute_keepsForm (c : CoreId) (n : SrcId) (v : Dword) : KeepsForm s (execCicRoute c n v s) :=
  onBoth_keepsForm fun e _ ok => .ite (.of ok) (.of (settleCores_ok e (setRoute_ok n v ok)))

theorem cicPrio_keepsForm (c : CoreId) (n : SrcId) (v : Dword) : KeepsForm s (execCicPrio c n v s) :=
  onBoth_keepsForm fun e _ ok => .ite (.of ok) (.of (settleCores_ok e (modSrc_ok n ok fun _ => rfl)))

theorem stormQuarantine_keepsForm (n : SrcId) : KeepsForm s (execStormQuarantine n s) :=
  onBoth_keepsForm fun e _ ok => .ite (.of ok) (.of (settleCores_ok e (modSrc_ok n ok fun _ => rfl)))

end Cic

/-! ## The dispatcher (R295 to R302) -/

section Dispatcher

variable {s : State}

theorem dspFlagSet_keepsForm (c : CoreId) (t : ThreadId) (v : Dword) : KeepsForm s (execDspFlagSet c t v s) :=
  threadWrite_keepsForm c t _ fun _ _ ok => setFlags_ok t v ok

theorem dspFlagClr_keepsForm (c : CoreId) (t : ThreadId) (v : Dword) : KeepsForm s (execDspFlagClr c t v s) :=
  threadWrite_keepsForm c t _ fun _ _ ok => modThread_ok t ok fun _ => rfl

theorem dspWait_keepsForm (c : CoreId) (t : ThreadId) (mask : Dword) : KeepsForm s (execDspWait c t mask s) :=
  threadWrite_keepsForm c t _ fun _ _ ok => waitThread_ok c t mask ok

theorem start_keepsForm (c : CoreId) (t : ThreadId) : KeepsForm s (execStart c t s) :=
  threadWrite_keepsForm c t _ fun _ _ ok => startThread_ok t ok

theorem stop_keepsForm (c : CoreId) (t : ThreadId) : KeepsForm s (execStop c t s) :=
  threadWrite_keepsForm c t _ fun _ _ ok => stopThread_ok t ok

theorem dspCtx_keepsForm (c : CoreId) (t : ThreadId) (v : Dword) : KeepsForm s (execDspCtx c t v s) := by
  refine threadWrite_keepsForm c t _ fun _ k ok => ?_
  split
  · exact modThread_ok t ok fun _ => rfl
  · exact threadErr_ok t ok

theorem dspRun_keepsForm (c d : CoreId) (v : Dword) : KeepsForm s (execDspRun c d v s) := by
  refine coreWrite_keepsForm c d _ fun _ k ok => ?_
  have refused : CoresOk (modCore c (fun x => { x with refused := true }) k) := modCore_ok c ok fun _ hx => hx
  have released : CoresOk (match (k.at c).run with
      | some old => makeReady old (modCore c (fun x => { x with run := none }) k)
      | none => k) := by
    split
    · exact makeReady_ok _ (modCore_ok c ok fun _ hx => hx)
    · exact ok
  dsimp only
  split
  · exact ok
  split
  · exact refused
  split
  · exact modCore_ok c released fun _ hx => hx
  split
  · exact refused
  split
  · exact modThread_ok _ (modCore_ok c released fun _ hx => hx) fun _ => rfl
  · exact refused

theorem dspMode_keepsForm (c d : CoreId) (v : Dword) : KeepsForm s (execDspMode c d v s) :=
  coreWrite_keepsForm c d _ fun _ _ ok => modCore_ok c ok fun _ hx => hx

theorem dispatchSwitch_keepsForm (c : CoreId) : KeepsForm s (execDispatchSwitch c s) :=
  onBoth_keepsForm fun e _ ok => .ite (.of (settleCores_ok e (switchCore_ok e c ok))) (.of ok)

theorem dspTimerFire_keepsForm (c : CoreId) : KeepsForm s (execDspTimerFire c s) := by
  refine onBoth_keepsForm fun e k ok => .ite (.of ok) (.of (settleCores_ok e (setFlags_ok _ _ ?_)))
  exact forCores_ok _ (timers_ok _ (modCore_ok c ok fun _ hx => hx)) fun y _ hk => wakeThread_ok y.thread _ hk

end Dispatcher

/-! ## Skelku services (R293, R294) -/

section Skelku

variable {s : State}

theorem skelkuYield_keepsForm (c : CoreId) : KeepsForm s (execSkelkuYield c s) :=
  service_keepsForm c fun _ t _ ok => .of (makeReady_ok t (leaveCore_ok t true (ret_ok c skOk ok)))

theorem skelkuWait_keepsForm (c : CoreId) (mask mode : Dword) (timeout : Qword) :
    KeepsForm s (execSkelkuWait c mask mode timeout s) := by
  refine service_keepsForm c fun e t k ok => ?_
  have waits : CoresOk (waitThread c t mask (modThread t (fun x => { x with all := mode == 1, call := .wait })
      (ret c skOk k))) := waitThread_ok c t mask (modThread_ok t (ret_ok c skOk ok) fun _ => rfl)
  refine .ite (.of ?_) (.of (modThread_ok t waits fun _ => rfl))
  split
  · exact waits
  · exact timers_ok _ waits

theorem skelkuSignal_keepsForm (c : CoreId) (t flags : Dword) : KeepsForm s (execSkelkuSignal c t flags s) := by
  refine service_keepsForm c fun e _ k ok => ?_
  split
  · exact .of (ret_ok c _ ok)
  · exact .of (setFlags_ok _ flags (ret_ok c _ ok))

theorem skelkuClear_keepsForm (c : CoreId) (flags : Dword) : KeepsForm s (execSkelkuClear c flags s) :=
  service_keepsForm c fun _ t _ ok => .of (modThread_ok t (ret_ok c skOk ok) fun _ => rfl)

/-- R293: the affinity is one that the thread can have, the context block is written through the memory's own updates. -/
theorem skelkuStart_keepsForm (c : CoreId) (t entry stack cfg : Dword) :
    KeepsForm s (execSkelkuStart c t entry stack cfg s) := by
  refine service_keepsForm c fun e _ k ok => ?_
  split
  · exact .of (ret_ok c _ ok)
  next u _ =>
    refine .ite (.of (ret_ok c _ ok)) (.of (startThread_ok u ?_))
    refine stored_ok (setAffinity_ok u cfg (ret_ok c skOk ok) fun _ => rfl) ?_
    exact memPut_wf (memPuts_wf (memPuts_wf (ret_ok c skOk ok).mem)) (Nat.zero_le _)

theorem skelkuStop_keepsForm (c : CoreId) (t : Dword) : KeepsForm s (execSkelkuStop c t s) := by
  refine service_keepsForm c fun e _ k ok => ?_
  split
  · exact .of (ret_ok c _ ok)
  · exact .of (stopThread_ok _ (ret_ok c _ ok))

theorem skelkuSetPriority_keepsForm (c : CoreId) (t prio : Dword) : KeepsForm s (execSkelkuSetPriority c t prio s) := by
  refine service_keepsForm c fun e _ k ok => ?_
  split
  · exact .of (ret_ok c _ ok)
  · exact .ite (.of (ret_ok c _ ok)) (.of (modThread_ok _ (ret_ok c _ ok) fun _ => rfl))

theorem skelkuTime_keepsForm (c : CoreId) : KeepsForm s (execSkelkuTime c s) :=
  service_keepsForm c fun _ _ _ ok => .of (setX_ok c 12 _ (setX_ok c 11 _ (setX_ok c 10 _ ok)))

theorem skelkuSleep_keepsForm (c : CoreId) (ns : Qword) : KeepsForm s (execSkelkuSleep c ns s) :=
  service_keepsForm c fun _ t _ ok => .of (timers_ok _ (block_ok t .sleep (ret_ok c skOk ok)))

theorem skelkuHostCopy_keepsForm (c : CoreId) (dir offset addr len : Dword) :
    KeepsForm s (execSkelkuHostCopy c dir offset addr len s) := by
  refine service_keepsForm c fun e t k ok => ?_
  have blocked : CoresOk (block t .copy (modThread t (fun x => { x with
      copy := some { toHost := dir == 0, addr := addr, len := len.toNat } }) (ret c skOk k))) :=
    block_ok t .copy (modThread_ok t (ret_ok c skOk ok) fun _ => rfl)
  exact .ite (.of (ret_ok c _ ok)) (.ite (.of (ret_ok c _ ok)) (.ite (.of blocked) (.of blocked)))

theorem skelkuAttach_keepsForm (c : CoreId) (source t flag : Dword) : KeepsForm s (execSkelkuAttach c source t flag s) := by
  refine service_keepsForm c fun e _ k ok => ?_
  split
  · exact .ite (.of (ret_ok c _ ok)) (.ite (.of (ret_ok c _ ok))
      (.of (same_ok (setMask_ok false _ (setRoute_ok _ _ (ret_ok c skOk ok))) rfl rfl rfl rfl)))
  · exact .of (ret_ok c _ ok)
  · exact .of (ret_ok c _ ok)

theorem skelkuRearm_keepsForm (c : CoreId) (source : Dword) : KeepsForm s (execSkelkuRearm c source s) := by
  refine service_keepsForm c fun e _ k ok => ?_
  split
  · exact .of (whenC_ok _ (ret_ok c _ ok) (setMask_ok false _ (ret_ok c _ ok)))
  · exact .of (ret_ok c _ ok)

theorem hostCopyComplete_keepsForm (t : ThreadId) (data : ReadData) : KeepsForm s (execHostCopyComplete t data s) := by
  refine onBoth_keepsForm fun e k ok => ?_
  have past (code : Dword) {k : Cores} (ok : CoresOk k) :
      CoresOk (wakeThread t code (modThread t (fun y => { y with copy := none }) k)) :=
    wakeThread_ok t code (modThread_ok t ok fun _ => rfl)
  split
  · exact .of ok
  · refine .ite (.of (settleCores_ok e (past skOk ok))) ?_
    split
    · exact .of ok
    · split
      · exact .of (settleCores_ok _ (past skFault ok))
      · exact .of (settleCores_ok _ (past skOk (puts_ok _ _ ok)))

theorem windowLoad_keepsForm (c : CoreId) (addr : Dword) (data : ReadData) : KeepsForm s (execWindowLoad c addr data s) := by
  refine onBoth_keepsForm fun e k ok => ?_
  have fault : EffectOk (e, loadFault c addr.toNat k) := .of (loadFault_ok c _ ok)
  refine .ite (.of ok) (.ite fault ?_)
  dsimp only
  split
  · exact fault
  · refine .ite fault ?_
    split
    · exact .of (loadFault_ok c _ ok)
    · exact .of ok

end Skelku

/-! ## Resets, faults and power (R320, R324 to R335) -/

section Power

variable {s : State}

theorem porNAssert_keepsForm : KeepsForm s (execPorNAssert s) := onBoth_keepsForm fun _ _ ok => .of (resetCores_ok ok)

theorem pgAoRise_keepsForm : KeepsForm s (execPgAoRise s) := onBoth_keepsForm fun _ _ ok => .of (resetCores_ok ok)

theorem fence_keepsForm : KeepsForm s (execFence s) := fenceWhen_keepsForm _

theorem thermalShutdown_keepsForm (celsius : Int) : KeepsForm s (execThermalShutdown celsius s) := fenceWhen_keepsForm _

theorem firmwareWatchdogExpiry_keepsForm (c : CoreId) : KeepsForm s (execFirmwareWatchdogExpiry c s) :=
  onBoth_keepsForm fun e _ ok => firmwareFault_ok c e ok

theorem powerState_keepsForm (src : AdminSrc) : KeepsForm s (execPowerState src s) := onBoth_keepsForm fun _ _ ok => .of ok

theorem controllerResetTakesEffect_keepsForm : KeepsForm s (execControllerResetTakesEffect s) :=
  onBoth_keepsForm fun _ _ ok => .ite (.of (resetCores_ok ok)) (.of ok)

theorem pllLockLoss_keepsForm (pll : Pll) : KeepsForm s (execPllLockLoss pll s) :=
  onBoth_keepsForm fun _ _ ok => .ite (.of ok) (.of (resetCores_ok ok))

theorem extest_keepsForm (drive : List Bool) : KeepsForm s (execExtest drive s) :=
  onBoth_keepsForm fun _ _ ok => .ite (.of ok) (.of (resetCores_ok ok))

theorem clamp_keepsForm : KeepsForm s (execClamp s) :=
  onBoth_keepsForm fun _ _ ok => .ite (.of ok) (.of (resetCores_ok ok))

/-- A stop is no next state. -/
theorem l2Load_keepsForm (dr : Qword) : KeepsForm s (execL2Load dr s) :=
  .ite (onEng_keepsForm _) (.ite ⟨fun _ _ stops => nomatch stops⟩ (onBoth_keepsForm fun _ _ ok => .of (puts_ok _ _ ok)))

theorem eccUncorrectable_keepsForm (site : EccSite) : KeepsForm s (execEccUncorrectable site s) := by
  refine onBoth_keepsForm fun e k ok => .ite (.of ok) ?_
  cases site with
  | firmwareMemory c => exact firmwareFault_ok c e ok
  | userMemory c store =>
    refine .ite (.of ok) (.of ?_)
    split
    · exact storeFault_ok c _ ok
    · exact loadFault_ok c _ ok
  | _ => exact .of ok

theorem coreWfi_keepsForm (c : CoreId) : KeepsForm s (execCoreWfi c s) :=
  onBoth_keepsForm fun _ _ ok => .ite (.of ok) (.of (settleCores_ok _ (modCore_ok c ok fun _ hx => hx)))

theorem powerCommit_keepsForm : KeepsForm s (execPowerCommit s) := by
  refine onBoth_keepsForm fun e k ok => ?_
  split
  · exact .of ok
  · exact .ite (.of (settleCores_ok _ (modCore_ok 0 ok fun _ hx => hx))) (.of (loseRegs_ok _ (loseL2_ok _ ok)))

theorem wakeExitDone_keepsForm : KeepsForm s (execWakeExitDone s) :=
  onBoth_keepsForm fun _ _ ok => .ite (.of ok) (.of (settleCores_ok _ (wakeCores_ok _ (handOver_ok ok))))

theorem watcherWakeRequest_keepsForm (n : Fin 64) : KeepsForm s (execWatcherWakeRequest n s) := by
  refine onBoth_keepsForm fun e k ok => .ite (.of ok) ?_
  dsimp only
  split
  · exact .of ok
  · exact .ite (.of ok) (.ite (.of ok) (.of (settleCores_ok e (modCore_ok _ ok fun _ hx => hx))))

theorem wakeEvent_keepsForm (src : WakeSrc) : KeepsForm s (execWakeEvent src s) :=
  onBoth_keepsForm fun _ _ ok => .ite (.of ok) (.ite (.of ok) (.of ok))

theorem pwrWakeHiWrite_keepsForm (c : CoreId) (v : Dword) : KeepsForm s (execPwrWakeHiWrite c v s) :=
  onBoth_keepsForm fun _ _ ok => .ite (.of ok) (.ite (.of ok) (.of ok))

theorem powerStateDrainTimeout_keepsForm : KeepsForm s (execPowerStateDrainTimeout s) :=
  onBoth_keepsForm fun _ _ ok => .ite (.of ok) (.of ok)

theorem sleepRequestTimeout_keepsForm : KeepsForm s (execSleepRequestTimeout s) :=
  onBoth_keepsForm fun _ _ ok => .ite (.of ok) (.of ok)

end Power

/-! ## User images (R288, R291) -/

section Images

variable {s : State}

theorem loadUserImage_keepsForm (src : AdminSrc) (image : ReadData) : KeepsForm s (execLoadUserImage src image s) := by
  refine onBoth_keepsForm fun e k ok => runAdminCores_ok ok fun f c e => ?_
  split
  · exact takeImage_ok _ _ ok
  · exact ok

theorem userCoreControl_keepsForm (src : AdminSrc) : KeepsForm s (execUserCoreControl src s) := by
  refine onBoth_keepsForm fun e k ok => runAdminCores_ok ok fun f c e => ?_
  split
  · exact ok
  · split
    · exact ok
    next acts =>
      dsimp only
      exact settleCores_ok _ (coreAction_ok ok acts)

end Images

/-! ## Register accesses (R286, R302, R306, R358) -/

section Registers

variable {s : State}

theorem etcLo_keepsForm (f : Fn) : KeepsForm s (execEtcLo f s) := hostAccess_keepsForm f _ fun _ _ ok => .of ok

theorem frameExtLo_keepsForm (f : Fn) : KeepsForm s (execFrameExtLo f s) := hostAccess_keepsForm f _ fun _ _ ok => .of ok

theorem arbiterSetDword0Read_keepsForm (f : Fn) (off : Nat) : KeepsForm s (execArbiterSetDword0Read f off s) := by
  refine hostAccess_keepsForm f off fun e k ok => ?_
  split
  · exact .of ok
  · exact .of ok

theorem cntCtrl_keepsForm (f : Fn) (selected : Bool) (v : Dword) (be : BitVec 4) :
    KeepsForm s (execCntCtrl f selected v be s) := hostAccess_keepsForm f _ fun _ _ ok => .ite (.of ok) (.of ok)

theorem testKey_keepsForm (v : Dword) : KeepsForm s (execTestKey v s) := hostAccess_keepsForm pf _ fun _ _ ok => .of ok

theorem tpCtl_keepsForm (n : Fin 19) (v : Dword) (be : BitVec 4) : KeepsForm s (execTpCtl n v be s) :=
  hostAccess_keepsForm pf _ fun _ _ ok => .ite (.of ok) (.of ok)

theorem dbgHalt_keepsForm (v : Dword) (be : BitVec 4) : KeepsForm s (execDbgHalt v be s) := by
  refine hostAccess_keepsForm pf _ fun e k ok => .ite (.of ok) (.of (settleCores_ok _ ?_))
  refine forCores_ok _ ok fun c _ hk => modCore_ok c hk fun x hx => ?_
  split
  · exact hx
  · exact hx
  · exact hx

theorem tripSoft_keepsForm (c : CoreId) (v : Dword) : KeepsForm s (execTripSoft c v s) :=
  onBoth_keepsForm fun _ _ ok => .ite (.of ok) (.of ok)

theorem pfWrite_ok (off : Nat) (v : Dword) (be : BitVec 4) (e : Engine) {k : Cores} (ok : CoresOk k) :
    EffectOk (pfWrite off v be e k) := by
  refine .ite (.ite (.of ok) (.of ok)) (.ite (.of (same_ok ok rfl rfl rfl rfl)) ?_)
  split
  · exact .of ok
  · refine .ite (.of ok) ?_
    split
    · exact .of ok
    · exact .of ok
    · exact .of ok

theorem bar0Write_keepsForm (f : Fn) (off : Nat) (v : Dword) (be : BitVec 4) : KeepsForm s (bar0Write f off v be s) := by
  have leaves (act : Engine → Cores → Engine) : KeepsForm s (hostAccess f off (fun e k => (act e k, k)) s) :=
    hostAccess_keepsForm f off fun _ _ ok => .of ok
  have pfOwn : KeepsForm s (hostAccess f off (pfWrite off v be) s) :=
    hostAccess_keepsForm f off fun e _ ok => pfWrite_ok off v be e ok
  refine .ite (onEng_keepsForm _) <| .ite (leaves _) <| .ite (cntCtrl_keepsForm ..) <| .ite (leaves _) <|
    .ite (leaves fun e _ => e) <| .ite (cntCtrl_keepsForm ..) <|
    .ite (.ite (leaves fun e _ => e) (testKey_keepsForm _)) <| .ite (dbgHalt_keepsForm ..) ?_
  split
  · exact .ite (tpCtl_keepsForm ..) pfOwn
  · exact pfOwn

theorem cicWrite_keepsForm (c : CoreId) (off : Nat) (v : Dword) (be : BitVec 4) : KeepsForm s (cicWrite c off v be s) := by
  have ignored : KeepsForm s (onEng s fun e => e) := onEng_keepsForm _
  refine .ite (cicPendSet_keepsForm ..) <| .ite (cicPendClr_keepsForm ..) <| .ite (cicMaskSet_keepsForm ..) <|
    .ite (cicMaskClr_keepsForm ..) <| .ite (cicWakeSet_keepsForm ..) <| .ite (cicWakeClr_keepsForm ..) <|
    .ite (cicQuar_keepsForm ..) <| .ite (cicRoute_keepsForm ..) <| .ite (cicPrio_keepsForm ..) ?_
  split
  · exact ignored
  · refine .ite ignored ?_
    split
    · exact onBoth_keepsForm fun _ _ ok => .ite (.of (storeFault_ok c _ ok)) (.of ok)
    · exact cicEoi_keepsForm ..
    · refine onCores_keepsForm fun k ok => ?_
      split
      · exact modCore_ok _ ok fun _ hx => hx
      · exact ok
    · exact ignored

theorem dspStateWrite_keepsForm (c : CoreId) (t : ThreadId) (v : Dword) : KeepsForm s (dspStateWrite c t v s) := by
  refine threadWrite_keepsForm c t _ fun _ k ok => ?_
  have cleared : CoresOk (if bitOf v 8 then modThread t (fun x => { x with err := false }) k else k) := by
    split
    · exact modThread_ok t ok fun _ => rfl
    · exact ok
  dsimp only
  split
  · exact startThread_ok t cleared
  · exact stopThread_ok t cleared
  · exact cleared

theorem timerWrite_keepsForm (c d : CoreId) (off : Nat) (v : Dword) (be : BitVec 4) :
    KeepsForm s (timerWrite c d off v be s) := by
  refine coreWrite_keepsForm c d off fun _ k ok => modCore_ok c ok fun x hx => ?_
  split
  · exact hx
  · exact hx
  · exact hx

theorem dspWrite_keepsForm (c : CoreId) (off : Nat) (v : Dword) (be : BitVec 4) : KeepsForm s (dspWrite c off v be s) := by
  have ignored : KeepsForm s (onEng s fun e => e) := onEng_keepsForm _
  refine .ite (threadWrite_keepsForm c _ _ fun _ _ ok => setAffinity_ok _ _ ok fun _ => rfl) <|
    .ite (dspFlagSet_keepsForm ..) <| .ite (dspFlagClr_keepsForm ..) <| .ite (dspWait_keepsForm ..) <|
    .ite (threadWrite_keepsForm c _ _ fun _ _ ok => ok) <| .ite (dspStateWrite_keepsForm ..) <|
    .ite (dspCtx_keepsForm ..) ?_
  split
  · exact ignored
  · refine .ite ignored ?_
    split
    · exact dspRun_keepsForm ..
    · exact dspMode_keepsForm ..
    · exact timerWrite_keepsForm ..
    · exact timerWrite_keepsForm ..
    · exact timerWrite_keepsForm ..
    · exact coreWrite_keepsForm _ c _ fun _ _ ok => ok
    · exact ignored

theorem coreStore_keepsForm (c : CoreId) (a : Nat) (v : Dword) (be : BitVec 4) : KeepsForm s (coreStore c a v be s) := by
  have faults : ∀ k, CoresOk k → CoresOk (storeFault c a k) := fun _ ok => storeFault_ok c a ok
  refine .ite (onCores_keepsForm faults) ?_
  split
  · exact onBoth_keepsForm fun _ k ok => .of (faults k ok)
  · exact .ite (onCores_keepsForm fun _ ok => setMem_ok ok (storeBytes_wf ok.mem) rfl rfl rfl) <|
      .ite (cicWrite_keepsForm ..) <| .ite (dspWrite_keepsForm ..) <|
      .ite (onBoth_keepsForm fun _ _ ok => .of (settleCores_ok _ ok)) <| .ite (tripSoft_keepsForm ..) (onEng_keepsForm _)

theorem registerWrite_keepsForm (port : RegPort) (addr : Nat) (v : Dword) (be : BitVec 4) :
    KeepsForm s (execRegisterWrite port addr v be s) := by
  cases port with
  | bar0 f => exact bar0Write_keepsForm f addr v be
  | core c => exact .ite (coreStore_keepsForm c addr v be) (onEng_keepsForm _)

/-- R351: of the failed reads only a host copy's ends at the cores. -/
theorem failedRead_keepsForm (tag : ReadTag) : KeepsForm s (failedRead tag s) := by
  cases tag with
  | hostCopy t => exact hostCopyComplete_keepsForm t none
  | _ =>
    unfold failedRead
    exact onEng_keepsForm _

theorem readCompletionTimeout_keepsForm (tag : ReadTag) : KeepsForm s (execReadCompletionTimeout tag s) :=
  .ite (failedRead_keepsForm tag) (onEng_keepsForm _)

end Registers

/-! ## The step -/

/-- Every command keeps the form: the ones that act on the engine alone leave the cores as they are. -/
theorem exec_keepsForm (i : Instr) (s : State) : KeepsForm s (exec i s) := by
  cases i with
  | cicPulseEvent n => exact cicPulseEvent_keepsForm n
  | cicLevelRise n => exact cicLevelRise_keepsForm n
  | cicLevelFall n => exact cicLevelFall_keepsForm n
  | cicClaim c d => exact cicClaim_keepsForm c d
  | cicEoi c d v => exact cicEoi_keepsForm c d v
  | cicPendSet c w v => exact cicPendSet_keepsForm c w v
  | cicPendClr c w v => exact cicPendClr_keepsForm c w v
  | cicMaskSet c w v => exact cicMaskSet_keepsForm c w v
  | cicMaskClr c w v => exact cicMaskClr_keepsForm c w v
  | cicWakeSet c w v => exact cicWakeSet_keepsForm c w v
  | cicWakeClr c w v => exact cicWakeClr_keepsForm c w v
  | cicQuar c w v => exact cicQuar_keepsForm c w v
  | cicRoute c n v => exact cicRoute_keepsForm c n v
  | cicPrio c n v => exact cicPrio_keepsForm c n v
  | stormQuarantine n => exact stormQuarantine_keepsForm n
  | dspFlagSet c t v => exact dspFlagSet_keepsForm c t v
  | dspFlagClr c t v => exact dspFlagClr_keepsForm c t v
  | dspWait c t mask => exact dspWait_keepsForm c t mask
  | start c t => exact start_keepsForm c t
  | stop c t => exact stop_keepsForm c t
  | dspCtx c t v => exact dspCtx_keepsForm c t v
  | dspRun c d v => exact dspRun_keepsForm c d v
  | dspMode c d v => exact dspMode_keepsForm c d v
  | dispatchSwitch c => exact dispatchSwitch_keepsForm c
  | dspTimerFire c => exact dspTimerFire_keepsForm c
  | skelkuYield c => exact skelkuYield_keepsForm c
  | skelkuWait c mask mode timeout => exact skelkuWait_keepsForm c mask mode timeout
  | skelkuSignal c t flags => exact skelkuSignal_keepsForm c t flags
  | skelkuClear c flags => exact skelkuClear_keepsForm c flags
  | skelkuStart c t entry stack cfg => exact skelkuStart_keepsForm c t entry stack cfg
  | skelkuStop c t => exact skelkuStop_keepsForm c t
  | skelkuSetPriority c t prio => exact skelkuSetPriority_keepsForm c t prio
  | skelkuTime c => exact skelkuTime_keepsForm c
  | skelkuSleep c ns => exact skelkuSleep_keepsForm c ns
  | skelkuHostCopy c dir offset addr len => exact skelkuHostCopy_keepsForm c dir offset addr len
  | skelkuAttach c source t flag => exact skelkuAttach_keepsForm c source t flag
  | skelkuRearm c source => exact skelkuRearm_keepsForm c source
  | hostCopyComplete t data => exact hostCopyComplete_keepsForm t data
  | windowLoad c addr data => exact windowLoad_keepsForm c addr data
  | porNAssert => exact porNAssert_keepsForm
  | pgAoRise => exact pgAoRise_keepsForm
  | controllerResetTakesEffect => exact controllerResetTakesEffect_keepsForm
  | fence => exact fence_keepsForm
  | thermalShutdown celsius => exact thermalShutdown_keepsForm celsius
  | pllLockLoss pll => exact pllLockLoss_keepsForm pll
  | extest drive => exact extest_keepsForm drive
  | clamp => exact clamp_keepsForm
  | l2Load dr => exact l2Load_keepsForm dr
  | eccUncorrectable site => exact eccUncorrectable_keepsForm site
  | firmwareWatchdogExpiry c => exact firmwareWatchdogExpiry_keepsForm c
  | coreWfi c => exact coreWfi_keepsForm c
  | powerCommit => exact powerCommit_keepsForm
  | wakeExitDone => exact wakeExitDone_keepsForm
  | watcherWakeRequest n => exact watcherWakeRequest_keepsForm n
  | wakeEvent src => exact wakeEvent_keepsForm src
  | pwrWakeHiWrite c v => exact pwrWakeHiWrite_keepsForm c v
  | powerState src => exact powerState_keepsForm src
  | powerStateDrainTimeout => exact powerStateDrainTimeout_keepsForm
  | sleepRequestTimeout => exact sleepRequestTimeout_keepsForm
  | loadUserImage src image => exact loadUserImage_keepsForm src image
  | userCoreControl src => exact userCoreControl_keepsForm src
  | etcLo f => exact etcLo_keepsForm f
  | frameExtLo f => exact frameExtLo_keepsForm f
  | arbiterSetDword0Read f offset => exact arbiterSetDword0Read_keepsForm f offset
  | cntCtrl f selected v be => exact cntCtrl_keepsForm f selected v be
  | testKey v => exact testKey_keepsForm v
  | tpCtl n v be => exact tpCtl_keepsForm n v be
  | dbgHalt v be => exact dbgHalt_keepsForm v be
  | tripSoft c v => exact tripSoft_keepsForm c v
  | registerWrite port addr v be => exact registerWrite_keepsForm port addr v be
  | readCompletionTimeout tag => exact readCompletionTimeout_keepsForm tag
  | _ =>
    unfold exec
    exact onEng_keepsForm _

theorem stepKeepsForm_holds : Claim.stepKeepsForm := by
  intro s t inv steps
  cases queue : s.pending with
  | nil =>
    obtain rfl : tick s = t := by simpa [step, queue] using steps
    exact inv
  | cons c rest =>
    have runs : exec c { s with pending := rest } = .next t := by simpa only [step, queue] using steps
    exact (exec_keepsForm c { s with pending := rest }).next inv t runs

end Sys2Proof.Machine

namespace Sys2Proof

open Sys2Proof.Machine

/-- Settles O4: a step is a tick, which leaves the cores, or a command, and each command keeps their form. -/
theorem stepKeepsTheInvariant : Obligations.StepKeepsTheInvariant := stepKeepsForm_holds

end Sys2Proof
end


section
/-! The TAP (R405, R406): which instruction is selected and what it does to the pins, to L2 and to the operator key. -/

namespace Sys2Proof.Machine

open Sys2Proof.Claim

/-! ## The instructions that only select a register -/

theorem samplePreload_holds : Claim.samplePreload := fun _ _ => rfl

theorem idcode_holds : Claim.idcode := fun _ => rfl

theorem bypass_holds : Claim.bypass := fun _ _ => rfl

theorem tapReset_holds : Claim.tapReset := fun _ => rfl

/-! ## EXTEST and CLAMP hold the pins (R406) -/

theorem extest_holds : Claim.extest := by
  intro s d
  refine ⟨fun functional => ?_, fun strapped => ?_⟩
  · show execExtest d s = _
    simp only [execExtest, onBoth_eq, functional]
    rfl
  · show execExtest d s = _
    simp only [execExtest, onBoth_eq, strapped]
    rfl

theorem clamp_holds : Claim.clamp := by
  intro s
  refine ⟨fun functional => ?_, fun strapped => ?_⟩
  · show execClamp s = _
    simp only [execClamp, onBoth_eq, functional]
    rfl
  · show execClamp s = _
    simp only [execClamp, onBoth_eq, strapped]
    rfl

/-! ## L2_LOAD (R389, R405) -/

/-- The cores with the four bytes of an L2_LOAD stored. -/
def l2Loaded (dr : Qword) (k : Cores) : Cores :=
  { k with mem := memPuts k.mem (l2Base + fldN dr 0 32) (leBytes 4 (fldN dr 32 32)) }

/-- The instruction acts as BYPASS: the part is locked, or its boot ROM does not wait for an image on the TAP. -/
def l2Barred (e : Engine) : Bool :=
  !e.unlocked || e.pins.strapBoot != 3 || !({ e with jtag := { e.jtag with holds := false } } : Engine).booting

theorem l2Barred_of_loadOk {s : State} (ok : loadOk s) : l2Barred s.eng = false := by
  obtain ⟨unlocked, strap, boots⟩ := ok
  rw [l2Barred, unlocked, strap, boots]
  rfl

theorem l2Barred_of_locked {e : Engine} (locked : e.unlocked = false) : l2Barred e = true := by
  rw [l2Barred, locked]
  rfl

theorem l2Barred_of_strap {e : Engine} (other : e.pins.strapBoot ≠ 3) : l2Barred e = true := by
  rw [l2Barred, bne_iff_ne.mpr other, Bool.or_true]
  rfl

theorem execL2Load_eq (dr : Qword) (s : State) : execL2Load dr s =
    if l2Barred s.eng then onEng s tapBypass
    else if 2621440 < fldN dr 0 32 + 4 then .fault .l2OffsetBeyond
    else onBoth s fun e k => (tapSelect .l2Load 0 e, l2Loaded dr k) := rfl

theorem exec_l2Load {s : State} {dr : Qword} (ok : loadOk s) (inside : fldN dr 0 32 + 4 ≤ 2621440) : exec (.l2Load dr) s =
    .next { s with eng := noted s.eng (tapSelect .l2Load 0 s.eng), cores := l2Loaded dr s.cores } := by
  show execL2Load dr s = _
  rw [execL2Load_eq, l2Barred_of_loadOk ok, if_neg Bool.false_ne_true, if_neg (Nat.not_lt.mpr inside), onBoth_eq]

theorem exec_l2Load_beyond {s : State} {dr : Qword} (ok : loadOk s) (beyond : 2621440 < fldN dr 0 32 + 4) :
    exec (.l2Load dr) s = .fault .l2OffsetBeyond := by
  show execL2Load dr s = _
  rw [execL2Load_eq, l2Barred_of_loadOk ok, if_neg Bool.false_ne_true, if_pos beyond]

theorem l2Load_holds : Claim.l2Load := by
  intro s dr
  refine ⟨fun ok inside => exec_l2Load ok inside, fun ok beyond => exec_l2Load_beyond ok beyond, fun barred => ?_⟩
  have ignored : l2Barred s.eng = true := barred.elim l2Barred_of_locked l2Barred_of_strap
  show execL2Load dr s = _
  rw [execL2Load_eq, ignored, if_pos rfl]
  rfl

/-- Byte `i` of a word in byte order. -/
theorem getElem_leBytes {n x i : Nat} (inside : i < (leBytes n x).length) :
    (leBytes n x)[i] = BitVec.ofNat 8 (x / 256 ^ i) := by
  induction n generalizing x i with
  | zero => simp at inside
  | succ n ih =>
    cases i with
    | zero => simp [leBytes]
    | succ i =>
      simp only [leBytes, List.getElem_cons_succ]
      rw [ih, Nat.div_div_eq_div_mul, pow_succ']

/-- A byte of a field is a byte of the word. -/
theorem fld_byte {w off n i : Nat} (v : BitVec w) (inside : 8 * (i + 1) ≤ n) :
    BitVec.ofNat 8 (fldN v off n / 256 ^ i) = fld v (off + 8 * i) 8 := by
  refine BitVec.eq_of_getLsbD_eq fun j less => ?_
  have weight : 256 ^ i = 2 ^ (8 * i) := by rw [pow_mul]; rfl
  have below : 8 * i + j < n := by omega
  rw [BitVec.getLsbD_ofNat, weight, Nat.testBit_div_two_pow, BitVec.testBit_toNat, BitVec.getLsbD_extractLsb',
    BitVec.getLsbD_extractLsb', Nat.add_comm j]
  simp only [less, below, decide_true, Bool.true_and, Nat.add_assoc]

theorem loadStoresFour_holds : Claim.loadStoresFour := by
  intro s dr wf unlocked strap boots inside
  have length : (leBytes 4 (fldN dr 32 32)).length = 4 := length_leBytes ..
  refine ⟨_, exec_l2Load ⟨unlocked, strap, boots⟩ inside, rfl, memPuts_wf wf, fun i less => ?stored, fun a out => ?other⟩
  case stored =>
    have less : i < (leBytes 4 (fldN dr 32 32)).length := by omega
    refine (memByte_puts_in wf less).trans ?_
    rw [getElem_leBytes, fld_byte dr (by omega)]
  case other => exact memByte_puts_out wf (by rw [length]; exact out)

/-! ## OTP_KEY (R389) -/

theorem otpKey_holds : Claim.otpKey := by
  intro s key
  refine ⟨fun unlocked blank => ?_, fun barred => ?_⟩
  · show execOtpKey key s = _
    simp [execOtpKey, unlocked, blank, tapSelect]
  · show execOtpKey key s = _
    have ignored : (!s.eng.unlocked || s.eng.fw.otp.isSome) = true := by
      rcases barred with locked | written
      · simp [locked]
      · simp [written]
    simp only [execOtpKey, onEng_eq, ignored, if_true]
    rfl

end Sys2Proof.Machine

namespace Sys2Proof

open Sys2Proof.Machine

/-- Settles O47: each instruction by what bars it; the bytes of an L2_LOAD are read back from the memory. -/
theorem tapCommandsComplete : Obligations.TapCommandsComplete :=
  ⟨extest_holds, clamp_holds, samplePreload_holds, idcode_holds, bypass_holds, tapReset_holds, l2Load_holds, otpKey_holds,
    loadStoresFour_holds⟩

end Sys2Proof
end


section
/-! The task dispatcher (R295 to R302): a store to a register of a thread or of a core acts or faults, then what each
register does with it, the switch and the timers. -/

namespace Sys2Proof.Machine

open Sys2Proof.Claim

/-! ## Stores to dispatcher registers (R302) -/

section Stores

variable {s : State} {c d : CoreId} {t : ThreadId}

theorem threadWrite_acts (may : mayWrite s c t) (off : Nat) (f : Engine → Cores → Cores) :
    threadWrite c t off f s = .next { s with cores := settleCores s.eng (f s.eng s.cores) } := by
  obtain ⟨running, own⟩ := may
  simp [threadWrite, running, own]

theorem threadWrite_faults (running : runs s c) (foreign : (userCore c && decide (t.val < 192)) = true) (off : Nat)
    (f : Engine → Cores → Cores) :
    threadWrite c t off f s = .next { s with cores := storeFault c (0x40010000 + off + 4 * t.val) s.cores } := by
  simp [threadWrite, running, foreign]

/-- A command that is a store to a register of a thread. -/
theorem threads_of_threadWrite {off : Nat} {f : CoreId → ThreadId → Dword → Cores → Cores}
    {cmd : CoreId → ThreadId → Dword → Instr}
    (is : ∀ s c t v, exec (cmd c t v) s = threadWrite c t off (fun _ => f c t v) s) : threads off f cmd := by
  intro s c t v
  rw [is]
  exact ⟨fun may => threadWrite_acts may off _, fun running foreign => threadWrite_faults running foreign off _⟩

theorem coreWrite_acts (running : runs s d) (own : (userCore d && !userCore c) = false) (off : Nat)
    (f : Engine → Cores → Cores) :
    coreWrite c d off f s = .next { s with cores := settleCores s.eng (f s.eng s.cores) } := by
  simp [coreWrite, running, own]

theorem coreWrite_faults (running : runs s d) (foreign : (userCore d && !userCore c) = true) (off : Nat)
    (f : Engine → Cores → Cores) :
    coreWrite c d off f s = .next { s with cores := storeFault d (0x40012000 + off + 32 * c.val) s.cores } := by
  simp [coreWrite, running, foreign]

end Stores

/-! ## The registers of a thread (R296, R297, R301) -/

theorem dspFlagSet_holds : Claim.dspFlagSet := threads_of_threadWrite fun _ _ _ _ => rfl

theorem dspFlagClr_holds : Claim.dspFlagClr := threads_of_threadWrite fun _ _ _ _ => rfl

theorem exec_dspCtx (s : State) (c : CoreId) (t : ThreadId) (v : Dword) : exec (.dspCtx c t v) s =
    threadWrite c t 0x1800 (fun _ k => if ctxOkFor t v.toNat then modThread t (fun x => { x with ctx := v }) k
      else modThread t (fun x => { x with err := true }) k) s := by
  unfold exec execDspCtx threadErr
  rfl

theorem dspCtx_holds : Claim.dspCtx := by
  unfold Claim.dspCtx
  exact threads_of_threadWrite exec_dspCtx

theorem dspWait_holds : Claim.dspWait := by
  refine ⟨threads_of_threadWrite fun _ _ _ _ => rfl, fun c t m k other => ?_⟩
  simp [waitThread, other, threadErr]

theorem start_holds : Claim.start := by
  refine ⟨threads_of_threadWrite fun _ _ _ _ => rfl, fun t k dormant => ?_, fun t k other => ?_⟩
  · simp [startThread, dormant]
  · simp [startThread, other, threadErr]

theorem stop_holds : Claim.stop := by
  refine ⟨threads_of_threadWrite fun _ _ _ _ => rfl, fun t k dormant => ?_, fun t k other => ?_⟩
  · simp [stopThread, dormant, threadErr]
  · rw [stopThread, if_neg (by simp [other])]
    simp only [Cores.th, modThread, vmod_same]

/-! ## The registers of a core (R298, R299) -/

/-- What a core's own DSP_RUN does in INTERRUPT mode: a number of no thread that it may run is refused. -/
def runWritten (c : CoreId) (v : Dword) (k : Cores) : Cores :=
  let released := match (k.at c).run with
    | some old => makeReady old (modCore c (fun x => { x with run := none }) k)
    | none => k
  if fldN v 0 9 = 0x1FF then modCore c (fun x => { x with refused := false }) released
  else match finOf? 256 (fldN v 0 9) with
  | none => modCore c (fun x => { x with refused := true }) k
  | some t =>
    if (k.th t).state == .ready && bitOf (k.th t).affinity c.val && (k.at c).enable then
      modThread t (fun y => { y with state := .running, core := c.val })
        (modCore c (fun x => { x with run := some t, refused := false }) released)
    else modCore c (fun x => { x with refused := true }) k

section Run

variable {s : State} {c : CoreId}

theorem own_core : (userCore c && !userCore c) = false := Bool.and_not_self _

theorem exec_dspRun (running : runs s c) (interrupt : (s.cores.at c).preempt = false) (v : Dword) :
    exec (.dspRun c c v) s = .next { s with cores := settleCores s.eng (runWritten c v s.cores) } := by
  show execDspRun c c v s = _
  rw [execDspRun, coreWrite_acts running own_core]
  simp only [bne_self_eq_false, Bool.false_eq_true, if_false, interrupt]
  rfl

theorem exec_dspRun_preempt (running : runs s c) (preempt : (s.cores.at c).preempt = true) (v : Dword) :
    exec (.dspRun c c v) s =
      .next { s with cores := settleCores s.eng (modCore c (fun x => { x with refused := true }) s.cores) } := by
  show execDspRun c c v s = _
  rw [execDspRun, coreWrite_acts running own_core]
  simp only [bne_self_eq_false, Bool.false_eq_true, if_false, preempt, if_true]

variable {t : ThreadId} {v : Dword} {k : Cores}

theorem runWritten_thread (idle : (k.at c).run = none) (named : fldN v 0 9 = t.val) : runWritten c v k =
    if (k.th t).state == .ready && bitOf (k.th t).affinity c.val && (k.at c).enable then
      modThread t (fun y => { y with state := .running, core := c.val })
        (modCore c (fun x => { x with run := some t, refused := false }) k)
    else modCore c (fun x => { x with refused := true }) k := by
  have least : ¬ t.val = 0x1FF := by omega
  have found : finOf? 256 t.val = some t := by simp [finOf?]
  simp only [runWritten, named, least, if_false, found, idle]

theorem runWritten_release (running : (k.at c).run = some t) (none_ : fldN v 0 9 = 0x1FF) : runWritten c v k =
    modCore c (fun x => { x with refused := false }) (makeReady t (modCore c (fun x => { x with run := none }) k)) := by
  simp only [runWritten, none_, if_true, running]

end Run

theorem dspRun_holds : Claim.dspRun := by
  intro s c v
  refine ⟨fun t ok named _ ready affine enabled => ?_, fun t ok named other => ?_, fun t running interrupt runs_ none_ => ?_,
    fun running preempt => exec_dspRun_preempt running preempt v⟩
  · obtain ⟨running, interrupt, idle⟩ := ok
    rw [exec_dspRun running interrupt, runWritten_thread idle named, ready, affine, enabled]
    rfl
  · obtain ⟨running, interrupt, idle⟩ := ok
    rw [exec_dspRun running interrupt, runWritten_thread idle named, beq_eq_false_iff_ne.mpr other]
    rfl
  · rw [exec_dspRun running interrupt, runWritten_release runs_ none_]

theorem dspMode_holds : Claim.dspMode := by
  intro s c d v running
  refine ⟨fun own => ?_, fun foreign => ?_⟩
  · show execDspMode c d v s = _
    rw [execDspMode, coreWrite_acts running own]
  · show execDspMode c d v s = _
    rw [execDspMode, coreWrite_faults running foreign]

/-! ## The switch and the timers (R293, R300 to R302) -/

theorem dispatchSwitch_holds : Claim.dispatchSwitch := by
  intro s c
  refine ⟨fun may => ?_, fun no => ?_⟩
  · show execDispatchSwitch c s = _
    simp [execDispatchSwitch, may]
  · show execDispatchSwitch c s = _
    simp [execDispatchSwitch, no]

theorem dspTimerFire_holds : Claim.dspTimerFire := by
  intro s c
  refine ⟨fun ok => ?_, fun dormant => ?_⟩
  · obtain ⟨armed, due, on, may⟩ := ok
    show execDspTimerFire c s = _
    have fires : ((s.cores.at c).tmrArm && decide ((s.cores.at c).tmr.toNat ≤ s.eng.now) && s.eng.pwr.chip != .dormant
        && timerMay c (s.cores.at c).tmrThread.toNat) = true := by
      rw [armed, decide_eq_true due, bne_iff_ne.mpr on, may]
      rfl
    simp only [execDspTimerFire, onBoth_eq, fires, Bool.not_true, Bool.false_eq_true, if_false, noted_self]
  · show execDspTimerFire c s = _
    simp [execDspTimerFire, dormant]

end Sys2Proof.Machine

namespace Sys2Proof

open Sys2Proof.Machine

/-- Settles O56: a store by whether the core may make it, DSP_RUN by the mode and by what its number names. -/
theorem dispatcherComplete : Obligations.DispatcherComplete :=
  ⟨dspFlagSet_holds, dspFlagClr_holds, dspWait_holds, start_holds, stop_holds, dspCtx_holds, dspRun_holds, dspMode_holds,
    dispatchSwitch_holds, dspTimerFire_holds⟩

end Sys2Proof
end


section
/-! Register accesses (R9, R286, R358): what an access by the host and a store by a core come to, then the registers. -/

namespace Sys2Proof.Machine

open Sys2Proof.Claim

/-! ## Accesses of the host (R339, R351) -/

section HostAccess

variable {s : State} {f : Fn} {off : Nat}

theorem offId_hostBlock (e : Engine) (k : Cores) (f : Fn) (off : Nat) :
    offId e k (if f = pf || off < 0x10000 then bar0Block off else none)
      = offId e k (if f = pf ∨ off < 0x10000 then bar0Block off else none) := by
  simp only [Bool.or_eq_true, decide_eq_true_eq]

theorem hostAccess_acts (ok : hostOk s f off) (act : Engine → Cores → Engine × Cores) : hostAccess f off act s =
    .next { s with eng := noted s.eng (act s.eng s.cores).1, cores := (act s.eng s.cores).2 } := by
  obtain ⟨reach, on⟩ := ok
  simp only [hostAccess, onBoth_eq, reach, offId_hostBlock, on, Bool.not_true, Bool.false_eq_true, if_false]

theorem hostAccess_off {b : Nat} (reach : s.eng.reachable f = true)
    (off_ : offId s.eng s.cores (if f = pf ∨ off < 0x10000 then bar0Block off else none) = some b)
    (act : Engine → Cores → Engine × Cores) : hostAccess f off act s =
    .next { s with eng := noted s.eng { offAccess b off s.eng with readValue := (offWord b).setWidth 64 } } := by
  simp only [hostAccess, onBoth_eq, reach, offId_hostBlock, off_, Bool.not_true, Bool.false_eq_true, if_false]

theorem hostAccess_unreachable (gone : s.eng.reachable f = false) (act : Engine → Cores → Engine × Cores) :
    hostAccess f off act s = .next { s with eng := noted s.eng s.eng } := by
  simp only [hostAccess, onBoth_eq, gone, Bool.not_false, if_true]

/-- A command that is an access of the host. -/
theorem hosts_of_hostAccess {act : Engine → Cores → Engine × Cores} {i : Instr}
    (is : ∀ s, exec i s = hostAccess f off act s) : hosts f off act i := by
  intro s
  rw [is]
  exact ⟨fun ok => hostAccess_acts ok act, fun b reach off_ => hostAccess_off reach off_ act,
    fun gone => hostAccess_unreachable gone act⟩

end HostAccess

/-! ## Reads that latch (R344, R361, R396) -/

theorem etcLo_holds : Claim.etcLo := fun _ => hosts_of_hostAccess fun _ => rfl

theorem frameExtLo_holds : Claim.frameExtLo := fun _ => hosts_of_hostAccess fun _ => rfl

theorem arbiterSetDword0Read_holds : Claim.arbiterSetDword0Read := by
  intro s f off n ok first
  show execArbiterSetDword0Read f off s = _
  rw [execArbiterSetDword0Read, hostAccess_acts ok]
  simp only [first]

/-! ## Counters, the test block, the debug halt (R364, R397 to R399, R402) -/

theorem cntCtrl_holds : Claim.cntCtrl :=
  ⟨fun _ _ _ => hosts_of_hostAccess fun _ => rfl, fun _ _ => hosts_of_hostAccess fun _ => rfl⟩

/-- The engine after a write of TEST_KEY (R402). -/
def keyWritten (v : Dword) (e : Engine) : Engine :=
  if v = 0x5EED#32 then { e with test := { e.test with keyHalf := true } }
  else if v = 0x7111#32 && e.test.keyHalf then { e with test := { e.test with keyHalf := false, byKey := true } }
  else if v = 0 && !e.test.byStrap then lockTest e
  else { e with test := { e.test with keyHalf := false } }

theorem exec_testKey {s : State} (ok : hostOk s pf 0x30000) (v : Dword) :
    exec (.testKey v) s = .next { s with eng := noted s.eng (keyWritten v s.eng) } := by
  show execTestKey v s = _
  rw [execTestKey, hostAccess_acts ok]
  rfl

theorem testKey_holds : Claim.testKey := by
  intro s ok
  refine ⟨exec_testKey ok _, fun half => ?second, fun none_ => ?early, fun strapless => ?lock,
    fun v first second lock => ?other⟩
  case second =>
    rw [exec_testKey ok, keyWritten, if_neg (by decide), if_pos (by simp [half])]
  case early =>
    rw [exec_testKey ok, keyWritten, if_neg (by decide), if_neg (by simp [none_]), if_neg (by simp), ← none_]
  case lock =>
    rw [exec_testKey ok, keyWritten, if_neg (by decide), if_neg (by simp), if_pos (by simp [strapless])]
  case other =>
    rw [exec_testKey ok, keyWritten, if_neg first, if_neg (by simp [second]), 
      if_neg (by rw [decide_eq_false lock]; exact Bool.false_ne_true)]

theorem tpCtl_holds : Claim.tpCtl := by
  intro s n v be ok
  refine ⟨fun unlocked enabled => ?_, fun barred => ?_⟩
  · show execTpCtl n v be s = _
    rw [execTpCtl, hostAccess_acts ok]
    simp only [unlocked, enabled, Bool.not_true, Bool.or_false, Bool.false_eq_true, if_false]
  · have ignored : (!s.eng.unlocked || !bitOf be 0) = true := by
      rcases barred with locked | masked
      · rw [locked]; rfl
      · rw [masked, Bool.not_false, Bool.or_true]
    show execTpCtl n v be s = _
    rw [execTpCtl, hostAccess_acts ok]
    simp only [ignored, if_true]

theorem dbgHalt_holds : Claim.dbgHalt := by
  intro s v be ok enabled
  refine ⟨fun locked => ?_, fun unlocked => ?_⟩
  · show execDbgHalt v be s = _
    rw [execDbgHalt, hostAccess_acts ok]
    simp only [enabled, locked, Bool.not_true, Bool.false_eq_true, if_false, noted_self]
  · show execDbgHalt v be s = _
    rw [execDbgHalt, hostAccess_acts ok]
    simp only [enabled, unlocked, Bool.not_true, Bool.false_eq_true, if_false, if_true]

/-! ## TRIP_SOFT (R162, R290) -/

theorem refused_outputs (v : Dword) (grant : BitVec 4) :
    (List.range 4).filter (fun n => bitOf (fld v 0 4) n && !bitOf grant n)
      = (List.range 4).filter fun n => bitOf v n && !bitOf grant n := by
  refine List.filter_congr fun n inside => ?_
  have less : n < 4 := List.mem_range.mp inside
  simp [less]

/-- The outputs that a core may trip: all of them, or for a user core the grant of its image. -/
def tripGrantOf (k : Cores) (c : CoreId) : BitVec 4 :=
  if userCore c then (match (k.at c).image with | some i => i.tripGrant | none => 0) else 0xF#4

theorem exec_tripSoft {s : State} {c : CoreId} (running : runs s c) (v : Dword) : exec (.tripSoft c v) s =
    .next { s with eng := noted s.eng (softTripped v (tripGrantOf s.cores c) s.eng) } := by
  show execTripSoft c v s = _
  simp only [execTripSoft, onBoth_eq, show executes s.eng s.cores c = true from running, Bool.not_true,
    Bool.false_eq_true, if_false, softTripped, ← refused_outputs]
  rfl

theorem tripSoft_holds : Claim.tripSoft := by
  intro s c v running
  rw [exec_tripSoft running]
  refine ⟨fun firmware => ?_, fun i user image => ?_, fun user none_ => ?_⟩
  · rw [tripGrantOf, if_neg (by simp [firmware])]
    rfl
  · rw [tripGrantOf, if_pos user, image]
  · rw [tripGrantOf, if_pos user, none_]

/-! ## REGISTER_WRITE (R9, R286, R358) -/

section Store

variable {s : State} {c : CoreId} {a : Nat} (v : Dword) (be : BitVec 4)

theorem exec_registerWrite_core (running : runs s c) :
    exec (.registerWrite (.core c) a v be) s = coreStore c a v be s := if_pos running

theorem coreStore_denied (denied : (s.cores.at c).may c .store a 4 = false) :
    coreStore c a v be s = .next { s with cores := storeFault c a s.cores } := by
  rw [coreStore, if_pos (by simp [denied]), onCores_eq]

theorem coreStore_off {b : Nat} (may : (s.cores.at c).may c .store a 4 = true)
    (off : offId s.eng s.cores (coreBlock a) = some b) : coreStore c a v be s =
    .next { s with eng := noted s.eng (offAccess b a s.eng), cores := storeFault c a s.cores } := by
  rw [coreStore, if_neg (by simp [may]), off]
  rfl

theorem coreStore_memory (ok : storeOk s c a) (memory : isMemory a 4 = true) : coreStore c a v be s =
    .next { s with cores := { s.cores with mem := storeBytes a v be s.cores.mem } } := by
  obtain ⟨-, may, on⟩ := ok
  rw [coreStore, if_neg (by simp [may]), on]
  exact if_pos memory

end Store

theorem inRange_past {a n base size : Nat} (some_ : 0 < n) (past : base + size ≤ a) : inRange a n base size = false := by
  rw [inRange, Bool.and_eq_false_iff, decide_eq_false_iff_not, decide_eq_false_iff_not]
  omega

/-- Both regions of the memory end below the registers (R286). -/
theorem isMemory_past {a n : Nat} (some_ : 0 < n) (past : l2Base + 0x280000 ≤ a) : isMemory a n = false := by
  have tcm : 0x10000000 + 0x180000 ≤ a := le_trans (by decide) past
  rw [isMemory, inRange_past some_ tcm, inRange_past some_ past]
  rfl

/-- The power manager's registers lie beside the memory, the CIC and the dispatcher (R286). -/
theorem coreStore_power {s : State} {c : CoreId} {off : Nat} (v : Dword) (be : BitVec 4) (inside : off < 0x10000)
    (ok : storeOk s c (0x40020000 + off)) : coreStore c (0x40020000 + off) v be s =
    .next { s with eng := noted s.eng (pwrWrite c off v be s.eng s.cores)
                   cores := settleCores (pwrWrite c off v be s.eng s.cores) s.cores } := by
  obtain ⟨-, may, on⟩ := ok
  have memory : isMemory (0x40020000 + off) 4 = false := isMemory_past (by decide) (by rw [l2Base]; omega)
  have past {lo hi : Nat} (above : hi ≤ 0x40020000) :
      (decide (lo ≤ 0x40020000 + off) && decide (0x40020000 + off < hi)) = false := by
    rw [Bool.and_eq_false_iff, decide_eq_false_iff_not (p := _ < _)]
    omega
  have power : (decide (0x40020000 ≤ 0x40020000 + off) && decide (0x40020000 + off < 0x40030000)) = true := by
    rw [Bool.and_eq_true, decide_eq_true_eq, decide_eq_true_eq]
    omega
  rw [coreStore, if_neg (by simp [may]), on]
  simp only [memory, past (hi := 0x40010000) (by decide), past (hi := 0x40020000) (by decide), power,
    Bool.false_eq_true, if_false, if_true, onBoth_eq, Nat.add_sub_cancel_left]

theorem registerWrite_holds : Claim.registerWrite := by
  refine ⟨fun s f off v be ok below other => ?host, fun s f v be => ?mailbox, fun s c a v be ok memory => ?memory,
    fun s c a v be running denied => ?denied, fun s c off v be inside ok => ?power,
    fun s c a v be b running may off => ?off⟩
  case host =>
    show bar0Write f off v be s = _
    rw [bar0Write, if_neg other, if_pos below, hostAccess_acts ok]
  case mailbox =>
    show bar0Write f 0x1080 v be s = execMbxGo f v be s
    exact if_pos rfl
  case memory => rw [exec_registerWrite_core v be ok.1, coreStore_memory v be ok memory]
  case denied => rw [exec_registerWrite_core v be running, coreStore_denied v be denied]
  case power => rw [exec_registerWrite_core v be ok.1, coreStore_power v be inside ok]
  case off => rw [exec_registerWrite_core v be running, coreStore_off v be may off]

end Sys2Proof.Machine

namespace Sys2Proof

open Sys2Proof.Machine

/-- Settles O58: an access of the host by whether it reaches a block that is on, a store of a core by its right and its
target. -/
theorem registerCommandsComplete : Obligations.RegisterCommandsComplete :=
  ⟨etcLo_holds, frameExtLo_holds, arbiterSetDword0Read_holds, cntCtrl_holds, testKey_holds, tpCtl_holds, dbgHalt_holds,
    tripSoft_holds, registerWrite_holds⟩

end Sys2Proof
end


section
/-! The interrupt controller (R303 to R321): where an event of a source goes, what a store to an array comes to, then each
command of the CIC. -/

namespace Sys2Proof.Machine

open Sys2Proof.Claim

/-! ## Events of sources (R304, R305, R307, R319) -/

section Events

variable {s : State} {n : SrcId}

/-- The watcher takes the events of exactly the sources that are held (R319). -/
theorem watched_iff_held : s.eng.watched n = true ↔ held s n := by
  simp [Engine.watched, held]

/-- A source whose level has fallen: it no longer pends (R307). -/
abbrev lowered (n : SrcId) (k : Cores) : Cores := modSrc n (fun x => { x with level := false, pending := false }) k

/-- Whether the watcher holds a source depends on the engine's chip state alone. -/
theorem watched_congr {e e' : Engine} (chip : e'.pwr.chip = e.pwr.chip) : e'.watched n = e.watched n := by
  rw [Engine.watched, chip, Engine.watched]

theorem srcEvent_watched {e : Engine} (watched : e.watched n = true) (rise : Bool) (k : Cores) :
    srcEvent e n rise k = watchHold e.now n (!rise || !(bitOf k.wPend n.val || (k.s n).pending)) k :=
  if_pos watched

theorem srcEvent_pulse {e : Engine} (free : ¬ e.watched n = true) (k : Cores) :
    srcEvent e n false k = settleCores e (pend e.now n k) :=
  if_neg free

theorem srcEvent_rise {e : Engine} (free : ¬ e.watched n = true) (k : Cores) :
    srcEvent e n true k = settleCores e (pendRise e.now n k) :=
  if_neg free

theorem pendRise_idle {k : Cores} (idle : (k.s n).pending = false) (now : Nat) : pendRise now n k = pend now n k := by
  rw [pendRise, idle, if_neg Bool.false_ne_true]

theorem pendRise_pending {k : Cores} (pending : (k.s n).pending = true) (now : Nat) : pendRise now n k = k :=
  if_pos pending

/-- An input's rise leaves the source's pending bit alone. -/
theorem raised_pending (n : SrcId) (k : Cores) :
    ((modSrc n (fun x => { x with level := true }) k).s n).pending = (k.s n).pending := by
  simp only [Cores.s, modSrc, vmod_same]

theorem exec_cicPulseEvent (due : s.eng.pulses.contains n.val = true) (real : isReserved n = false)
    (pulses : isLevel n = false) : exec (.cicPulseEvent n) s =
    .next { s with eng := noted s.eng { s.eng with pulses := s.eng.pulses.erase n.val }
                   cores := srcEvent { s.eng with pulses := s.eng.pulses.erase n.val } n false s.cores } := by
  show execCicPulseEvent n s = _
  simp only [execCicPulseEvent, onBoth_eq, due, real, pulses, Bool.not_true, Bool.or_self, Bool.false_eq_true, if_false]

theorem exec_cicLevelRise (ok : riseOk s n) : exec (.cicLevelRise n) s =
    .next { s with cores := srcEvent s.eng n true (modSrc n (fun x => { x with level := true }) s.cores) } := by
  obtain ⟨isLevel_, high, low⟩ := ok
  show execCicLevelRise n s = _
  simp only [execCicLevelRise, onBoth_eq, isLevel_, high, low, Bool.not_true, Bool.or_self, Bool.false_eq_true, if_false,
    noted_self]

theorem exec_cicLevelFall (ok : fallOk s n) : exec (.cicLevelFall n) s =
    .next { s with cores :=
      if s.eng.watched n then
        { lowered n s.cores with wPend := (lowered n s.cores).wPend &&& ~~~(1#64 <<< n.val) }
      else settleCores s.eng (lowered n s.cores) } := by
  obtain ⟨isLevel_, low, high⟩ := ok
  show execCicLevelFall n s = _
  simp only [execCicLevelFall, onBoth_eq, isLevel_, low, high, Bool.not_true, Bool.or_self, Bool.false_eq_true, if_false]
  split <;> simp only [noted_self]

end Events

theorem cicPulseEvent_holds : Claim.cicPulseEvent := by
  intro s n due real pulses e
  have chip : e.watched n = s.eng.watched n := watched_congr rfl
  rw [exec_cicPulseEvent due real pulses]
  refine ⟨fun free => ?_, fun held_ => ?_⟩
  · rw [srcEvent_pulse (by rwa [chip, watched_iff_held])]
  · rw [srcEvent_watched (by rwa [chip, watched_iff_held])]
    rfl

theorem cicLevelRise_holds : Claim.cicLevelRise := by
  intro s n ok k
  have same : (k.s n).pending = (s.cores.s n).pending := raised_pending n s.cores
  rw [exec_cicLevelRise ok]
  refine ⟨fun free idle => ?_, fun free pending => ?_, fun held_ => ?_⟩
  · rw [srcEvent_rise (by rwa [watched_iff_held]), pendRise_idle (same.trans idle)]
  · rw [srcEvent_rise (by rwa [watched_iff_held]), pendRise_pending (same.trans pending)]
  · rw [srcEvent_watched (watched_iff_held.mpr held_), same]
    rfl

theorem cicLevelFall_holds : Claim.cicLevelFall := by
  intro s n ok k
  rw [exec_cicLevelFall ok]
  exact ⟨fun free => by rw [if_neg (by rwa [watched_iff_held])], fun held_ => by rw [if_pos (watched_iff_held.mpr held_)]⟩

/-! ## Claims and EOIs (R309, R313, R314) -/

section Claims

variable {s : State} {c : CoreId}

theorem exec_cicClaim_found (running : runs s c) {n : SrcId} (best : bestSource s.eng s.cores c = some n) :
    exec (.cicClaim c c) s =
      let e := { s.eng with readValue := (claimWord s.eng s.cores (some n)).setWidth 64 }
      .next { s with eng := noted s.eng e, cores := settleCores e (claim c n s.cores) } := by
  show execCicClaim c c s = _
  simp [execCicClaim, running, best]

theorem exec_cicClaim_none (running : runs s c) (best : bestSource s.eng s.cores c = none) :
    exec (.cicClaim c c) s = .next { s with eng := noted s.eng { s.eng with readValue := 1023 } } := by
  show execCicClaim c c s = _
  simp [execCicClaim, running, best, claimWord]

theorem exec_cicClaim_foreign (running : runs s c) {d : CoreId} (foreign : d ≠ c) :
    exec (.cicClaim d c) s = .next { s with cores := loadFault c (0x40004000 + 16 * d.val) s.cores } := by
  show execCicClaim d c s = _
  simp [execCicClaim, running, foreign]

theorem exec_cicEoi (running : runs s c) (v : Dword) :
    exec (.cicEoi c c v) s = .next { s with cores := settleCores s.eng (eoi s.eng c (fldN v 0 10) s.cores) } := by
  show execCicEoi c c v s = _
  simp [execCicEoi, running]

theorem exec_cicEoi_foreign (running : runs s c) {d : CoreId} (foreign : d ≠ c) (v : Dword) :
    exec (.cicEoi d c v) s = .next { s with cores := storeFault c (0x40004004 + 16 * d.val) s.cores } := by
  show execCicEoi d c v s = _
  simp [execCicEoi, running, foreign]

variable {e : Engine} {k : Cores} {v p n : Nat} {rest : List (Nat × Nat)}

theorem eoi_top (stack : (k.at c).stack = (p, n) :: rest) (names : v = n) (some_ : n ≠ 1023) :
    eoi e c v k = endActive e (finOf 512 n) (modCore c (fun x => { x with stack := rest }) k) := by
  rw [eoi, if_neg (names ▸ some_), stack]
  exact if_pos names.symm

theorem eoi_other (stack : (k.at c).stack = (p, n) :: rest) (names : v ≠ n) (some_ : v ≠ 1023) :
    eoi e c v k = modCore c (fun x => { x with eoiErr := true }) k := by
  rw [eoi, if_neg some_, stack]
  exact if_neg names.symm

theorem eoi_none (none_ : v = 1023) : eoi e c v k = k := if_pos none_

end Claims

theorem cicClaim_holds : Claim.cicClaim := fun _ _ running =>
  ⟨fun _ best => exec_cicClaim_found running best, exec_cicClaim_none running,
    fun _ foreign => exec_cicClaim_foreign running foreign⟩

theorem cicEoi_holds : Claim.cicEoi := by
  intro s c v running
  rw [exec_cicEoi running]
  refine ⟨fun p n rest stack names some_ => ?top, fun p n rest stack names some_ => ?other, fun none_ => ?none,
    fun d foreign => exec_cicEoi_foreign running foreign v⟩
  case top => rw [eoi_top stack names some_]
  case other => rw [eoi_other stack names some_]
  case none => rw [eoi_none none_]

/-! ## Stores to the arrays (R306 to R308, R317, R318) -/

section Arrays

variable {s : State} {c : CoreId}

theorem arrayWrite_acts (running : runs s c) (w : Fin 16) (v : Dword) (f : Engine → SrcId → Cores → Cores) :
    arrayWrite c w v f s =
      .next { s with cores := settleCores s.eng (forCores (wordSources c w v) (f s.eng) s.cores) } := by
  simp [arrayWrite, running]

/-- A command that is a store to an array. -/
theorem arrays_of_arrayWrite {f : Engine → SrcId → Cores → Cores} {cmd : CoreId → Fin 16 → Dword → Instr}
    (is : ∀ s c w v, exec (cmd c w v) s = arrayWrite c w v f s) : arrays f cmd := by
  intro s c w v running
  rw [is, arrayWrite_acts running]

/-- A quarantined source is not unmasked (R317). -/
theorem setMask_quarantined {n : SrcId} {k : Cores} (quar : (k.s n).quar = true) :
    ((setMask false n k).s n).masked = (k.s n).masked := by
  simp only [setMask, Cores.s, modSrc, vmod_same, Bool.false_eq_true, if_false]
  rw [if_pos quar]

end Arrays

theorem cicPendSet_holds : Claim.cicPendSet := by
  unfold Claim.cicPendSet
  exact arrays_of_arrayWrite fun _ _ _ _ => rfl

theorem cicPendClr_holds : Claim.cicPendClr := by
  unfold Claim.cicPendClr
  exact arrays_of_arrayWrite fun _ _ _ _ => rfl

theorem cicMaskSet_holds : Claim.cicMaskSet := by
  unfold Claim.cicMaskSet
  exact arrays_of_arrayWrite fun _ _ _ _ => rfl

theorem cicMaskClr_holds : Claim.cicMaskClr := by
  unfold Claim.cicMaskClr
  exact ⟨arrays_of_arrayWrite fun _ _ _ _ => rfl, fun _ _ quar => setMask_quarantined quar⟩

theorem cicWakeSet_holds : Claim.cicWakeSet := by
  unfold Claim.cicWakeSet
  exact arrays_of_arrayWrite fun _ _ _ _ => rfl

theorem cicWakeClr_holds : Claim.cicWakeClr := by
  unfold Claim.cicWakeClr
  exact arrays_of_arrayWrite fun _ _ _ _ => rfl

theorem cicQuar_holds : Claim.cicQuar := by
  unfold Claim.cicQuar
  exact arrays_of_arrayWrite fun _ _ _ _ => rfl

/-! ## Routes, priorities, quarantine (R306, R309, R317) -/

theorem cicRoute_holds : Claim.cicRoute := by
  intro s c n v running
  refine ⟨fun sees => ?_, fun blind => ?_⟩
  · show execCicRoute c n v s = _
    simp [execCicRoute, setRoute, running, sees]
  · show execCicRoute c n v s = _
    simp [execCicRoute, blind]

theorem cicPrio_holds : Claim.cicPrio := by
  intro s c n v running
  refine ⟨fun sees ranked => ?_, fun unranked => ?_⟩
  · show execCicPrio c n v s = _
    simp [execCicPrio, running, sees, Nat.not_lt.mpr ranked]
  · show execCicPrio c n v s = _
    simp [execCicPrio, unranked]

theorem stormQuarantine_holds : Claim.stormQuarantine := by
  intro s n hot unmasked
  show execStormQuarantine n s = _
  simp only [execStormQuarantine, onBoth_eq, hot, unmasked, Bool.not_true, Bool.or_self, Bool.false_eq_true, if_false]

end Sys2Proof.Machine

namespace Sys2Proof

open Sys2Proof.Machine

/-- Settles O54: an event by whether the watcher holds its source, a claim by the best source, an EOI by the stack's top. -/
theorem sourcesComplete : Obligations.SourcesComplete :=
  ⟨cicPulseEvent_holds, cicLevelRise_holds, cicLevelFall_holds, cicClaim_holds, cicEoi_holds⟩

/-- Settles O55: every array command is one store over the sources that the core sees. -/
theorem cicStoresComplete : Obligations.CicStoresComplete :=
  ⟨cicPendSet_holds, cicPendClr_holds, cicMaskSet_holds, cicMaskClr_holds, cicWakeSet_holds, cicWakeClr_holds, cicQuar_holds,
    cicRoute_holds, cicPrio_holds, stormQuarantine_holds⟩

end Sys2Proof
end


section
/-! Sleep and wake (R318, R319, R323 to R335, R352): the ends of a preparation, the commit, the entry, the start of an exit and
its end. -/

namespace Sys2Proof.Machine

open Sys2Proof.Claim

/-! ## The preparation (R325, R326) -/

section Preparation

variable {e : Engine}

theorem sweepPrep_drained (drain : e.pwr.prepDrain = true) (ended : (e.items.all fun i => i.jr.status.isSome) = true) :
    sweepPrep e = withPwr e { e.pwr with prepDrain := false, sleep := true } := by
  rw [sweepPrep, drain, ended]
  rfl

theorem sweepPrep_started (left : (e.items.all fun i => i.jr.status.isSome) = false) : sweepPrep e = e := by
  rw [sweepPrep, left, Bool.and_false, if_neg Bool.false_ne_true]

end Preparation

theorem powerStateDrainTimeout_holds : Claim.powerStateDrainTimeout := by
  intro s drain
  refine ⟨fun left => ?_, fun ended => ?_⟩
  · show execPowerStateDrainTimeout s = _
    simp [execPowerStateDrainTimeout, sweepPrep_started left, drain]
  · show execPowerStateDrainTimeout s = _
    simp [execPowerStateDrainTimeout, sweepPrep_drained drain ended, drain]

theorem exec_sleepRequestTimeout {s : State} (ok : sleepWaits s) : exec .sleepRequestTimeout s =
    .next { s with eng := noted s.eng (if usersAsleep s.eng s.cores then finishPrep s.eng else failPrep s.eng) } := by
  obtain ⟨prep, drained, asked, free⟩ := ok
  have waits : (s.eng.pwr.prep.isNone || s.eng.pwr.prepDrain || !s.eng.pwr.sleep || s.eng.pwr.held.isSome) = false := by
    rw [← Option.not_isSome, prep, drained, asked, free]
    rfl
  show execSleepRequestTimeout s = _
  simp only [execSleepRequestTimeout, onBoth_eq, waits, Bool.false_eq_true, if_false]

theorem sleepRequestTimeout_holds : Claim.sleepRequestTimeout := by
  intro s ok
  rw [exec_sleepRequestTimeout ok]
  exact ⟨fun asleep => by rw [if_pos asleep], fun awake_ => by rw [awake_, if_neg Bool.false_ne_true]⟩

/-! ## WFI and the commit (R310, R322, R324, R327) -/

/-- What a core's WFI asks of the power manager: core 0 in mode 2 or 3 asks for the commit, or is told NOTREADY (R324). -/
def askCommit (c : CoreId) (k : Cores) (e : Engine) : Engine :=
  if c.val = 0 ∧ 2 ≤ (e.pwr.mode[c.val]).toNat then
    if othersReady e k then withPwr e { e.pwr with request := some (e.pwr.mode[c.val]).toNat }
    else withPwr e { e.pwr with notReady := true }
  else e

theorem exec_coreWfi {s : State} {c : CoreId} (running : runs s c) : exec (.coreWfi c) s =
    let k := modCore c (fun x => { x with wfi := true }) s.cores
    let e := askCommit c k (advancePrep k s.eng)
    .next { s with eng := noted s.eng e, cores := settleCores e k } := by
  show execCoreWfi c s = _
  simp only [execCoreWfi, onBoth_eq, show executes s.eng s.cores c = true from running, Bool.not_true, Bool.false_eq_true,
    if_false, askCommit, Bool.and_eq_true, decide_eq_true_eq]

theorem coreWfi_holds : Claim.coreWfi := by
  intro s c running k e m
  rw [exec_coreWfi running]
  dsimp only
  refine ⟨fun plain => ?plain, fun first deep ready => ?asks, fun first deep unready => ?early⟩
  case plain =>
    have not : ¬ (c.val = 0 ∧ 2 ≤ m) := fun ⟨first, deep⟩ => plain.elim (· first) (Nat.not_lt.mpr deep)
    rw [askCommit, if_neg not]
  case asks => rw [askCommit, if_pos ⟨first, deep⟩, if_pos ready]
  case early => rw [askCommit, if_pos ⟨first, deep⟩, unready, if_neg Bool.false_ne_true]

theorem powerCommit_holds : Claim.powerCommit := by
  intro s m request
  refine ⟨fun pends => ?_, fun quiet => ?_⟩
  · show execPowerCommit s = _
    simp only [execPowerCommit, onBoth_eq, request, pends, if_true]
  · show execPowerCommit s = _
    simp only [execPowerCommit, onBoth_eq, request, quiet, Bool.false_eq_true, if_false]

/-! ## The entry (R328, R342) -/

theorem entrySequenceEnd_holds : Claim.entrySequenceEnd := by
  intro s entering p
  refine ⟨fun dormant none_ => ?stops, fun fallow none_ => ?rests, fun w fallow pended => ?wakes⟩
  case stops =>
    show execEntrySequenceEnd s = _
    simp [execEntrySequenceEnd, entering, dormant, none_, p]
  case rests =>
    show execEntrySequenceEnd s = _
    simp [execEntrySequenceEnd, entering, fallow, none_, p]
  case wakes =>
    show execEntrySequenceEnd s = _
    simp [execEntrySequenceEnd, entering, fallow, pended, p]

/-! ## The start of an exit (R328, R332, R333, R352) -/

section Wake

variable {src : WakeSrc} {e : Engine}

@[simp] theorem signalWake_pwr (e : Engine) : (signalWake e).pwr = e.pwr :=
  whenE_keeps (·.pwr) _ _ _ fun _ => rfl

@[simp] theorem signalWake_pins (e : Engine) :
    (signalWake e).pins = { e.pins with peWake := e.pins.peWake || e.pcie.link == .l2 } :=
  whenE_keeps (·.pins) _ _ _ fun _ => rfl

/-- PM_PME is sent with the link up and the PF in D3hot (R352). -/
theorem signalWake_host (e : Engine) : (signalWake e).out.host
    = e.out.host ++ (if e.pcie.link = .l0 ∧ (e.pfn pf).d3 = true then [.pme] else []) := by
  by_cases sleeps : e.pcie.link = .l0 ∧ (e.pfn pf).d3 = true
  · simp [signalWake, emitHost, sleeps]
  · have silent : (e.pcie.link == .l0 && (e.pfn pf).d3) = false := by
      rw [← Bool.not_eq_true, Bool.and_eq_true, beq_iff_eq]
      exact sleeps
    simp [signalWake, silent, sleeps]

theorem startWake_exits (asleep : e.pwr.chip ≠ .active) (idle : e.pwr.exiting = false) (entered : e.pwr.entering = false) :
    startWake src e = startExit src (signalWake e) := by
  simp [startWake, asleep, idle, entered]

theorem startWake_pends (asleep : e.pwr.chip ≠ .active) (idle : e.pwr.exiting = false) (entering : e.pwr.entering = true)
    (first : e.pwr.pendedWake = none) : startWake src e = signalWake (withPwr e { e.pwr with pendedWake := some src }) := by
  simp [startWake, asleep, idle, entering, first]

theorem startWake_later (entering : e.pwr.entering = true) (later : e.pwr.pendedWake ≠ none) : startWake src e = e := by
  simp [startWake, entering, Option.isSome_iff_ne_none.mpr later]

end Wake

theorem wakeStarts_holds : Claim.wakeStarts := by
  intro src e asleep idle
  refine ⟨fun entered => ?exits, fun entering first => ?pends, fun entering later => startWake_later entering later⟩
  case exits =>
    rw [startWake_exits asleep idle entered]
    refine ⟨rfl, rfl, ?_, ?_, signalWake_host e⟩
    · simp [startExit]
    · simp [startExit]
  case pends =>
    rw [startWake_pends asleep idle entering first]
    exact ⟨signalWake_pwr _, signalWake_host _⟩

theorem wakeEvent_holds : Claim.wakeEvent := by
  intro s asleep
  refine ⟨fun n wakes able => ?source, fun due => ?timer, fun fallow go => ?mailbox⟩
  case source =>
    show execWakeEvent (.source n) s = _
    simp only [execWakeEvent, onBoth_eq, wakes, able, beq_eq_false_iff_ne.mpr asleep, Bool.and_self, Bool.not_true,
      Bool.or_self, Bool.false_eq_true, if_false]
    rfl
  case timer =>
    show execWakeEvent .timer s = _
    simp only [execWakeEvent, onBoth_eq, due, beq_eq_false_iff_ne.mpr asleep, Bool.not_true, Bool.or_self,
      Bool.false_eq_true, if_false, beq_self_eq_true, if_true]
  case mailbox =>
    show execWakeEvent .mailbox s = _
    simp only [execWakeEvent, onBoth_eq, go, fallow]
    rfl

theorem watcherWakeRequest_holds : Claim.watcherWakeRequest := by
  intro s n c cs wakes able
  refine ⟨fun asleep => ?chip, fun active sleep free => ?core⟩
  case chip =>
    show execWatcherWakeRequest n s = _
    simp only [execWatcherWakeRequest, onBoth_eq, wakes, able, bne_iff_ne.mpr asleep, Bool.not_true, Bool.false_eq_true,
      if_false, if_true]
  case core =>
    show execWatcherWakeRequest n s = _
    simp only [execWatcherWakeRequest, onBoth_eq, wakes, able, active, bne_self_eq_false, sleep, free, Option.isSome_none,
      Bool.or_self, Bool.not_true, Bool.false_eq_true, if_false]

/-! ## The end of an exit (R319, R334, R335) -/

theorem wakeExitDone_holds : Claim.wakeExitDone := by
  intro s ok
  obtain ⟨exiting, stepped, locked⟩ := ok
  have unlocked : (s.eng.pwr.leaving == .dormant && !s.eng.allLocked) = false := by
    by_cases dormant : s.eng.pwr.leaving = .dormant
    · rw [locked dormant, Bool.not_true, Bool.and_false]
    · rw [beq_eq_false_iff_ne.mpr dormant, Bool.false_and]
  show execWakeExitDone s = _
  simp only [execWakeExitDone, onBoth_eq, exiting, stepped, unlocked, List.isEmpty_nil, Bool.not_true, Bool.or_self,
    Bool.false_eq_true, if_false]

end Sys2Proof.Machine

namespace Sys2Proof

open Sys2Proof.Machine

/-- Settles O52: WFI by what core 0 asks, the commit by whether a wake pends, a wake by whether the entry still runs. -/
theorem sleepAndWakeComplete : Obligations.SleepAndWakeComplete :=
  ⟨coreWfi_holds, powerCommit_holds, entrySequenceEnd_holds, wakeStarts_holds, wakeEvent_holds, wakeExitDone_holds,
    watcherWakeRequest_holds, powerStateDrainTimeout_holds, sleepRequestTimeout_holds⟩

end Sys2Proof
end


section
/-! The step (log entry 1) and the event counters (R395). -/

namespace Sys2Proof.Machine

theorem stepRunsFront_holds : Claim.stepRunsFront := by
  intro s c rest queue
  rw [step, queue]

/-- R343: of the engine a tick changes the clock record alone. -/
theorem stepTicks_holds : Claim.stepTicks := by
  intro s empty
  have ticks : step s = .next (tick s) := by rw [step, empty]
  exact ⟨tick s, ticks, empty, rfl, rfl, rfl⟩

theorem bump_toNat (c : Dword) : (bump c).toNat = min (c.toNat + 1) 0xFFFFFFFF := by
  unfold bump
  split
  case isTrue full => rw [full]; rfl
  case isFalse room => bv_omega

theorem bump_iterate_toNat (c : Dword) (n : Nat) : (bump^[n] c).toNat = min (c.toNat + n) 0xFFFFFFFF := by
  induction n with
  | zero => exact (min_eq_left (Nat.le_of_lt_succ c.isLt)).symm
  | succ n ih =>
    rw [Function.iterate_succ_apply', bump_toNat, ih]
    omega

theorem bumpAt_getElem (v : Vector Dword 16) {k j : Nat} (hk : k < 16) (hj : j < 16) :
    (bumpAt v k)[j] = if j = k then bump v[j] else v[j] := by
  have counter : finOf 16 k = ⟨k, hk⟩ := Fin.ext (Nat.mod_eq_of_lt hk)
  rw [bumpAt, counter]
  refine (vmod_at v ⟨k, hk⟩ ⟨j, hj⟩ bump).trans ?_
  simp only [Fin.mk.injEq, eq_comm]

theorem countersSaturate_holds : Claim.countersSaturate :=
  ⟨bump_toNat, bump_iterate_toNat, fun v _ _ hk hj => bumpAt_getElem v hk hj⟩

end Sys2Proof.Machine

namespace Sys2Proof

open Sys2Proof.Machine

/-- Settles O1: the step is read off a queue that is not empty. -/
theorem stepRunsTheFrontCommand : Obligations.StepRunsTheFrontCommand := stepRunsFront_holds

/-- Settles O2: the step is the tick, which replaces the clock record. -/
theorem stepTicksOnAnEmptyQueue : Obligations.StepTicksOnAnEmptyQueue := stepTicks_holds

/-- Settles O20: one event, then induction on the number of events; the counters beside are other elements of the array. -/
theorem countersSaturate : Obligations.CountersSaturate := countersSaturate_holds

end Sys2Proof
end


section
/-! What an answer can be (R24, R405): a next state with the queue as it was, in which engine and cores may differ; only
L2_LOAD stops. -/

namespace Sys2Proof.Machine

/-- The answer is a next state with the queue as it was; only where the flags say so do the cores and the engine differ. -/
structure Reaches (inCores inEngine : Bool) (s : State) (a : Answer) : Prop where
  next : ∃ t, a = .next t ∧ t.pending = s.pending ∧ (inCores = false → t.cores = s.cores)
    ∧ (inEngine = false → t.eng = s.eng)

/-- What both results of a test agree in, the test's result has. -/
theorem ite_agrees {α γ : Sort _} (p : α → γ) {g : γ} {c : Prop} [Decidable c] {a b : α} (yes : p a = g) (no : p b = g) :
    p (if c then a else b) = g := by
  split
  · exact yes
  · exact no

/-! ## The shapes of a meaning -/

section Shapes

variable {s : State}

theorem Reaches.ite {inCores inEngine : Bool} {c : Prop} [Decidable c] {a b : Answer} (yes : Reaches inCores inEngine s a)
    (no : Reaches inCores inEngine s b) : Reaches inCores inEngine s (if c then a else b) := by
  split
  · exact yes
  · exact no

theorem onEng_reaches {inCores : Bool} (f : Engine → Engine) : Reaches inCores true s (onEng s f) :=
  ⟨_, rfl, rfl, fun _ => rfl, nofun⟩

theorem onCores_reaches {inEngine : Bool} (f : Cores → Cores) : Reaches true inEngine s (onCores s f) :=
  ⟨_, rfl, rfl, nofun, fun _ => rfl⟩

theorem onBoth_reaches (f : Engine → Cores → Engine × Cores) : Reaches true true s (onBoth s f) :=
  ⟨_, rfl, rfl, nofun, nofun⟩

theorem onBoth_reachesEngine {inCores : Bool} {f : Engine → Cores → Engine × Cores} (cores : ∀ e k, (f e k).2 = k) :
    Reaches inCores true s (onBoth s f) := ⟨_, rfl, rfl, fun _ => cores _ _, nofun⟩

theorem onBoth_reachesCores {inEngine : Bool} {f : Engine → Cores → Engine × Cores} (eng : ∀ e k, (f e k).1 = e) :
    Reaches true inEngine s (onBoth s f) :=
  ⟨_, rfl, rfl, nofun, fun _ => by rw [eng, noted_self]⟩

/-- A register access of the host. -/
theorem hostAccess_reaches (h : Fn) (off : Nat) (act : Engine → Cores → Engine × Cores) :
    Reaches true true s (hostAccess h off act s) := onBoth_reaches _

/-- One that leaves the cores. -/
theorem hostAccess_reachesEngine (h : Fn) (off : Nat) {act : Engine → Cores → Engine × Cores}
    (cores : ∀ e k, (act e k).2 = k) : Reaches false true s (hostAccess h off act s) := by
  refine onBoth_reachesEngine fun e k => ite_agrees Prod.snd rfl ?_
  split
  · rfl
  · exact cores e k

/-- A store to a 16-word array of the CIC. -/
theorem arrayWrite_reaches {inEngine : Bool} (c : CoreId) (w : Fin 16) (v : Dword) (f : Engine → SrcId → Cores → Cores) :
    Reaches true inEngine s (arrayWrite c w v f s) := onBoth_reachesCores fun _ _ => ite_agrees Prod.fst rfl rfl

/-- A store to a register of a thread. -/
theorem threadWrite_reaches {inEngine : Bool} (c : CoreId) (u : ThreadId) (off : Nat) (f : Engine → Cores → Cores) :
    Reaches true inEngine s (threadWrite c u off f s) :=
  onBoth_reachesCores fun _ _ => ite_agrees Prod.fst rfl (ite_agrees Prod.fst rfl rfl)

/-- A store to a dispatcher register of a core. -/
theorem coreWrite_reaches {inEngine : Bool} (c d : CoreId) (off : Nat) (f : Engine → Cores → Cores) :
    Reaches true inEngine s (coreWrite c d off f s) :=
  onBoth_reachesCores fun _ _ => ite_agrees Prod.fst rfl (ite_agrees Prod.fst rfl rfl)

/-- A Skelku service. -/
theorem service_reaches (c : CoreId) (f : Engine → ThreadId → Cores → Engine × Cores) :
    Reaches true true s (service c f s) := onBoth_reaches _

theorem fenceWhen_reaches (p : Engine → Bool) : Reaches true true s (fenceWhen p s) := onBoth_reaches _

end Shapes

/-! ## The commands that take a register's address, or a read's kind -/

section Addressed

variable {s : State}

theorem bar0Write_reaches (f : Fn) (off : Nat) (v : Dword) (be : BitVec 4) :
    Reaches true true s (bar0Write f off v be s) := by
  refine .ite (onEng_reaches _) <| .ite (hostAccess_reaches ..) <| .ite (hostAccess_reaches ..) <|
    .ite (hostAccess_reaches ..) <| .ite (hostAccess_reaches ..) <| .ite (hostAccess_reaches ..) <|
    .ite (.ite (hostAccess_reaches ..) (hostAccess_reaches ..)) <| .ite (hostAccess_reaches ..) ?_
  split
  · exact .ite (hostAccess_reaches ..) (hostAccess_reaches ..)
  · exact hostAccess_reaches ..

theorem cicWrite_reaches (c : CoreId) (off : Nat) (v : Dword) (be : BitVec 4) :
    Reaches true true s (cicWrite c off v be s) := by
  refine .ite (arrayWrite_reaches ..) <| .ite (arrayWrite_reaches ..) <| .ite (arrayWrite_reaches ..) <|
    .ite (arrayWrite_reaches ..) <| .ite (arrayWrite_reaches ..) <| .ite (arrayWrite_reaches ..) <|
    .ite (arrayWrite_reaches ..) <| .ite (onBoth_reaches _) <| .ite (onBoth_reaches _) ?_
  split
  · exact onEng_reaches _
  · refine .ite (onEng_reaches _) ?_
    split
    · exact onBoth_reaches _
    · exact onBoth_reaches _
    · exact onCores_reaches _
    · exact onEng_reaches _

theorem dspWrite_reaches (c : CoreId) (off : Nat) (v : Dword) (be : BitVec 4) :
    Reaches true true s (dspWrite c off v be s) := by
  refine .ite (threadWrite_reaches ..) <| .ite (threadWrite_reaches ..) <| .ite (threadWrite_reaches ..) <|
    .ite (threadWrite_reaches ..) <| .ite (threadWrite_reaches ..) <| .ite (threadWrite_reaches ..) <|
    .ite (threadWrite_reaches ..) ?_
  split
  · exact onEng_reaches _
  · refine .ite (onEng_reaches _) ?_
    split
    case h_7 => exact onEng_reaches _
    all_goals exact coreWrite_reaches ..

theorem coreStore_reaches (c : CoreId) (addr : Nat) (v : Dword) (be : BitVec 4) :
    Reaches true true s (coreStore c addr v be s) := by
  refine .ite (onCores_reaches _) ?_
  split
  · exact onBoth_reaches _
  · exact .ite (onCores_reaches _) <| .ite (cicWrite_reaches ..) <| .ite (dspWrite_reaches ..) <| .ite (onBoth_reaches _) <|
      .ite (onBoth_reaches _) (onEng_reaches _)

theorem registerWrite_reaches (port : RegPort) (addr : Nat) (v : Dword) (be : BitVec 4) :
    Reaches true true s (execRegisterWrite port addr v be s) := by
  cases port with
  | bar0 f => exact bar0Write_reaches f addr v be
  | core c => exact .ite (coreStore_reaches c addr v be) (onEng_reaches _)

theorem failedRead_reaches (tag : ReadTag) : Reaches true true s (failedRead tag s) := by
  cases tag with
  | hostCopy t =>
    unfold failedRead
    exact onBoth_reaches _
  | _ =>
    unfold failedRead
    exact onEng_reaches _

end Addressed

/-! ## The commands -/

theorem arbiterSetDword0Read_reachesEngine (f : Fn) (off : Nat) (s : State) :
    Reaches false true s (execArbiterSetDword0Read f off s) := by
  refine hostAccess_reachesEngine f off fun e k => ?_
  split
  · rfl
  · rfl

/-- L2_LOAD stops where it acts and the four bytes at its offset pass the end of L2. -/
theorem l2Load_reaches (dr : Qword) (s : State) : Reaches true true s (execL2Load dr s)
    ∨ 2621440 < fldN dr 0 32 + 4 ∧ execL2Load dr s = .fault .l2OffsetBeyond := by
  unfold execL2Load
  dsimp only
  split
  · exact .inl (onEng_reaches _)
  · split
    case isTrue beyond => exact .inr ⟨beyond, rfl⟩
    case isFalse => exact .inl (onBoth_reaches _)

/-- Every command but L2_LOAD on an offset beyond L2 answers a next state, in which the cores differ only if it can act on
them, and the engine only if it is no store to the CIC's arrays or the dispatcher. -/
theorem exec_reaches (c : Instr) (s : State) :
    Reaches (Claim.actsOnCores c) (!Claim.actsOnCoresOnly c) s (exec c s)
      ∨ ∃ dr, c = .l2Load dr ∧ 2621440 < fldN dr 0 32 + 4 ∧ exec c s = .fault .l2OffsetBeyond := by
  cases c with
  | l2Load dr => exact (l2Load_reaches dr s).imp_right fun stops => ⟨dr, rfl, stops⟩
  | registerWrite port addr v be => exact .inl (registerWrite_reaches port addr v be)
  | readCompletionTimeout tag => exact .inl (.ite (failedRead_reaches tag) (onEng_reaches _))
  | cicPendSet | cicPendClr | cicMaskSet | cicMaskClr | cicWakeSet | cicWakeClr | cicQuar =>
    unfold exec
    exact .inl (arrayWrite_reaches ..)
  | dspFlagSet | dspFlagClr | dspWait | start | stop | dspCtx =>
    unfold exec
    exact .inl (threadWrite_reaches ..)
  | dspRun | dspMode =>
    unfold exec
    exact .inl (coreWrite_reaches ..)
  | skelkuYield | skelkuWait | skelkuSignal | skelkuStart | skelkuStop | skelkuSetPriority | skelkuClear | skelkuTime
  | skelkuSleep | skelkuHostCopy | skelkuAttach | skelkuRearm =>
    unfold exec
    exact .inl (service_reaches ..)
  | fence | thermalShutdown =>
    unfold exec
    exact .inl (fenceWhen_reaches _)
  | dbgHalt =>
    unfold exec
    exact .inl (hostAccess_reaches ..)
  | loadUserImage | userCoreControl | controllerResetTakesEffect | eccUncorrectable | firmwareWatchdogExpiry | coreWfi
  | powerCommit | wakeExitDone | pllLockLoss | cicPulseEvent | cicLevelRise | cicLevelFall | cicClaim | cicEoi | cicRoute
  | cicPrio | stormQuarantine | watcherWakeRequest | dispatchSwitch | dspTimerFire | porNAssert | pgAoRise | extest | clamp
  | hostCopyComplete | windowLoad =>
    unfold exec
    exact .inl (onBoth_reaches _)
  | wakeEvent | pwrWakeHiWrite =>
    unfold exec
    exact .inl (onBoth_reachesEngine fun _ _ => ite_agrees Prod.snd rfl (ite_agrees Prod.snd rfl rfl))
  | powerStateDrainTimeout | sleepRequestTimeout | tripSoft =>
    unfold exec
    exact .inl (onBoth_reachesEngine fun _ _ => ite_agrees Prod.snd rfl rfl)
  | powerState =>
    unfold exec
    exact .inl (onBoth_reachesEngine fun _ _ => rfl)
  | cntCtrl | tpCtl =>
    unfold exec
    exact .inl (hostAccess_reachesEngine _ _ fun _ _ => ite_agrees Prod.snd rfl rfl)
  | etcLo | frameExtLo | testKey =>
    unfold exec
    exact .inl (hostAccess_reachesEngine _ _ fun _ _ => rfl)
  | arbiterSetDword0Read f off => exact .inl (arbiterSetDword0Read_reachesEngine f off s)
  | _ =>
    unfold exec
    exact .inl (onEng_reaches _)

theorem everyCommandGoes_holds : Claim.everyCommandGoes := fun c s =>
  (exec_reaches c s).imp_left fun ⟨t, next, _⟩ => ⟨t, next⟩

/-- A command that has answered a next state is no stop. -/
theorem exec_next {c : Instr} {s t : State} (next : exec c s = .next t) : t.pending = s.pending
    ∧ (Claim.actsOnCores c = false → t.cores = s.cores) ∧ ((!Claim.actsOnCoresOnly c) = false → t.eng = s.eng) := by
  obtain ⟨u, reached, rest⟩ | ⟨_, _, _, stops⟩ := exec_reaches c s
  · obtain rfl : u = t := by simpa only [reached, Host.Outcome.next.injEq] using next
    exact rest
  · rw [stops] at next
    nomatch next

theorem commandsLeaveQueue_holds : Claim.commandsLeaveQueue := fun _ _ _ next => (exec_next next).1

theorem commandsKeepTheRest_holds : Claim.commandsKeepTheRest := by
  intro c s t next
  obtain ⟨_, cores, eng⟩ := exec_next next
  exact ⟨cores, fun coresOnly => eng (by rw [coresOnly, Bool.not_true])⟩

end Sys2Proof.Machine

namespace Sys2Proof

open Sys2Proof.Machine

/-- Settles O5: a case for each command, the stop of L2_LOAD apart. -/
theorem everyCommandAnswers : Obligations.EveryCommandAnswers := everyCommandGoes_holds

/-- Settles O6: no command's answer has another queue, and the shape of a listed command leaves the other half. -/
theorem commandsLeaveQueueAndOtherHalf : Obligations.CommandsLeaveQueueAndOtherHalf :=
  ⟨commandsLeaveQueue_holds, commandsKeepTheRest_holds⟩

end Sys2Proof
end


section
/-! Governor, droop, throttle, wake timer and PME_TURN_OFF (R332, R337, R338, R341). -/

namespace Sys2Proof.Machine

open Sys2Proof.Claim

theorem governorStep_holds : Claim.governorStep := by
  intro s
  refine ⟨fun steady awake => ?steps, fun droops => ?waits⟩
  case steps =>
    have may : (s.eng.pwr.droop || (s.eng.pwr.chip != .active && !s.eng.pwr.exiting)) = false := by
      rw [steady, Bool.false_or]
      obtain active | exiting := awake
      · rw [active, bne_self_eq_false, Bool.false_and]
      · rw [exiting, Bool.not_true, Bool.and_false]
    show execGovernorStep s = _
    simp only [execGovernorStep, onEng_eq, may, Bool.false_eq_true, if_false]
  case waits =>
    show execGovernorStep s = _
    simp only [execGovernorStep, onEng_eq, droops, Bool.true_or, if_true]

/-! ## The throttle (R338) -/

section Throttle

variable {e : Engine}

theorem beginThrottle_throttled (throttled : e.pwr.throttled = true) : beginThrottle e = e := by
  simp only [beginThrottle, throttled, Bool.not_true, Bool.and_false, Bool.false_eq_true, if_false]

theorem beginThrottle_cool (cool : e.pwr.therm = false) (high : e.pwr.limitLow = false) : beginThrottle e = e := by
  simp only [beginThrottle, cool, high, Bool.or_self, Bool.false_and, Bool.false_eq_true, if_false]

theorem beginThrottle_starts (cause : (e.pwr.therm || e.pwr.limitLow) = true) (free : e.pwr.throttled = false) :
    beginThrottle e = throttles e e.pwr := by
  simp only [beginThrottle, cause, free, Bool.not_false, Bool.and_self, if_true]

end Throttle

theorem thermAlert_holds : Claim.thermAlert := by
  intro s c released unfenced
  have runs : exec (.thermAlert c) s = .next { s with
      eng := noted s.eng (if alertAt < c then beginThrottle (withPwr s.eng { s.eng.pwr with therm := true })
       else if c ≤ alertAt - 3 then withPwr s.eng { s.eng.pwr with therm := false } else s.eng) } := by
    show execThermAlert c s = _
    simp only [execThermAlert, onEng_eq, released, unfenced, Bool.or_self, Bool.false_eq_true, if_false]
  rw [runs]
  refine ⟨fun hot free => ?starts, fun hot throttled => ?goesOn, fun cold => ?releases, fun warm below => ?keeps⟩
  case starts =>
    rw [if_pos hot, beginThrottle_starts]
    exacts [Bool.true_or _, free]
  case goesOn =>
    rw [if_pos hot, beginThrottle_throttled]
    exact throttled
  case releases => rw [if_neg (by omega), if_pos cold]
  case keeps => rw [if_neg (Int.not_lt.mpr below), if_neg (Int.not_le.mpr warm)]

theorem pwrLimitChange_holds : Claim.pwrLimitChange := by
  intro s released unfenced free
  have runs (low : Bool) : exec (.pwrLimitChange low) s = .next { s with
      eng := noted s.eng (beginThrottle (withPwr s.eng { s.eng.pwr with limitLow := low })) } := by
    show execPwrLimitChange low s = _
    simp only [execPwrLimitChange, onEng_eq, released, unfenced, Bool.or_self, Bool.false_eq_true, if_false]
  refine ⟨?low, fun cool => ?high⟩
  case low =>
    rw [runs, beginThrottle_starts]
    exacts [Bool.or_true _, free]
  case high =>
    rw [runs, beginThrottle_cool]
    exacts [cool, rfl]

theorem throttleEnd_holds : Claim.throttleEnd := by
  intro s throttled
  refine ⟨fun cool high => ?ends, fun stands => ?goesOn⟩
  case ends =>
    show execThrottleEnd s = _
    simp only [execThrottleEnd, onEng_eq, throttled, cool, high, Bool.not_true, Bool.or_self, Bool.false_eq_true, if_false]
  case goesOn =>
    have cause : (!s.eng.pwr.throttled || s.eng.pwr.therm || s.eng.pwr.limitLow) = true := by
      rw [throttled, Bool.not_true, Bool.false_or, Bool.or_eq_true]
      exact stands
    show execThrottleEnd s = _
    simp only [execThrottleEnd, onEng_eq, cause, if_true]

/-! ## The wake timer (R341) -/

theorem pwrWakeFire_holds : Claim.pwrWakeFire := by
  intro s
  refine ⟨fun due => ?fires, fun early => ?waits⟩
  case fires =>
    show execPwrWakeFire s = _
    simp only [execPwrWakeFire, onEng_eq, due, if_true, fireTimer]
  case waits =>
    show execPwrWakeFire s = _
    simp only [execPwrWakeFire, onEng_eq, early, Bool.false_eq_true, if_false]

theorem pwrWakeHiWrite_holds : Claim.pwrWakeHiWrite := by
  intro s c v running
  refine ⟨fun firmware => ?sets, fun user => ?counted⟩
  case sets =>
    show execPwrWakeHiWrite c v s = _
    simp only [execPwrWakeHiWrite, onBoth_eq, running, firmware, Bool.not_true, Bool.false_eq_true, if_false]
  case counted =>
    show execPwrWakeHiWrite c v s = _
    simp only [execPwrWakeHiWrite, onBoth_eq, running, user, Bool.not_true, Bool.false_eq_true, if_false, if_true]

/-! ## PME_TURN_OFF (R332) -/

/-- A link that comes up in another state pulses source 45 (R303). -/
theorem setPcieLink_other {l : PcieLink} {e : Engine} (other : e.pcie.link ≠ l) :
    setPcieLink l e = pulse 45 { e with pcie := { e.pcie with link := l } } := by
  rw [setPcieLink, bne_iff_ne.mpr other, whenE, if_pos rfl]

theorem pmeTurnOff_holds : Claim.pmeTurnOff := by
  intro s up powered
  have drops : setPcieLink .l2 s.eng = pulse 45 { s.eng with pcie := { s.eng.pcie with link := .l2 } } :=
    setPcieLink_other (by rw [up]; decide)
  have stays : (s.eng.pwr.chip == .dormant) = false := beq_eq_false_iff_ne.mpr powered
  show execPmeTurnOff s = _
  simp only [execPmeTurnOff, onEng_eq, up, drops, pulse, stays, bne_self_eq_false, Bool.false_eq_true, if_false]

end Sys2Proof.Machine

namespace Sys2Proof

open Sys2Proof.Machine

/-- Settles O53: each event by whether it is enabled; the throttle by its causes and whether it stands already. -/
theorem powerEventsComplete : Obligations.PowerEventsComplete :=
  ⟨governorStep_holds, fun _ => rfl, fun _ => rfl, thermAlert_holds, pwrLimitChange_holds, throttleEnd_holds,
    pwrWakeFire_holds, pwrWakeHiWrite_holds, pmeTurnOff_holds⟩

end Sys2Proof
end
